-- ==== Sys2Proof/Word.lean ====
section
/-! DEFINITION. The word types of the Draiq 9160 (R5, R53): bytes, 32-bit registers, 64-bit values, 96-bit instruction words. -/

namespace Sys2Proof

/-- A byte of memory (R5). -/
abbrev Byte := BitVec 8
/-- A 32-bit register or the mask of a band's lanes (R9). -/
abbrev Word := BitVec 32
/-- A 64-bit value: a pair, a handle, a sequence (R5). -/
abbrev W64 := BitVec 64
/-- An instruction word W (R53). -/
abbrev W96 := BitVec 96

end Sys2Proof
end

