-- ==== Sys2Proof/Config.lean ====
section
/-! DEFINITION. What every 9160 fixes (R1, R4, R341) and the free values: what the spec leaves open. -/

namespace Sys2Proof

/-- Compute dies (R1). -/
abbrev Config.dies : Nat := 4
/-- Clusters, which are also partitions (R1). -/
abbrev Config.partitions : Nat := 8
/-- Cores of one cluster (R1). -/
abbrev Config.coresPerCluster : Nat := 192
/-- Cores of the device (R1). -/
abbrev Config.cores : Nat := 1536
/-- Seats of one slice (R1). -/
abbrev Config.seatsPerSlice : Nat := 16
/-- Lanes of a band (R1). -/
abbrev Config.lanes : Nat := 32
/-- Registers in each lane bank of a slice (R1, R21). -/
abbrev Config.laneBank : Nat := 1024
/-- Bytes of one core's scratchpad (R1). -/
abbrev Config.scratchBytes : Nat := 524288
/-- Scale-up fabric ports (R1). -/
abbrev Config.fabricPorts : Nat := 24
/-- Page-key slots (R341). -/
abbrev Config.pageKeySlots : Nat := 4096
/-- Bytes of a page (R188). -/
abbrev Config.pageBytes : Nat := 2097152

/-- A value the spec leaves open, one for each reading of State's counter (log entry 5). It has no body: nothing can evaluate it, and a
statement about it holds whatever it is. -/
opaque Config.freeValue : Nat → BitVec 64

/-- A byte string that a secret of the device and an external standard make and the spec does not state (signatures and keys; R359, R360), one
for each reading of State's counter (log entry 5). -/
opaque Config.freeByte : Nat → Byte

/-- The key stream of AES-GCM-256 under a wrapped key and an IV, by place (R361, log entry 5): a ciphertext is the plaintext with it. -/
opaque Config.gcmStream : List Byte → List Byte → Nat → Byte

/-- The bytes of the AES-GCM-256 tag of a ciphertext under a wrapped key, an IV and additional data, by place (R361, log entry 5). -/
opaque Config.gcmTag : List Byte → List Byte → List Byte → List Byte → Nat → Byte

/-- The bytes of the identity block beyond those R343 lists, by the ensign register and their offset: they show whether
the register is valid (R351), in a form the spec does not give (log entry 83). -/
opaque Config.identityByte : Option Nat → Nat → Byte

/-- The bytes of a tile's overflow flag and chain state, its anchor, values at MCHB, sums and special values by element, in a save image,
whose layout the spec does not give (R337, log entry 92). -/
opaque Config.chainBytes : Bool → Option (Int × List (Nat × BitVec 32) × List (Nat × Int) × List (Nat × Nat)) → List Byte

/-- The bytes of an engine operation in a save image, by its number, likewise (R337, log entry 92). -/
opaque Config.snapshotBytes : Nat → List Byte

end Sys2Proof
end

