-- ==== Sys2Proof/Syntax.lean ====
section
/-! DEFINITION. The instructions as syntax: the operand classes, modifiers and fields of R53 to R63, and one constructor
for each row of the opcode table. The program instructions come first, in the order of their codes by chapter;
the events of the machine, its engines and its hosts follow, in the order of the table. -/

namespace Sys2Proof

/-- The hint field HY (R53, R61): none, yield after issue, do not share with the twin. -/
inductive Hint where
  | none | y | s
  deriving DecidableEq, Repr

/-- Guard index, guard negate, lookahead and hint, which every word carries (R53). -/
structure Hdr where
  gp : BitVec 3
  gn : Bool
  la : BitVec 4
  hy : Hint
  deriving DecidableEq, Repr

/-- The type codes of TY and TY2 (R63); dflt is code 0, the opcode's default. -/
inductive Ty where
  | dflt | i4 | i8 | i16 | i32 | i64 | n4 | n8 | n16 | n32 | n64 | f64 | f32 | f16 | bf16 | e5m2 | e4m3 | e2m1 | e8m0
  deriving DecidableEq, Repr

/-- Rounding modes (R39, R63). -/
inductive Rnd where
  | rn | rz | ru | rd
  deriving DecidableEq, Repr

/-- Scopes (R4, R63), from the narrowest. -/
inductive Scope where
  | bd | gr | cl | di | dv | dm | sy
  deriving DecidableEq, Repr

/-- Integer conditions (R118). -/
inductive Cc where
  | eq | ne | lt | le | gt | ge
  deriving DecidableEq, Repr

/-- Floating-point conditions (R142). -/
inductive Fcc where
  | eq | ne | lt | le | gt | ge | un | ord
  deriving DecidableEq, Repr

/-- Predicate operations (R118). -/
inductive Opl where
  | and | or | xor | andn
  deriving DecidableEq, Repr

/-- Reduction operations (R118). -/
inductive Red where
  | add | min | max | and | or | xor
  deriving DecidableEq, Repr

/-- Shuffle modes (R142). -/
inductive ShMode where
  | idx | up | down | xor
  deriving DecidableEq, Repr

/-- Shuffle segment widths (R142). -/
inductive ShSeg where
  | w32 | w2 | w4 | w8 | w16
  deriving DecidableEq, Repr

/-- Vote modes (R142). -/
inductive VoteMode where
  | all | any | uni | bal
  deriving DecidableEq, Repr

/-- Access orderings (R192). -/
inductive Ord where
  | none | acq | rel | ar
  deriving DecidableEq, Repr

/-- Fence kinds (R192). -/
inductive FenceKind where
  | full | rel | acq
  deriving DecidableEq, Repr

/-- Sizes of COPYL (R206). -/
inductive CopySz where
  | b4 | b8 | b16
  deriving DecidableEq, Repr

/-- The assigned system registers (R104). -/
inductive SReg where
  | thread | lane | band | slice | group | unit | stage | cluster | idxX | idxY | idxZ | twin | ctx
  | live | active | canon | fflags | pool | held | poolfree | batch | bdone | inlmax | fixed | accovf | cyc | level
  deriving DecidableEq, Repr

/-- An operand field by class (R55). -/
inductive Opd where
  | v (i : BitVec 8)
  | o (i : BitVec 4)
  | l (i : BitVec 2)
  | b (i : BitVec 6)
  | p (i : BitVec 3)
  | q (i : BitVec 3)
  | acc (i : BitVec 4)
  | s (r : SReg)
  | imm (i : BitVec 11)
  deriving DecidableEq, Repr

/-- Who makes a request: a host through its port's request register, or the service pair (R344). -/
inductive Party where
  | hostA | hostB | service
  deriving DecidableEq, Repr

/-- The common fields of a request (R344): who makes it, its tag, its context number (0 for a device request), the reserved
field at 0x06, and the host address of its response. -/
structure Req where
  party : Party
  tag : BitVec 16
  ctx : Nat
  rsv : BitVec 16
  resp : W64
  deriving DecidableEq, Repr

/-- The decisions of the scheduling policy for one launch (R17): for each cluster in order the class of each gang's record, the partition,
and the core, 0..191, of each gang, by spatial position in order. -/
structure Policy where
  cls : List (List Nat)
  parts : List Nat
  cores : List (List Nat)
  deriving DecidableEq, Repr

/-- What a reply says (R257, R258, R264): whether it grants, the position of a hit, and its 64-bit value. -/
structure ReplyVal where
  grant : Bool
  pos : Nat
  value : W64
  deriving DecidableEq, Repr

/-- The boot configuration and what the self-tests find (R341, R348, R351, R359). -/
structure BootConfig where
  confidential : Bool
  device : BitVec 8
  pass : List Nat
  measurements : List (Nat × List Byte)
  deriving DecidableEq, Repr

/-- The SPDM requests the spec describes (R357 to R359): read a measurement register, extend one, ask for a signed response; and what a
session between devices has found of a device: whether it is attested and in confidential mode. -/
inductive SpdmMsg where
  | measurement (reg : Nat)
  | extend (reg : Nat) (m : List Byte)
  | challenge
  | attest (dev : Nat) (ok : Bool)
  deriving DecidableEq, Repr

/-- The read-modify-writes an access from another device can ask for (R195, R348). -/
inductive AtomOp where
  | add | min | max | and | or | xor | xch | fadd
  deriving DecidableEq, Repr

/-- What an access that arrives over the fabric asks for (R348). -/
inductive PeerOp where
  | load (n : Nat)
  | store (bs : List Byte)
  | atomic (op : AtomOp) (ty : Ty) (v : W64)
  | cas (ty : Ty) (expect new : W64)
  deriving DecidableEq, Repr

/-- An access of another device to this one (R348): the peer's number and context, the context, selector and offset
it names here, and whether it follows a release at `.DM` of its party, which has waited for the party's earlier writes (R312). -/
structure PeerAccess where
  dev : Nat
  peerCtx : Nat
  ctx : Nat
  sel : BitVec 16
  off : Nat
  rel : Bool
  op : PeerOp
  deriving DecidableEq, Repr

/-- What a host does to bytes of its port's BAR2 (R342): a read, a write, or one of the AtomicOps that the device completes. -/
inductive Bar2Op where
  | read
  | write (bs : List Byte)
  | fetchAdd (v : W64)
  | swap (v : W64)
  | cas (expect new : W64)
  deriving DecidableEq, Repr

/-- What a host does to its port's BAR0 outside the launch registers, the consumed index and the listed requests (R343, R345): a write that
is discarded, a read of n bytes, or a request whose code is not listed. -/
inductive Bar0Op where
  | discard (off : Nat)
  | read (off n : Nat)
  | unlisted (r : Req)
  deriving DecidableEq, Repr

/-- A part of a copy's landing (R213, R217, R310, R324): the line operations of a piece start; one unit of its source is read, or one
unit of its destination written, before the rest; or the piece lands with all that is left. -/
inductive CopyStep where
  | start (piece : Nat)
  | read (piece i : Nat)
  | write (piece i : Nat)
  | land (piece : Nat)
  deriving DecidableEq, Repr

/-- What the matrix engine does for a command with scratchpad operands (R221, R224, R310): it reads the word of them at an offset, or
applies the command. -/
inductive CmdStep where
  | read (cmd off : Nat)
  | apply (cmd : Nat)
  deriving DecidableEq, Repr

/-- The TDISP messages that move a port's TDI (R358). -/
inductive TdispMsg where
  | lock | start | stop
  deriving DecidableEq, Repr

/-- The place of a group in a launch, as a bind record or a save image names it (R18). -/
structure Place where
  cluster : Nat
  position : Nat
  deriving DecidableEq, Repr

/-- The instructions and events of the opcode table: the program instructions of R66, R118, R142, R163, R192,
R206, R231, R274 and R292, with the fields of their words, and then the events of the machine, its engines and its hosts. -/
inductive Instr where
  | nop (h : Hdr)
  | mov (h : Hdr) (ty : Ty) (d b : Opd)
  | movLong (h : Hdr) (d : Opd) (imm : Word)
  | sel (h : Hdr) (ty : Ty) (d a b c : Opd)
  | plog (h : Hdr) (op : Opl) (d a b : Opd)
  | iadd (h : Hdr) (ty : Ty) (sat : Bool) (d a b : Opd)
  | iaddLong (h : Hdr) (d a : Opd) (imm : Word)
  | isub (h : Hdr) (ty : Ty) (sat : Bool) (d a b : Opd)
  | isubLong (h : Hdr) (d a : Opd) (imm : Word)
  | imul (h : Hdr) (ty : Ty) (sat : Bool) (d a b : Opd)
  | imulLong (h : Hdr) (d a : Opd) (imm : Word)
  | imulh (h : Hdr) (ty : Ty) (d a b : Opd)
  | imad (h : Hdr) (ty : Ty) (sat : Bool) (d a b c : Opd)
  | idiv (h : Hdr) (ty : Ty) (sat : Bool) (d a b : Opd)
  | irem (h : Hdr) (ty : Ty) (d a b : Opd)
  | imin (h : Hdr) (ty : Ty) (d a b : Opd)
  | imax (h : Hdr) (ty : Ty) (d a b : Opd)
  | iabs (h : Hdr) (ty : Ty) (sat : Bool) (d a : Opd)
  | ineg (h : Hdr) (ty : Ty) (sat : Bool) (d a : Opd)
  | icmp (h : Hdr) (ty : Ty) (cc : Cc) (d a b : Opd)
  | and (h : Hdr) (ty : Ty) (d a b : Opd)
  | andLong (h : Hdr) (d a : Opd) (imm : Word)
  | or (h : Hdr) (ty : Ty) (d a b : Opd)
  | orLong (h : Hdr) (d a : Opd) (imm : Word)
  | xor (h : Hdr) (ty : Ty) (d a b : Opd)
  | xorLong (h : Hdr) (d a : Opd) (imm : Word)
  | andn (h : Hdr) (ty : Ty) (d a b : Opd)
  | not (h : Hdr) (ty : Ty) (d a : Opd)
  | shl (h : Hdr) (ty : Ty) (d a b : Opd)
  | shr (h : Hdr) (ty : Ty) (d a b : Opd)
  | sar (h : Hdr) (ty : Ty) (d a b : Opd)
  | rol (h : Hdr) (ty : Ty) (d a b : Opd)
  | popc (h : Hdr) (ty : Ty) (d a : Opd)
  | clz (h : Hdr) (ty : Ty) (d a : Opd)
  | ctz (h : Hdr) (ty : Ty) (d a : Opd)
  | brev (h : Hdr) (ty : Ty) (d a : Opd)
  | bfx (h : Hdr) (ty : Ty) (d a b : Opd)
  | bfxLong (h : Hdr) (d a : Opd) (imm : Word)
  | bfi (h : Hdr) (ty : Ty) (d a b c : Opd)
  | hadd (h : Hdr) (ty : Ty) (scl : BitVec 3) (d a b : Opd)
  | haddLong (h : Hdr) (d a : Opd) (imm : Word)
  | hsub (h : Hdr) (d a b : Opd)
  | hsel (h : Hdr) (d a : Opd)
  | hoff (h : Hdr) (d a : Opd)
  | hmake (h : Hdr) (d a b : Opd)
  | hcmp (h : Hdr) (cc : Cc) (d a b : Opd)
  | badd (h : Hdr) (ty : Ty) (sat : Bool) (d a b : Opd)
  | baddLong (h : Hdr) (d a : Opd) (imm : Word)
  | bsub (h : Hdr) (ty : Ty) (sat : Bool) (d a b : Opd)
  | bmul (h : Hdr) (ty : Ty) (sat : Bool) (d a b : Opd)
  | band (h : Hdr) (ty : Ty) (d a b : Opd)
  | bor (h : Hdr) (ty : Ty) (d a b : Opd)
  | bxor (h : Hdr) (ty : Ty) (d a b : Opd)
  | bshl (h : Hdr) (ty : Ty) (d a b : Opd)
  | bshr (h : Hdr) (ty : Ty) (d a b : Opd)
  | bsar (h : Hdr) (ty : Ty) (d a b : Opd)
  | bmin (h : Hdr) (ty : Ty) (d a b : Opd)
  | bmax (h : Hdr) (ty : Ty) (d a b : Opd)
  | bmov (h : Hdr) (ty : Ty) (d b : Opd)
  | bmovLong (h : Hdr) (d : Opd) (imm : Word)
  | bcmp (h : Hdr) (ty : Ty) (cc : Cc) (d a b : Opd)
  | bsel (h : Hdr) (ty : Ty) (d a b c : Opd)
  | qlog (h : Hdr) (op : Opl) (d a b : Opd)
  | bget (h : Hdr) (ty : Ty) (d a : Opd)
  | bred (h : Hdr) (ty : Ty) (sat : Bool) (red : Red) (d a : Opd)
  | acq (h : Hdr) (tr : Bool) (d a : Opd)
  | rel (h : Hdr) (a : Opd)
  | fadd (h : Hdr) (ty : Ty) (rnd : Rnd) (ftz : Bool) (d a b : Opd)
  | faddLong (h : Hdr) (d a : Opd) (imm : Word)
  | fsub (h : Hdr) (ty : Ty) (rnd : Rnd) (ftz : Bool) (d a b : Opd)
  | fmul (h : Hdr) (ty : Ty) (rnd : Rnd) (ftz : Bool) (d a b : Opd)
  | fmulLong (h : Hdr) (d a : Opd) (imm : Word)
  | ffma (h : Hdr) (ty : Ty) (rnd : Rnd) (ftz : Bool) (d a b c : Opd)
  | fmin (h : Hdr) (ty : Ty) (ftz : Bool) (d a b : Opd)
  | fmax (h : Hdr) (ty : Ty) (ftz : Bool) (d a b : Opd)
  | fabs (h : Hdr) (ty : Ty) (d a : Opd)
  | fneg (h : Hdr) (ty : Ty) (d a : Opd)
  | fcmp (h : Hdr) (ty : Ty) (ftz : Bool) (cc : Fcc) (d a b : Opd)
  | fclass (h : Hdr) (ty : Ty) (d a : Opd)
  | frnd (h : Hdr) (ty : Ty) (rnd : Rnd) (d a : Opd)
  | fscl (h : Hdr) (ty : Ty) (rnd : Rnd) (ftz : Bool) (d a b : Opd)
  | fadd2 (h : Hdr) (ty : Ty) (rnd : Rnd) (ftz : Bool) (d a b : Opd)
  | fsub2 (h : Hdr) (ty : Ty) (rnd : Rnd) (ftz : Bool) (d a b : Opd)
  | fmul2 (h : Hdr) (ty : Ty) (rnd : Rnd) (ftz : Bool) (d a b : Opd)
  | ffma2 (h : Hdr) (ty : Ty) (rnd : Rnd) (ftz : Bool) (d a b c : Opd)
  | fmin2 (h : Hdr) (ty : Ty) (ftz : Bool) (d a b : Opd)
  | fmax2 (h : Hdr) (ty : Ty) (ftz : Bool) (d a b : Opd)
  | fcmp2 (h : Hdr) (ty : Ty) (ftz : Bool) (cc : Fcc) (d a b : Opd)
  | fdot2 (h : Hdr) (ty : Ty) (rnd : Rnd) (ftz : Bool) (d a b c : Opd)
  | cvt (h : Hdr) (ty ty2 : Ty) (rnd : Rnd) (ftz ovf rx : Bool) (d a : Opd)
  | pack (h : Hdr) (ty : Ty) (rnd : Rnd) (ftz ovf : Bool) (pos : BitVec 3) (d a b : Opd)
  | unpk (h : Hdr) (ty : Ty) (pos : BitVec 3) (scl : Bool) (d a b : Opd)
  | fdiv (h : Hdr) (ty : Ty) (rnd : Rnd) (ftz : Bool) (d a b : Opd)
  | fsqrt (h : Hdr) (ty : Ty) (rnd : Rnd) (ftz : Bool) (d a : Opd)
  | rcp (h : Hdr) (ty : Ty) (ftz : Bool) (d a : Opd)
  | rsq (h : Hdr) (ty : Ty) (ftz : Bool) (d a : Opd)
  | ex2 (h : Hdr) (ty : Ty) (ftz : Bool) (d a : Opd)
  | lg2 (h : Hdr) (ty : Ty) (ftz : Bool) (d a : Opd)
  | sinpi (h : Hdr) (ty : Ty) (ftz : Bool) (d a : Opd)
  | cospi (h : Hdr) (ty : Ty) (ftz : Bool) (d a : Opd)
  | tanh (h : Hdr) (ty : Ty) (ftz : Bool) (d a : Opd)
  | shfl (h : Hdr) (ty : Ty) (mode : ShMode) (seg : ShSeg) (d a b : Opd)
  | vote (h : Hdr) (vm : VoteMode) (d a : Opd)
  | lred (h : Hdr) (ty : Ty) (rnd : Rnd) (ftz sat : Bool) (red : Red) (d a : Opd)
  | scan (h : Hdr) (ty : Ty) (rnd : Rnd) (ftz sat : Bool) (red : Red) (exc : Bool) (d a : Opd)
  | bra (h : Hdr) (off : Word)
  | braq (h : Hdr) (off : Word)
  | jmpi (h : Hdr) (a : Opd)
  | call (h : Hdr) (d : Opd) (off : Word)
  | callx (h : Hdr) (slot : BitVec 12) (d : Opd)
  | ret (h : Hdr) (a : Opd)
  | join (h : Hdr) (a : Opd)
  | exit (h : Hdr)
  | nap (h : Hdr) (a : Opd)
  | brk (h : Hdr) (code : BitVec 15)
  | trapi (h : Hdr) (code : BitVec 15) (d : Opd)
  | ld (h : Hdr) (ty : Ty) (sc : Scope) (ord : Ord) (lk : Bool) (slot : BitVec 12) (d a b : Opd)
  | ldLong (h : Hdr) (d a : Opd) (imm : Word)
  | st (h : Hdr) (ty : Ty) (sc : Scope) (ord : Ord) (lk : Bool) (slot : BitVec 12) (d a b : Opd)
  | stLong (h : Hdr) (d a : Opd) (imm : Word)
  | aadd (h : Hdr) (ty : Ty) (sc : Scope) (ord : Ord) (d a b : Opd)
  | amin (h : Hdr) (ty : Ty) (sc : Scope) (ord : Ord) (d a b : Opd)
  | amax (h : Hdr) (ty : Ty) (sc : Scope) (ord : Ord) (d a b : Opd)
  | aand (h : Hdr) (ty : Ty) (sc : Scope) (ord : Ord) (d a b : Opd)
  | aor (h : Hdr) (ty : Ty) (sc : Scope) (ord : Ord) (d a b : Opd)
  | axor (h : Hdr) (ty : Ty) (sc : Scope) (ord : Ord) (d a b : Opd)
  | axch (h : Hdr) (ty : Ty) (sc : Scope) (ord : Ord) (d a b : Opd)
  | acas (h : Hdr) (ty : Ty) (sc : Scope) (ar : Bool) (d a b c : Opd)
  | afadd (h : Hdr) (ty : Ty) (sc : Scope) (ord : Ord) (d a b : Opd)
  | ldsp (h : Hdr) (ty : Ty) (sc : Scope) (ord : Ord) (d a b : Opd)
  | ldspLong (h : Hdr) (d a : Opd) (imm : Word)
  | stsp (h : Hdr) (ty : Ty) (sc : Scope) (ord : Ord) (d a b : Opd)
  | stspLong (h : Hdr) (d a : Opd) (imm : Word)
  | ldsg (h : Hdr) (ty : Ty) (sc : Scope) (ord : Ord) (d a b : Opd)
  | stsg (h : Hdr) (ty : Ty) (sc : Scope) (ord : Ord) (d a b : Opd)
  | symst (h : Hdr) (ty : Ty) (cpx : Bool) (d a b : Opd)
  | push (h : Hdr) (cnt : BitVec 4) (d a : Opd)
  | pop (h : Hdr) (cnt : BitVec 4) (d a : Opd)
  | pfet (h : Hdr) (tr : Bool) (a b : Opd)
  | fence (h : Hdr) (sc : Scope) (fk : FenceKind)
  | copyl (h : Hdr) (sz : CopySz) (d a : Opd)
  | copyt (h : Hdr) (a : Opd)
  | copyg (h : Hdr) (a : Opd)
  | mma (h : Hdr) (ty ty2 : Ty) (scl : Bool) (d a b c : Opd)
  | mchb (h : Hdr) (d a : Opd)
  | mche (h : Hdr) (d : Opd)
  | accz (h : Hdr) (d : Opd)
  | accsc (h : Hdr) (d a : Opd)
  | acccvt (h : Hdr) (ty : Ty) (scl : Bool) (a b c : Opd)
  | lda (h : Hdr) (d a b : Opd)
  | sta (h : Hdr) (d a b : Opd)
  | guide (h : Hdr) (d a b : Opd)
  | pairx (h : Hdr) (rj : Bool)
  | mbxtake (h : Hdr) (tr : Bool) (d a b : Opd)
  | mbxpost (h : Hdr) (tr : Bool) (d a b : Opd)
  | mbxdone (h : Hdr) (d a b : Opd)
  | recEmit (h : Hdr) (gr : BitVec 8) (d a : Opd)
  | recget (h : Hdr) (d a : Opd)
  | fork (h : Hdr) (d a b : Opd)
  | phase (h : Hdr)
  | roleqRes (h : Hdr) (d a : Opd)
  | roleqPub (h : Hdr) (a b : Opd)
  | roleqTake (h : Hdr) (d a : Opd)
  | roleqFree (h : Hdr) (a b : Opd)
  | drain (h : Hdr) (a : Opd)
  | lref (h : Hdr) (slot : BitVec 12) (d : Opd)
  | lbind (h : Hdr) (slot : BitVec 12) (d : Opd) (a : Option Opd) (b : Opd)
  | lunb (h : Hdr) (slot : BitVec 12) (d : Opd) (a : Option Opd)
  | lqry (h : Hdr) (slot : BitVec 12) (d : Opd) (a : Option Opd)
  | sega (h : Hdr) (d a : Opd)
  | segf (h : Hdr) (a : Opd)
  | segq (h : Hdr) (wd : BitVec 4) (d a : Opd)
  | segrt (h : Hdr) (a b : Opd)
  | seal (h : Hdr)
  | waitb (h : Hdr) (a : Opd)
  | bar (h : Hdr)
  | cbar (h : Hdr)
  | arrive (h : Hdr) (rm : Bool) (a b c : Opd)
  | await (h : Hdr) (a b : Opd)
  | sread (h : Hdr) (ac : Bool) (d a : Opd)
  | swrite (h : Hdr) (d b : Opd)
  | acqGrant (core slice lid : Nat)
  | acqDenial (core slice lid : Nat)
  | joinRelease (gid band : Nat)
  | collectiveExecute (gid band : Nat)
  | napExpiry (gid band lane : Nat)
  | loadReturn (id : Nat) (late : Nat) (ecc : Nat)
  | atomicReturn (id : Nat)
  | remoteWriteApply (wid die : Nat)
  | fenceComplete (gid band lane : Nat)
  | pageMigration (ctx sel page die : Nat)
  | patrolScrub (die kind : Nat) (bad : Option Nat)
  | demandPageService (ctx sel page : Nat) (grant : Bool)
  | privateGrowthService (gid band : Nat) (grant : Bool)
  | twinWaitResolve (gid band : Nat)
  | copyLanding (id : Nat) (how : CopyStep)
  | copyFault (id piece : Nat)
  | mmaStep (core : Nat) (how : CmdStep)
  | mchbApply (core cmd : Nat)
  | mcheApply (core cmd : Nat)
  | acczApply (core cmd : Nat)
  | accscApply (core : Nat) (how : CmdStep)
  | acccvtApply (core cmd : Nat)
  | staApply (core cmd : Nat)
  | guideApply (core cmd : Nat)
  | mbxtakeWake (gid band : Nat)
  | mbxpostWake (gid band : Nat)
  | nodeCountdownExpiry (part gather : Nat) (pol : Policy)
  | childAdmit (part : Nat) (pol : Policy)
  | spillRefill (ctx part : Nat)
  | forkResume (gid core cls : Nat)
  | inlineChildEnd (gid : Nat)
  | phaseReseat (core : Nat)
  | roleqWake (gid band : Nat)
  | pennantPass (ctx graph : Nat)
  | nameResolution (ctx sel slot : Nat)
  | sealRelease (gid band lane : Nat)
  | waitbRelease (gid band lane : Nat)
  | barRelease (gid : Nat)
  | cbarRelease (cid : Nat)
  | arriveApply (id : Nat)
  | awaitRelease (gid band : Nat)
  | bandSelect (picks : List (Nat × Nat))
  | admissionCommit (part : Nat)
  | seating (core : Nat)
  | groupRestore (core : Nat)
  | groupPreempt (gid : Nat)
  | partitionSave (part slot : Nat)
  | partitionRestore (part slot : Nat)
  | partitionExchange (part slot : Nat)
  | haltLineArrival (ctx core : Nat)
  | haltSettled (ctx : Nat)
  | unbindComplete (ctx sel slot : Nat)
  | moveComplete (gid : Nat)
  | scrubComplete
  | serviceWindowAccess (addr size : Nat) (wr : Option (BitVec 64))
  | mailboxSubmit (ctx mbx : Nat) (store : List Byte)
  | recordAccept (ctx mbx : Nat)
  | launchRecord (ctx mbx : Nat) (pol : Policy)
  | ctxCreate (r : Req) (image : List Byte)
  | ctxDestroy (r : Req)
  | segCreate (r : Req) (desc : List Byte)
  | segFree (r : Req) (sel : BitVec 16)
  | codeInstall (r : Req) (image : List Byte)
  | codeRemove (r : Req) (sel : BitVec 16)
  | mailboxSet (r : Req) (mbx : Nat) (desc : List Byte)
  | unbind (r : Req) (args : List Byte)
  | stop (r : Req)
  | resumeCtx (r : Req)
  | teardown (r : Req)
  | readHalt (r : Req) (addr : BitVec 64)
  | reply (r : Req) (seq : Word) (value : ReplyVal)
  | eventRing (r : Req) (ring produced : BitVec 64) (k : Nat)
  | eventRingConsumed (port : Nat) (index : Word)
  | leaseRenew (r : Req) (n : Word)
  | leaseTake (r : Req) (n : Word)
  | leaseCountdown
  | setMode (r : Req) (mode : BitVec 6)
  | powerCap (r : Req) (watts : Nat)
  | sealKey (r : Req) (slot : Nat) (sel : BitVec 16) (key : List Byte) (tags : BitVec 64)
  | aperture (r : Req) (sel : BitVec 16)
  | bind (r : Req) (args : List Byte)
  | bar2Access (port off n : Nat) (op : Bar2Op) (ide : Bool)
  | bar0WriteOther (port : Nat) (op : Bar0Op)
  | peerTimeout (id : Nat)
  | fabricPortFail (port : Nat)
  | lockstepMismatch (die : Nat)
  | heartbeat
  | ensignTakeover
  | coldBoot (boot : BootConfig)
  | warmReset (pass : List Nat)
  | dieReset (die : Nat)
  | levelRaise
  | spdmRequest (port : Nat) (m : SpdmMsg)
  | tdiConfigChange (port : Nat)
  | pageSeal (ctx sel page : Nat)
  | powerThrottle (watts : Nat) (hot : Bool)
  | powerRestore (watts : Nat)
  | peerRequest (p : PeerAccess)
  | peerGrant (ctx dev peerCtx : Nat) (outgoing : Bool)
  | tdispRequest (port : Nat) (m : TdispMsg)
  | fabricPortRetrained (port : Nat)
  deriving DecidableEq, Repr

end Sys2Proof
end

