-- ==== Sys2Proof/WellFormed.lean ====
section
/-! DEFINITION. What makes an instruction well formed: the operand classes, widths and modifier codes its entry accepts
(R55, R56, R63, R114, R131, R138, R193, R207 and the entries). -/

namespace Sys2Proof

/-- Types of 64 bits (R82). -/
def Ty.is64 : Ty → Bool
  | .i64 | .n64 | .f64 => true
  | _ => false
/-- I32 and I64 and, signedness being ignored or selected, N32 and N64 (R118). -/
def Ty.siOk : Ty → Bool
  | .dflt | .i32 | .i64 | .n32 | .n64 => true
  | _ => false
/-- I4 to I64 and N4 to N64 (R118). -/
def Ty.aiOk : Ty → Bool
  | .dflt | .i4 | .i8 | .i16 | .i32 | .i64 | .n4 | .n8 | .n16 | .n32 | .n64 => true
  | _ => false
/-- I16 to I64 and N16 to N64 (R118). -/
def Ty.miOk : Ty → Bool
  | .dflt | .i16 | .i32 | .i64 | .n16 | .n32 | .n64 => true
  | _ => false
/-- I32 and N32 (R118). -/
def Ty.biOk : Ty → Bool
  | .dflt | .i32 | .n32 => true
  | _ => false
/-- F32 and F64 (R142). -/
def Ty.ftOk : Ty → Bool
  | .dflt | .f32 | .f64 => true
  | _ => false
/-- F32 (R142). -/
def Ty.f32Ok : Ty → Bool
  | .dflt | .f32 => true
  | _ => false
/-- F16 and BF16 (R142). -/
def Ty.htOk : Ty → Bool
  | .dflt | .f16 | .bf16 => true
  | _ => false
/-- The types of a memory access (R192). -/
def Ty.mtOk : Ty → Bool
  | .dflt | .i8 | .i16 | .i32 | .i64 | .n8 | .n16 | .n32 | .n64 => true
  | _ => false
/-- The types of AFADD (R192). -/
def Ty.afOk : Ty → Bool
  | .dflt | .f32 | .f64 | .f16 | .bf16 => true
  | _ => false
/-- The operand formats of MMA; there is no default (R206). -/
def Ty.mmaOk : Ty → Bool
  | .i4 | .n4 | .i8 | .n8 | .e5m2 | .e4m3 | .e2m1 | .f16 | .bf16 => true
  | _ => false
/-- The integer destinations of CVT (R152). -/
def Ty.isInt : Ty → Bool
  | .i4 | .i8 | .i16 | .i32 | .i64 | .n4 | .n8 | .n16 | .n32 | .n64 => true
  | _ => false
/-- The floating-point types. -/
def Ty.isFloat : Ty → Bool
  | .f64 | .f32 | .f16 | .bf16 | .e5m2 | .e4m3 | .e2m1 | .e8m0 => true
  | _ => false
/-- A type with the default of its entry in the place of code 0 (R63). -/
def Ty.or (t d : Ty) : Ty := if t == .dflt then d else t

/-- A V register named as an even:odd pair by its even register (R56, R82). -/
def Opd.isPair : Opd → Bool
  | .v i => !i.getLsbD 0
  | _ => false
/-- A B register named as an even:odd pair by its even register (R231). -/
def Opd.isBPair : Opd → Bool
  | .b i => !i.getLsbD 0
  | _ => false
/-- A destination of R114: V, O or L, or a V pair. -/
def dstOk (wide : Bool) : Opd → Bool
  | .v i => !wide || !i.getLsbD 0
  | .o _ => !wide
  | .l _ => !wide
  | _ => false
/-- A source of R114: V, O, L, B, a 32-bit system register or a short immediate; or a V pair, S.CYC or a short
immediate. -/
def srcOk (wide : Bool) : Opd → Bool
  | .v i => !wide || !i.getLsbD 0
  | .o _ => !wide
  | .l _ => !wide
  | .b _ => !wide
  | .s r => wide == (r == .cyc)
  | .imm _ => true
  | _ => false
/-- The data of a store or an atomic (R193): no system register. -/
def dataOk (wide : Bool) : Opd → Bool
  | .v i => !wide || !i.getLsbD 0
  | .o _ => !wide
  | .l _ => !wide
  | .b _ => !wide
  | .imm _ => true
  | _ => false
/-- P0–P7. -/
def Opd.isP : Opd → Bool
  | .p _ => true
  | _ => false
/-- P0–P6 (RECGET, R231). -/
def Opd.isP06 : Opd → Bool
  | .p i => i != 7#3
  | _ => false
/-- Q0–Q7. -/
def Opd.isQ : Opd → Bool
  | .q _ => true
  | _ => false
/-- A predicate source: P or Q. -/
def Opd.isPred : Opd → Bool
  | .p _ | .q _ => true
  | _ => false
/-- A B register. -/
def Opd.isB : Opd → Bool
  | .b _ => true
  | _ => false
/-- A V register. -/
def Opd.isV : Opd → Bool
  | .v _ => true
  | _ => false
/-- A V or O register, where the instruction reads its destination too (R153, R202). -/
def Opd.isVO : Opd → Bool
  | .v _ => true
  | .o _ => true
  | _ => false
/-- The first of three V registers, at most V253 (R199). -/
def Opd.isV3 : Opd → Bool
  | .v i => i.toNat ≤ 253
  | _ => false
/-- An accumulator tile. -/
def Opd.isAcc : Opd → Bool
  | .acc _ => true
  | _ => false
/-- A short immediate or a B register (R135, R136). -/
def Opd.isImmOrB : Opd → Bool
  | .imm _ | .b _ => true
  | _ => false
/-- System registers of band scope or wider, and S.ACTIVE (R131). -/
def SReg.bandScope : SReg → Bool
  | .slice | .group | .unit | .stage | .cluster | .twin | .ctx | .live | .active | .pool | .held | .poolfree | .inlmax
  | .fixed | .accovf | .level => true
  | .thread | .lane | .band | .idxX | .idxY | .idxZ | .canon | .fflags | .batch | .bdone | .cyc => false
/-- The sources of a band-scalar instruction (R131), which are also the band-uniform operands of R207. -/
def Opd.isBSrc : Opd → Bool
  | .b _ | .imm _ => true
  | .s r => r.bandScope
  | _ => false
/-- A band-uniform operand (R207). -/
def Opd.isUni (x : Opd) : Bool := x.isBSrc
/-- A band-uniform operand, or the zero field (R274). -/
def Opd.uniOrNone : Option Opd → Bool
  | none => true
  | some x => x.isUni
/-- The registers SWRITE may name (R104, R292). -/
def Opd.isWritableS : Opd → Bool
  | .s r => r == .fflags || r == .inlmax
  | _ => false
/-- Operands of SREAD: a system register with a destination of its width, or with AC the index of a counter of the
group (R292, R296). The entry gives no class for that index; a band-uniform operand is taken (log entry 11). -/
def sreadOk (ac : Bool) (d a : Opd) : Bool :=
  if ac then dstOk false d && a.isUni else
    match a with
    | .s r => dstOk (r == .cyc) d
    | _ => false
/-- The orderings a load accepts (R192). -/
def Ord.loadOk (o : Ord) : Bool := o == .none || o == .acq
/-- The orderings a store accepts (R192). -/
def Ord.storeOk (o : Ord) : Bool := o == .none || o == .rel
/-- The pairs of types, the flush and the overflow rule CVT accepts (R152). TY2 = 0 is I32 and TY = 0 is F32 (R142). -/
def cvtOk (ty ty2 : Ty) (ftz ovf : Bool) : Bool :=
  let d := ty.or .f32
  let s := ty2.or .i32
  let wideInt : Ty → Bool := fun t => t == .i32 || t == .i64 || t == .n32 || t == .n64
  let pair : Bool :=
    match d with
    | .f64 | .f32 => (s.isFloat && s != d) || wideInt s
    | .f16 | .bf16 | .e5m2 | .e4m3 | .e2m1 =>
      ((s == .f64 || s == .f32 || s == .f16 || s == .bf16) && s != d) || s == .i32 || s == .n32
    | .e8m0 => s == .f64 || s == .f32
    | .i32 | .i64 | .n32 | .n64 => s.isFloat
    | _ => false
  let wide : Ty → Bool := fun t => t == .f64 || t == .f32 || t == .f16 || t == .bf16
  let flush : Bool := !ftz || wide d || wide s
  let clamps : Bool := !ovf || d == .f16 || d == .bf16 || d == .e5m2 || d == .e4m3 || d == .e8m0
  pair && flush && clamps
/-- The type and element PACK accepts (R153), with the flush of a floating-point destination (R152) and no `.OVF` to
E2M1 (R44). -/
def packOk (ty : Ty) (ovf _ftz : Bool) (pos : BitVec 3) : Bool :=
  match ty.or .f16 with
  | .f16 | .bf16 => pos == 0
  | .e5m2 | .e4m3 => pos == 0 || pos == 2
  | .e2m1 => !pos.getLsbD 0 && !ovf
  | _ => false
/-- Bits of one element of a type (R36). -/
def Ty.bits : Ty → Nat
  | .i4 | .n4 | .e2m1 => 4
  | .i8 | .n8 | .e5m2 | .e4m3 | .e8m0 => 8
  | .i16 | .n16 | .f16 | .bf16 => 16
  | .i64 | .n64 | .f64 => 64
  | .dflt | .i32 | .n32 | .f32 => 32
/-- The type, element and scale UNPK accepts (R154). -/
def unpkOk (ty : Ty) (pos : BitVec 3) (scl : Bool) : Bool :=
  match ty.or .f16 with
  | .f16 | .bf16 => pos.toNat < 2 && !scl
  | .e5m2 | .e4m3 | .i8 | .n8 => pos.toNat < 4
  | .e2m1 | .i4 | .n4 => true
  | _ => false
/-- The types and modifiers of LRED and SCAN (R142, R158). -/
def lredOk (ty : Ty) (rnd : Rnd) (ftz sat : Bool) (red : Red) : Bool :=
  match ty.or .i32 with
  | .i32 | .n32 | .i64 | .n64 => rnd == .rn && !ftz && (!sat || red == .add)
  | .f32 | .f64 => !sat && (red == .add || red == .min || red == .max)
  | _ => false
/-- The types SYMST accepts, and `.CPX` with F32 only (R192). -/
def symstOk (ty : Ty) (cpx : Bool) : Bool :=
  match ty with
  | .f32 => true
  | .dflt | .i32 | .n32 | .i64 | .n64 | .f64 => !cpx
  | _ => false
/-- The formats of ACCCVT and their scales (R225). -/
def acccvtOk (ty : Ty) (scl : Bool) : Bool :=
  match ty with
  | .e2m1 => scl
  | .e4m3 | .e5m2 | .i8 => true
  | .f16 | .bf16 => !scl
  | _ => false

/-- What an instruction accepts of its operands and modifiers, from its entry: the conditions of R67 row 8 that
do not depend on the thread, and the fields that a modifier leaves unused (R56). Events carry no word. -/
def Instr.wf : Instr → Bool
  | .nop _ => true
  | .mov _ ty d b => ty.siOk && dstOk ty.is64 d && srcOk ty.is64 b
  | .movLong _ d _ => dstOk false d
  | .sel _ ty d a b c => ty.siOk && dstOk ty.is64 d && srcOk ty.is64 a && srcOk ty.is64 b && c.isPred
  | .plog _ _ d a b => d.isP && a.isPred && b.isPred
  | .iadd _ ty _ d a b => ty.aiOk && dstOk ty.is64 d && srcOk ty.is64 a && srcOk ty.is64 b
  | .iaddLong _ d a _ => dstOk false d && srcOk false a
  | .isub _ ty _ d a b => ty.aiOk && dstOk ty.is64 d && srcOk ty.is64 a && srcOk ty.is64 b
  | .isubLong _ d a _ => dstOk false d && srcOk false a
  | .imul _ ty _ d a b => ty.miOk && dstOk ty.is64 d && srcOk ty.is64 a && srcOk ty.is64 b
  | .imulLong _ d a _ => dstOk false d && srcOk false a
  | .imulh _ ty d a b => ty.miOk && dstOk ty.is64 d && srcOk ty.is64 a && srcOk ty.is64 b
  | .imad _ ty _ d a b c => ty.miOk && dstOk ty.is64 d && srcOk ty.is64 a && srcOk ty.is64 b && srcOk ty.is64 c
  | .idiv _ ty _ d a b => ty.siOk && dstOk ty.is64 d && srcOk ty.is64 a && srcOk ty.is64 b
  | .irem _ ty d a b => ty.siOk && dstOk ty.is64 d && srcOk ty.is64 a && srcOk ty.is64 b
  | .imin _ ty d a b => ty.aiOk && dstOk ty.is64 d && srcOk ty.is64 a && srcOk ty.is64 b
  | .imax _ ty d a b => ty.aiOk && dstOk ty.is64 d && srcOk ty.is64 a && srcOk ty.is64 b
  | .iabs _ ty _ d a => ty.aiOk && dstOk ty.is64 d && srcOk ty.is64 a
  | .ineg _ ty _ d a => ty.aiOk && dstOk ty.is64 d && srcOk ty.is64 a
  | .icmp _ ty _ d a b => ty.siOk && d.isP && srcOk ty.is64 a && srcOk ty.is64 b
  | .and _ ty d a b => ty.siOk && dstOk ty.is64 d && srcOk ty.is64 a && srcOk ty.is64 b
  | .andLong _ d a _ => dstOk false d && srcOk false a
  | .or _ ty d a b => ty.siOk && dstOk ty.is64 d && srcOk ty.is64 a && srcOk ty.is64 b
  | .orLong _ d a _ => dstOk false d && srcOk false a
  | .xor _ ty d a b => ty.siOk && dstOk ty.is64 d && srcOk ty.is64 a && srcOk ty.is64 b
  | .xorLong _ d a _ => dstOk false d && srcOk false a
  | .andn _ ty d a b => ty.siOk && dstOk ty.is64 d && srcOk ty.is64 a && srcOk ty.is64 b
  | .not _ ty d a => ty.siOk && dstOk ty.is64 d && srcOk ty.is64 a
  | .shl _ ty d a b => ty.siOk && dstOk ty.is64 d && srcOk ty.is64 a && srcOk false b
  | .shr _ ty d a b => ty.siOk && dstOk ty.is64 d && srcOk ty.is64 a && srcOk false b
  | .sar _ ty d a b => ty.siOk && dstOk ty.is64 d && srcOk ty.is64 a && srcOk false b
  | .rol _ ty d a b => ty.siOk && dstOk ty.is64 d && srcOk ty.is64 a && srcOk false b
  | .popc _ ty d a => ty.siOk && dstOk false d && srcOk ty.is64 a
  | .clz _ ty d a => ty.siOk && dstOk false d && srcOk ty.is64 a
  | .ctz _ ty d a => ty.siOk && dstOk false d && srcOk ty.is64 a
  | .brev _ ty d a => ty.siOk && dstOk ty.is64 d && srcOk ty.is64 a
  | .bfx _ ty d a b => ty.siOk && dstOk ty.is64 d && srcOk ty.is64 a && srcOk false b
  | .bfxLong _ d a _ => dstOk false d && srcOk false a
  | .bfi _ ty d a b c => ty.siOk && dstOk ty.is64 d && srcOk ty.is64 a && srcOk false b && srcOk ty.is64 c
  | .hadd _ ty _ d a b => ty.siOk && d.isPair && srcOk true a && srcOk ty.is64 b
  | .haddLong _ d a _ => d.isPair && srcOk true a
  | .hsub _ d a b => d.isPair && srcOk true a && srcOk true b
  | .hsel _ d a => dstOk false d && srcOk true a
  | .hoff _ d a => d.isPair && srcOk true a
  | .hmake _ d a b => d.isPair && srcOk false a && srcOk true b
  | .hcmp _ _ d a b => d.isP && srcOk true a && srcOk true b
  | .badd _ ty _ d a b => ty.biOk && d.isB && a.isBSrc && b.isBSrc
  | .baddLong _ d a _ => d.isB && a.isBSrc
  | .bsub _ ty _ d a b => ty.biOk && d.isB && a.isBSrc && b.isBSrc
  | .bmul _ ty _ d a b => ty.biOk && d.isB && a.isBSrc && b.isBSrc
  | .band _ ty d a b => ty.biOk && d.isB && a.isBSrc && b.isBSrc
  | .bor _ ty d a b => ty.biOk && d.isB && a.isBSrc && b.isBSrc
  | .bxor _ ty d a b => ty.biOk && d.isB && a.isBSrc && b.isBSrc
  | .bshl _ ty d a b => ty.biOk && d.isB && a.isBSrc && b.isBSrc
  | .bshr _ ty d a b => ty.biOk && d.isB && a.isBSrc && b.isBSrc
  | .bsar _ ty d a b => ty.biOk && d.isB && a.isBSrc && b.isBSrc
  | .bmin _ ty d a b => ty.biOk && d.isB && a.isBSrc && b.isBSrc
  | .bmax _ ty d a b => ty.biOk && d.isB && a.isBSrc && b.isBSrc
  | .bmov _ ty d b => ty.biOk && d.isB && b.isBSrc
  | .bmovLong _ d _ => d.isB
  | .bcmp _ ty _ d a b => ty.biOk && d.isQ && a.isBSrc && b.isBSrc
  | .bsel _ ty d a b c => ty.biOk && d.isB && a.isBSrc && b.isBSrc && c.isQ
  | .qlog _ _ d a b => d.isQ && a.isQ && b.isQ
  | .bget _ ty d a => ty.biOk && d.isB && dstOk false a
  | .bred _ ty sat red d a => ty.biOk && d.isB && dstOk false a && (!sat || red == .add)
  | .acq _ _ d a => d.isQ && a.isImmOrB
  | .rel _ a => a.isImmOrB
  | .fadd _ ty _ _ d a b => ty.ftOk && dstOk ty.is64 d && srcOk ty.is64 a && srcOk ty.is64 b
  | .faddLong _ d a _ => dstOk false d && srcOk false a
  | .fsub _ ty _ _ d a b => ty.ftOk && dstOk ty.is64 d && srcOk ty.is64 a && srcOk ty.is64 b
  | .fmul _ ty _ _ d a b => ty.ftOk && dstOk ty.is64 d && srcOk ty.is64 a && srcOk ty.is64 b
  | .fmulLong _ d a _ => dstOk false d && srcOk false a
  | .ffma _ ty _ _ d a b c => ty.ftOk && dstOk ty.is64 d && srcOk ty.is64 a && srcOk ty.is64 b && srcOk ty.is64 c
  | .fmin _ ty _ d a b => ty.ftOk && dstOk ty.is64 d && srcOk ty.is64 a && srcOk ty.is64 b
  | .fmax _ ty _ d a b => ty.ftOk && dstOk ty.is64 d && srcOk ty.is64 a && srcOk ty.is64 b
  | .fabs _ ty d a => ty.ftOk && dstOk ty.is64 d && srcOk ty.is64 a
  | .fneg _ ty d a => ty.ftOk && dstOk ty.is64 d && srcOk ty.is64 a
  | .fcmp _ ty _ _ d a b => ty.ftOk && d.isP && srcOk ty.is64 a && srcOk ty.is64 b
  | .fclass _ ty d a => ty.ftOk && dstOk false d && srcOk ty.is64 a
  | .frnd _ ty _ d a => ty.ftOk && dstOk ty.is64 d && srcOk ty.is64 a
  | .fscl _ ty _ _ d a b => ty.ftOk && dstOk ty.is64 d && srcOk ty.is64 a && srcOk false b
  | .fadd2 _ ty _ _ d a b => ty.htOk && dstOk false d && srcOk false a && srcOk false b
  | .fsub2 _ ty _ _ d a b => ty.htOk && dstOk false d && srcOk false a && srcOk false b
  | .fmul2 _ ty _ _ d a b => ty.htOk && dstOk false d && srcOk false a && srcOk false b
  | .ffma2 _ ty _ _ d a b c => ty.htOk && dstOk false d && srcOk false a && srcOk false b && srcOk false c
  | .fmin2 _ ty _ d a b => ty.htOk && dstOk false d && srcOk false a && srcOk false b
  | .fmax2 _ ty _ d a b => ty.htOk && dstOk false d && srcOk false a && srcOk false b
  | .fcmp2 _ ty _ _ d a b => ty.htOk && dstOk false d && srcOk false a && srcOk false b
  | .fdot2 _ ty _ _ d a b c => ty.htOk && dstOk false d && srcOk false a && srcOk false b && srcOk false c
  | .cvt _ ty ty2 rnd ftz ovf rx d a => cvtOk ty ty2 ftz ovf && dstOk ty.is64 d && srcOk ty2.is64 a && (if ty.isInt then rx || rnd == .rn else !rx)
  | .pack _ ty _ ftz ovf pos d a b => packOk ty ovf ftz pos && d.isVO && srcOk false a && srcOk false b
  | .unpk _ ty pos scl d a b => unpkOk ty pos scl && dstOk false d && srcOk false a && (!scl || srcOk false b) && (scl || b == .v 0)
  | .fdiv _ ty _ _ d a b => ty.ftOk && dstOk ty.is64 d && srcOk ty.is64 a && srcOk ty.is64 b
  | .fsqrt _ ty _ _ d a => ty.ftOk && dstOk ty.is64 d && srcOk ty.is64 a
  | .rcp _ ty _ d a => ty.f32Ok && dstOk false d && srcOk false a
  | .rsq _ ty _ d a => ty.f32Ok && dstOk false d && srcOk false a
  | .ex2 _ ty _ d a => ty.f32Ok && dstOk false d && srcOk false a
  | .lg2 _ ty _ d a => ty.f32Ok && dstOk false d && srcOk false a
  | .sinpi _ ty _ d a => ty.f32Ok && dstOk false d && srcOk false a
  | .cospi _ ty _ d a => ty.f32Ok && dstOk false d && srcOk false a
  | .tanh _ ty _ d a => ty.f32Ok && dstOk false d && srcOk false a
  | .shfl _ ty _ _ d a b => ty.siOk && dstOk ty.is64 d && srcOk ty.is64 a && srcOk false b
  | .vote _ vm d a => (if vm == .bal then dstOk false d else d.isP) && a.isPred
  | .lred _ ty rnd ftz sat red d a => lredOk ty rnd ftz sat red && dstOk ty.is64 d && srcOk ty.is64 a
  | .scan _ ty rnd ftz sat red _ d a => lredOk ty rnd ftz sat red && dstOk ty.is64 d && srcOk ty.is64 a
  | .bra _ _ => true
  | .braq _ _ => true
  | .jmpi _ a => srcOk false a
  | .call _ d _ => d.isPair
  | .callx _ _ d => d.isPair
  | .ret _ a => a.isPair
  | .join _ a => a.isB
  | .exit _ => true
  | .nap _ a => srcOk false a
  | .brk _ _ => true
  | .trapi _ _ d => dstOk false d
  | .ld _ ty sc ord lk slot d a b => ty.mtOk && ord.loadOk && (lk || a.isPair) && dstOk ty.is64 d && srcOk false b && ((ord != .none || sc == .bd) && (if lk then a == .v 0 else slot == 0))
  | .ldLong _ d a _ => dstOk false d && a.isPair
  | .st _ ty sc ord lk slot d a b => ty.mtOk && ord.storeOk && (lk || a.isPair) && dataOk ty.is64 d && srcOk false b && ((ord != .none || sc == .bd) && (if lk then a == .v 0 else slot == 0))
  | .stLong _ d a _ => dataOk false d && a.isPair
  | .aadd _ ty sc ord d a b => ty.mtOk && dstOk ty.is64 d && a.isPair && dataOk ty.is64 b && (ord != .none || sc == .bd)
  | .amin _ ty sc ord d a b => ty.mtOk && dstOk ty.is64 d && a.isPair && dataOk ty.is64 b && (ord != .none || sc == .bd)
  | .amax _ ty sc ord d a b => ty.mtOk && dstOk ty.is64 d && a.isPair && dataOk ty.is64 b && (ord != .none || sc == .bd)
  | .aand _ ty sc ord d a b => ty.mtOk && dstOk ty.is64 d && a.isPair && dataOk ty.is64 b && (ord != .none || sc == .bd)
  | .aor _ ty sc ord d a b => ty.mtOk && dstOk ty.is64 d && a.isPair && dataOk ty.is64 b && (ord != .none || sc == .bd)
  | .axor _ ty sc ord d a b => ty.mtOk && dstOk ty.is64 d && a.isPair && dataOk ty.is64 b && (ord != .none || sc == .bd)
  | .axch _ ty sc ord d a b => ty.mtOk && dstOk ty.is64 d && a.isPair && dataOk ty.is64 b && (ord != .none || sc == .bd)
  | .acas _ ty sc ar d a b c => ty.siOk && dstOk ty.is64 d && a.isPair && dataOk ty.is64 b && dataOk ty.is64 c && (ar || sc == .bd)
  | .afadd _ ty sc ord d a b => ty.afOk && dstOk ty.is64 d && a.isPair && dataOk ty.is64 b && (ord != .none || sc == .bd)
  | .ldsp _ ty sc ord d a b => ty.mtOk && ord.loadOk && dstOk ty.is64 d && srcOk false a && srcOk false b && (ord != .none || sc == .bd)
  | .ldspLong _ d a _ => dstOk false d && srcOk false a
  | .stsp _ ty sc ord d a b => ty.mtOk && ord.storeOk && dataOk ty.is64 d && srcOk false a && srcOk false b && (ord != .none || sc == .bd)
  | .stspLong _ d a _ => dataOk false d && srcOk false a
  | .ldsg _ ty sc ord d a b => ty.mtOk && ord.loadOk && dstOk ty.is64 d && srcOk false a && srcOk false b && (ord != .none || sc == .bd)
  | .stsg _ ty sc ord d a b => ty.mtOk && ord.storeOk && dataOk ty.is64 d && srcOk false a && srcOk false b && (ord != .none || sc == .bd)
  | .symst _ ty cpx d a b => symstOk ty cpx && (if cpx then d.isPair else dataOk ty.is64 d) && a.isPair && b.isV3
  | .push _ _ d a => d.isVO && a.isV
  | .pop _ _ d a => d.isVO && a.isV
  | .pfet _ _ a b => a.isPair && srcOk false b
  | .fence _ _ _ => true
  | .copyl _ _ d a => d.isPair && a.isPair
  | .copyt _ a => a.isUni
  | .copyg _ a => a.isUni
  | .mma _ ty ty2 scl d a b c => ty.mmaOk && ty2.mmaOk && d.isAcc && a.isUni && b.isUni && (!scl || c.isUni) && (scl || c == .v 0)
  | .mchb _ d a => d.isAcc && a.isUni
  | .mche _ d => d.isAcc
  | .accz _ d => d.isAcc
  | .accsc _ d a => d.isAcc && a.isUni
  | .acccvt _ ty scl a b c => acccvtOk ty scl && a.isAcc && b.isUni && (!scl || c.isUni) && (scl || c == .v 0)
  | .lda _ d a b => d.isPair && a.isAcc && b.isUni
  | .sta _ d a b => d.isAcc && a.isPair && b.isUni
  | .guide _ d a b => d.isAcc && a.isAcc && b.isUni
  | .pairx _ _ => true
  | .mbxtake _ _ d a b => d.isBPair && a.isUni && b.isUni
  | .mbxpost _ _ d a b => d.isBPair && a.isUni && b.isUni
  | .mbxdone _ d a b => d.isUni && a.isUni && b.isBPair
  | .recEmit _ _ d a => d.isV && a.isPair
  | .recget _ d a => d.isV && a.isP06
  | .fork _ d a b => d.isBPair && a.isBPair && b.isUni
  | .phase _ => true
  | .roleqRes _ d a => d.isBPair && a.isUni
  | .roleqPub _ a b => a.isUni && b.isUni
  | .roleqTake _ d a => d.isBPair && a.isUni
  | .roleqFree _ a b => a.isUni && b.isUni
  | .drain _ a => a.isUni
  | .lref _ _ d => d.isPair
  | .lbind _ _ d a b => d.isQ && Opd.uniOrNone a && b.isBPair
  | .lunb _ _ d a => d.isQ && Opd.uniOrNone a
  | .lqry _ _ d a => d.isBPair && Opd.uniOrNone a
  | .sega _ d a => d.isBPair && a.isUni
  | .segf _ a => a.isBPair
  | .segq _ _ d a => d.isB && a.isUni
  | .segrt _ a b => a.isUni && b.isUni
  | .seal _ => true
  | .waitb _ a => srcOk false a
  | .bar _ => true
  | .cbar _ => true
  | .arrive _ rm a b c => a.isUni && b.isUni && (!rm || c.isUni) && (rm || c == .v 0)
  | .await _ a b => a.isUni && b.isUni
  | .sread _ ac d a => sreadOk ac d a
  | .swrite _ d b => d.isWritableS && srcOk false b
  | .acqGrant _ _ _ => true
  | .acqDenial _ _ _ => true
  | .joinRelease _ _ => true
  | .collectiveExecute _ _ => true
  | .napExpiry _ _ _ => true
  | .loadReturn _ _ _ => true
  | .atomicReturn _ => true
  | .remoteWriteApply _ _ => true
  | .fenceComplete _ _ _ => true
  | .pageMigration _ _ _ _ => true
  | .patrolScrub _ _ _ => true
  | .demandPageService _ _ _ _ => true
  | .privateGrowthService _ _ _ => true
  | .twinWaitResolve _ _ => true
  | .copyLanding _ _ => true
  | .copyFault _ _ => true
  | .mmaStep _ _ => true
  | .mchbApply _ _ => true
  | .mcheApply _ _ => true
  | .acczApply _ _ => true
  | .accscApply _ _ => true
  | .acccvtApply _ _ => true
  | .staApply _ _ => true
  | .guideApply _ _ => true
  | .mbxtakeWake _ _ => true
  | .mbxpostWake _ _ => true
  | .nodeCountdownExpiry _ _ _ => true
  | .childAdmit _ _ => true
  | .spillRefill _ _ => true
  | .forkResume _ _ _ => true
  | .inlineChildEnd _ => true
  | .phaseReseat _ => true
  | .roleqWake _ _ => true
  | .pennantPass _ _ => true
  | .nameResolution _ _ _ => true
  | .sealRelease _ _ _ => true
  | .waitbRelease _ _ _ => true
  | .barRelease _ => true
  | .cbarRelease _ => true
  | .arriveApply _ => true
  | .awaitRelease _ _ => true
  | .bandSelect _ => true
  | .admissionCommit _ => true
  | .seating _ => true
  | .groupRestore _ => true
  | .groupPreempt _ => true
  | .partitionSave _ _ => true
  | .partitionRestore _ _ => true
  | .partitionExchange _ _ => true
  | .haltLineArrival _ _ => true
  | .haltSettled _ => true
  | .unbindComplete _ _ _ => true
  | .moveComplete _ => true
  | .scrubComplete => true
  | .serviceWindowAccess _ _ _ => true
  | .mailboxSubmit _ _ _ => true
  | .recordAccept _ _ => true
  | .launchRecord _ _ _ => true
  | .ctxCreate _ _ => true
  | .ctxDestroy _ => true
  | .segCreate _ _ => true
  | .segFree _ _ => true
  | .codeInstall _ _ => true
  | .codeRemove _ _ => true
  | .mailboxSet _ _ _ => true
  | .unbind _ _ => true
  | .stop _ => true
  | .resumeCtx _ => true
  | .teardown _ => true
  | .readHalt _ _ => true
  | .reply _ _ _ => true
  | .eventRing _ _ _ _ => true
  | .eventRingConsumed _ _ => true
  | .leaseRenew _ _ => true
  | .leaseTake _ _ => true
  | .leaseCountdown => true
  | .setMode _ _ => true
  | .powerCap _ _ => true
  | .sealKey _ _ _ _ _ => true
  | .aperture _ _ => true
  | .bind _ _ => true
  | .bar2Access _ _ _ _ _ => true
  | .bar0WriteOther _ _ => true
  | .peerTimeout _ => true
  | .fabricPortFail _ => true
  | .lockstepMismatch _ => true
  | .heartbeat => true
  | .ensignTakeover => true
  | .coldBoot _ => true
  | .warmReset _ => true
  | .dieReset _ => true
  | .levelRaise => true
  | .spdmRequest _ _ => true
  | .tdiConfigChange _ => true
  | .pageSeal _ _ _ => true
  | .powerThrottle _ _ => true
  | .powerRestore _ => true
  | .peerRequest _ => true
  | .peerGrant _ _ _ _ => true
  | .tdispRequest _ _ => true
  | .fabricPortRetrained _ => true

/-- A program instruction (it has a word); the others are events. -/
def Instr.isProgram : Instr → Bool
  | .nop _ => true
  | .mov _ _ _ _ => true
  | .movLong _ _ _ => true
  | .sel _ _ _ _ _ _ => true
  | .plog _ _ _ _ _ => true
  | .iadd _ _ _ _ _ _ => true
  | .iaddLong _ _ _ _ => true
  | .isub _ _ _ _ _ _ => true
  | .isubLong _ _ _ _ => true
  | .imul _ _ _ _ _ _ => true
  | .imulLong _ _ _ _ => true
  | .imulh _ _ _ _ _ => true
  | .imad _ _ _ _ _ _ _ => true
  | .idiv _ _ _ _ _ _ => true
  | .irem _ _ _ _ _ => true
  | .imin _ _ _ _ _ => true
  | .imax _ _ _ _ _ => true
  | .iabs _ _ _ _ _ => true
  | .ineg _ _ _ _ _ => true
  | .icmp _ _ _ _ _ _ => true
  | .and _ _ _ _ _ => true
  | .andLong _ _ _ _ => true
  | .or _ _ _ _ _ => true
  | .orLong _ _ _ _ => true
  | .xor _ _ _ _ _ => true
  | .xorLong _ _ _ _ => true
  | .andn _ _ _ _ _ => true
  | .not _ _ _ _ => true
  | .shl _ _ _ _ _ => true
  | .shr _ _ _ _ _ => true
  | .sar _ _ _ _ _ => true
  | .rol _ _ _ _ _ => true
  | .popc _ _ _ _ => true
  | .clz _ _ _ _ => true
  | .ctz _ _ _ _ => true
  | .brev _ _ _ _ => true
  | .bfx _ _ _ _ _ => true
  | .bfxLong _ _ _ _ => true
  | .bfi _ _ _ _ _ _ => true
  | .hadd _ _ _ _ _ _ => true
  | .haddLong _ _ _ _ => true
  | .hsub _ _ _ _ => true
  | .hsel _ _ _ => true
  | .hoff _ _ _ => true
  | .hmake _ _ _ _ => true
  | .hcmp _ _ _ _ _ => true
  | .badd _ _ _ _ _ _ => true
  | .baddLong _ _ _ _ => true
  | .bsub _ _ _ _ _ _ => true
  | .bmul _ _ _ _ _ _ => true
  | .band _ _ _ _ _ => true
  | .bor _ _ _ _ _ => true
  | .bxor _ _ _ _ _ => true
  | .bshl _ _ _ _ _ => true
  | .bshr _ _ _ _ _ => true
  | .bsar _ _ _ _ _ => true
  | .bmin _ _ _ _ _ => true
  | .bmax _ _ _ _ _ => true
  | .bmov _ _ _ _ => true
  | .bmovLong _ _ _ => true
  | .bcmp _ _ _ _ _ _ => true
  | .bsel _ _ _ _ _ _ => true
  | .qlog _ _ _ _ _ => true
  | .bget _ _ _ _ => true
  | .bred _ _ _ _ _ _ => true
  | .acq _ _ _ _ => true
  | .rel _ _ => true
  | .fadd _ _ _ _ _ _ _ => true
  | .faddLong _ _ _ _ => true
  | .fsub _ _ _ _ _ _ _ => true
  | .fmul _ _ _ _ _ _ _ => true
  | .fmulLong _ _ _ _ => true
  | .ffma _ _ _ _ _ _ _ _ => true
  | .fmin _ _ _ _ _ _ => true
  | .fmax _ _ _ _ _ _ => true
  | .fabs _ _ _ _ => true
  | .fneg _ _ _ _ => true
  | .fcmp _ _ _ _ _ _ _ => true
  | .fclass _ _ _ _ => true
  | .frnd _ _ _ _ _ => true
  | .fscl _ _ _ _ _ _ _ => true
  | .fadd2 _ _ _ _ _ _ _ => true
  | .fsub2 _ _ _ _ _ _ _ => true
  | .fmul2 _ _ _ _ _ _ _ => true
  | .ffma2 _ _ _ _ _ _ _ _ => true
  | .fmin2 _ _ _ _ _ _ => true
  | .fmax2 _ _ _ _ _ _ => true
  | .fcmp2 _ _ _ _ _ _ _ => true
  | .fdot2 _ _ _ _ _ _ _ _ => true
  | .cvt _ _ _ _ _ _ _ _ _ => true
  | .pack _ _ _ _ _ _ _ _ _ => true
  | .unpk _ _ _ _ _ _ _ => true
  | .fdiv _ _ _ _ _ _ _ => true
  | .fsqrt _ _ _ _ _ _ => true
  | .rcp _ _ _ _ _ => true
  | .rsq _ _ _ _ _ => true
  | .ex2 _ _ _ _ _ => true
  | .lg2 _ _ _ _ _ => true
  | .sinpi _ _ _ _ _ => true
  | .cospi _ _ _ _ _ => true
  | .tanh _ _ _ _ _ => true
  | .shfl _ _ _ _ _ _ _ => true
  | .vote _ _ _ _ => true
  | .lred _ _ _ _ _ _ _ _ => true
  | .scan _ _ _ _ _ _ _ _ _ => true
  | .bra _ _ => true
  | .braq _ _ => true
  | .jmpi _ _ => true
  | .call _ _ _ => true
  | .callx _ _ _ => true
  | .ret _ _ => true
  | .join _ _ => true
  | .exit _ => true
  | .nap _ _ => true
  | .brk _ _ => true
  | .trapi _ _ _ => true
  | .ld _ _ _ _ _ _ _ _ _ => true
  | .ldLong _ _ _ _ => true
  | .st _ _ _ _ _ _ _ _ _ => true
  | .stLong _ _ _ _ => true
  | .aadd _ _ _ _ _ _ _ => true
  | .amin _ _ _ _ _ _ _ => true
  | .amax _ _ _ _ _ _ _ => true
  | .aand _ _ _ _ _ _ _ => true
  | .aor _ _ _ _ _ _ _ => true
  | .axor _ _ _ _ _ _ _ => true
  | .axch _ _ _ _ _ _ _ => true
  | .acas _ _ _ _ _ _ _ _ => true
  | .afadd _ _ _ _ _ _ _ => true
  | .ldsp _ _ _ _ _ _ _ => true
  | .ldspLong _ _ _ _ => true
  | .stsp _ _ _ _ _ _ _ => true
  | .stspLong _ _ _ _ => true
  | .ldsg _ _ _ _ _ _ _ => true
  | .stsg _ _ _ _ _ _ _ => true
  | .symst _ _ _ _ _ _ => true
  | .push _ _ _ _ => true
  | .pop _ _ _ _ => true
  | .pfet _ _ _ _ => true
  | .fence _ _ _ => true
  | .copyl _ _ _ _ => true
  | .copyt _ _ => true
  | .copyg _ _ => true
  | .mma _ _ _ _ _ _ _ _ => true
  | .mchb _ _ _ => true
  | .mche _ _ => true
  | .accz _ _ => true
  | .accsc _ _ _ => true
  | .acccvt _ _ _ _ _ _ => true
  | .lda _ _ _ _ => true
  | .sta _ _ _ _ => true
  | .guide _ _ _ _ => true
  | .pairx _ _ => true
  | .mbxtake _ _ _ _ _ => true
  | .mbxpost _ _ _ _ _ => true
  | .mbxdone _ _ _ _ => true
  | .recEmit _ _ _ _ => true
  | .recget _ _ _ => true
  | .fork _ _ _ _ => true
  | .phase _ => true
  | .roleqRes _ _ _ => true
  | .roleqPub _ _ _ => true
  | .roleqTake _ _ _ => true
  | .roleqFree _ _ _ => true
  | .drain _ _ => true
  | .lref _ _ _ => true
  | .lbind _ _ _ _ _ => true
  | .lunb _ _ _ _ => true
  | .lqry _ _ _ _ => true
  | .sega _ _ _ => true
  | .segf _ _ => true
  | .segq _ _ _ _ => true
  | .segrt _ _ _ => true
  | .seal _ => true
  | .waitb _ _ => true
  | .bar _ => true
  | .cbar _ => true
  | .arrive _ _ _ _ _ => true
  | .await _ _ _ => true
  | .sread _ _ _ _ => true
  | .swrite _ _ _ => true
  | .acqGrant _ _ _ => false
  | .acqDenial _ _ _ => false
  | .joinRelease _ _ => false
  | .collectiveExecute _ _ => false
  | .napExpiry _ _ _ => false
  | .loadReturn _ _ _ => false
  | .atomicReturn _ => false
  | .remoteWriteApply _ _ => false
  | .fenceComplete _ _ _ => false
  | .pageMigration _ _ _ _ => false
  | .patrolScrub _ _ _ => false
  | .demandPageService _ _ _ _ => false
  | .privateGrowthService _ _ _ => false
  | .twinWaitResolve _ _ => false
  | .copyLanding _ _ => false
  | .copyFault _ _ => false
  | .mmaStep _ _ => false
  | .mchbApply _ _ => false
  | .mcheApply _ _ => false
  | .acczApply _ _ => false
  | .accscApply _ _ => false
  | .acccvtApply _ _ => false
  | .staApply _ _ => false
  | .guideApply _ _ => false
  | .mbxtakeWake _ _ => false
  | .mbxpostWake _ _ => false
  | .nodeCountdownExpiry _ _ _ => false
  | .childAdmit _ _ => false
  | .spillRefill _ _ => false
  | .forkResume _ _ _ => false
  | .inlineChildEnd _ => false
  | .phaseReseat _ => false
  | .roleqWake _ _ => false
  | .pennantPass _ _ => false
  | .nameResolution _ _ _ => false
  | .sealRelease _ _ _ => false
  | .waitbRelease _ _ _ => false
  | .barRelease _ => false
  | .cbarRelease _ => false
  | .arriveApply _ => false
  | .awaitRelease _ _ => false
  | .bandSelect _ => false
  | .admissionCommit _ => false
  | .seating _ => false
  | .groupRestore _ => false
  | .groupPreempt _ => false
  | .partitionSave _ _ => false
  | .partitionRestore _ _ => false
  | .partitionExchange _ _ => false
  | .haltLineArrival _ _ => false
  | .haltSettled _ => false
  | .unbindComplete _ _ _ => false
  | .moveComplete _ => false
  | .scrubComplete => false
  | .serviceWindowAccess _ _ _ => false
  | .mailboxSubmit _ _ _ => false
  | .recordAccept _ _ => false
  | .launchRecord _ _ _ => false
  | .ctxCreate _ _ => false
  | .ctxDestroy _ => false
  | .segCreate _ _ => false
  | .segFree _ _ => false
  | .codeInstall _ _ => false
  | .codeRemove _ _ => false
  | .mailboxSet _ _ _ => false
  | .unbind _ _ => false
  | .stop _ => false
  | .resumeCtx _ => false
  | .teardown _ => false
  | .readHalt _ _ => false
  | .reply _ _ _ => false
  | .eventRing _ _ _ _ => false
  | .eventRingConsumed _ _ => false
  | .leaseRenew _ _ => false
  | .leaseTake _ _ => false
  | .leaseCountdown => false
  | .setMode _ _ => false
  | .powerCap _ _ => false
  | .sealKey _ _ _ _ _ => false
  | .aperture _ _ => false
  | .bind _ _ => false
  | .bar2Access _ _ _ _ _ => false
  | .bar0WriteOther _ _ => false
  | .peerTimeout _ => false
  | .fabricPortFail _ => false
  | .lockstepMismatch _ => false
  | .heartbeat => false
  | .ensignTakeover => false
  | .coldBoot _ => false
  | .warmReset _ => false
  | .dieReset _ => false
  | .levelRaise => false
  | .spdmRequest _ _ => false
  | .tdiConfigChange _ => false
  | .pageSeal _ _ _ => false
  | .powerThrottle _ _ => false
  | .powerRestore _ => false
  | .peerRequest _ => false
  | .peerGrant _ _ _ _ => false
  | .tdispRequest _ _ => false
  | .fabricPortRetrained _ => false

end Sys2Proof
end

