-- ==== Sys2Proof/Machine/Num.lean ====
section
/-! DEFINITION. Number formats and how results are formed (R34 to R52, R141): values read exactly, one rounding, the flags
of the operation, and the correctly rounded special functions of R43. -/

namespace Sys2Proof.Machine

/-- The flags NV, DZ, OF, UF, NX and SA of S.FFLAGS (R34). -/
abbrev fNV : Word := 1
/-- Division by zero (R34). -/
abbrev fDZ : Word := 2
/-- Overflow (R34). -/
abbrev fOF : Word := 4
/-- Underflow (R34). -/
abbrev fUF : Word := 8
/-- Inexact (R34). -/
abbrev fNX : Word := 16
/-- Saturated (R34). -/
abbrev fSA : Word := 32

/-- Integer base-2 power of a possibly negative exponent, as a shift up of a number; nothing is lost because the
exponent is not negative where it is used. -/
def pow2 (e : Int) : Nat := 2 ^ e.toNat

/-- How a format marks its specials (R37). -/
inductive FStyle where
  | ieee | e4m3 | e2m1
  deriving DecidableEq, Repr

/-- A floating-point format (R37): exponent bits, fraction bits, bias, and its specials. -/
structure Fmt where
  eb : Nat
  mb : Nat
  bias : Nat
  style : FStyle
  deriving DecidableEq, Repr

/-- FP64 (R37). -/
def Fmt.fp64 : Fmt := ⟨11, 52, 1023, .ieee⟩
/-- FP32 (R37). -/
def Fmt.fp32 : Fmt := ⟨8, 23, 127, .ieee⟩
/-- The format of a floating-point type; FP32 for every other type. -/
def fmtOf : Ty → Fmt
  | .f64 => .fp64
  | .f16 => ⟨5, 10, 15, .ieee⟩
  | .bf16 => ⟨8, 7, 127, .ieee⟩
  | .e5m2 => ⟨5, 2, 15, .ieee⟩
  | .e4m3 => ⟨4, 3, 7, .e4m3⟩
  | .e2m1 => ⟨2, 1, 1, .e2m1⟩
  | _ => .fp32

/-- The exponent of the smallest normal number (R37). -/
def Fmt.emin (f : Fmt) : Int := 1 - (f.bias : Int)
/-- The exponent field with all ones. -/
def Fmt.eones (f : Fmt) : Nat := 2 ^ f.eb - 1
/-- The sign bit. -/
def Fmt.signBit (f : Fmt) (neg : Bool) : Nat := if neg then 2 ^ (f.eb + f.mb) else 0
/-- The largest finite value as a multiple M of 2^q (R37). -/
def Fmt.maxM (f : Fmt) : Nat :=
  match f.style with
  | .ieee => 2 ^ (f.mb + 1) - 1
  | .e4m3 => 14
  | .e2m1 => 3
/-- The exponent q of the largest finite value (R37). -/
def Fmt.maxQ (f : Fmt) : Int :=
  match f.style with
  | .ieee => (f.eones : Int) - 1 - f.bias - f.mb
  | .e4m3 => 5
  | .e2m1 => 1
/-- The code of the largest finite value of a sign. -/
def Fmt.maxCode (f : Fmt) (neg : Bool) : Nat :=
  f.signBit neg + match f.style with
    | .ieee => (f.eones - 1) * 2 ^ f.mb + (2 ^ f.mb - 1)
    | .e4m3 => 0x7E
    | .e2m1 => 7
/-- The canonical NaN (R37); E2M1 has none. -/
def Fmt.nanCode (f : Fmt) : Nat :=
  match f.style with
  | .ieee => f.eones * 2 ^ f.mb + 2 ^ (f.mb - 1)
  | .e4m3 => 0x7F
  | .e2m1 => 0
/-- An infinity; E4M3 delivers 0x7F in its place (R44). -/
def Fmt.infCode (f : Fmt) (neg : Bool) : Nat :=
  match f.style with
  | .ieee => f.signBit neg + f.eones * 2 ^ f.mb
  | .e4m3 => 0x7F
  | .e2m1 => f.maxCode neg

/-- A value read exactly: NaN (signalling or, for a result, invalid), an infinity, or ±m × 2^e. -/
inductive FV where
  | nan (sig : Bool)
  | inf (neg : Bool)
  | fin (neg : Bool) (m : Nat) (e : Int)
  deriving DecidableEq, Repr

/-- The value of a code (R37, R38). -/
def Fmt.read (f : Fmt) (n : Nat) : FV :=
  let neg := n / 2 ^ (f.eb + f.mb) % 2 == 1
  let ex := n / 2 ^ f.mb % 2 ^ f.eb
  let fr := n % 2 ^ f.mb
  let special : Option FV :=
    match f.style with
    | .ieee => if ex == f.eones then some (if fr == 0 then .inf neg else .nan (fr / 2 ^ (f.mb - 1) % 2 == 0)) else none
    | .e4m3 => if n % 128 == 127 then some (.nan false) else none
    | .e2m1 => if n % 16 == 8 then some (.fin false 0 0) else none
  match special with
  | some v => v
  | none =>
    if ex == 0 then .fin neg fr (f.emin - f.mb)
    else .fin neg (2 ^ f.mb + fr) ((ex : Int) - f.bias - f.mb)
/-- The value of a code, a subnormal read as a zero of its sign under .FTZ (R39). -/
def Fmt.readF (f : Fmt) (ftz : Bool) (n : Nat) : FV :=
  match f.read n with
  | .fin neg m e => if ftz && m < 2 ^ f.mb then .fin neg 0 e else .fin neg m e
  | v => v

/-- Whether a value is a zero. -/
def FV.isZero : FV → Bool
  | .fin _ m _ => m == 0
  | _ => false
/-- Whether a value is NaN. -/
def FV.isNan : FV → Bool
  | .nan _ => true
  | _ => false
/-- Whether a value is a signalling NaN. -/
def FV.isSnan : FV → Bool
  | .nan s => s
  | _ => false
/-- The sign of a value. -/
def FV.neg : FV → Bool
  | .nan _ => false
  | .inf n => n
  | .fin n _ _ => n
/-- The value with its sign inverted (NaN unchanged). -/
def FV.negate : FV → FV
  | .nan s => .nan s
  | .inf n => .inf (!n)
  | .fin n m e => .fin (!n) m e

/-- A magnitude m × 2^e rounded to a multiple of 2^q in a mode (R39), and whether it changed. -/
def roundAt (rnd : Rnd) (neg : Bool) (m : Nat) (e q : Int) : Nat × Bool :=
  if q ≤ e then (m * pow2 (e - q), false)
  else
    let s := (q - e).toNat
    let k := m / 2 ^ s
    let r := m % 2 ^ s
    let half := 2 ^ (s - 1)
    let up :=
      match rnd with
      | .rn => half < r || (r == half && k % 2 == 1)
      | .rz => false
      | .ru => !neg && r != 0
      | .rd => neg && r != 0
    (if up then k + 1 else k, r != 0)

/-- Whether M × 2^q exceeds N × 2^p. -/
def magGt (m : Nat) (q : Int) (n : Nat) (p : Int) : Bool :=
  let l := min p q
  n * pow2 (p - l) < m * pow2 (q - l)

/-- A finite result rounded to a format: its magnitude M × 2^q, and whether it overflows (R40), is tiny after rounding
and is inexact (R39). -/
structure Rounded where
  m : Nat
  q : Int
  exceeds : Bool
  tiny : Bool
  inexact : Bool
  deriving DecidableEq, Repr

/-- Rounds ±m × 2^e, m not zero, to a format (R39, R40). -/
def Fmt.round (f : Fmt) (rnd : Rnd) (neg : Bool) (m : Nat) (e : Int) : Rounded :=
  let top := e + (Nat.log2 m : Int)
  let qu := top - f.mb
  let u := roundAt rnd neg m e qu
  let q := max qu (f.emin - f.mb)
  let r := roundAt rnd neg m e q
  { m := r.1, q := q,
    exceeds := magGt u.1 qu f.maxM f.maxQ,
    tiny := !(magGt u.1 qu 1 f.emin) && magGt 1 f.emin u.1 qu,
    inexact := r.2 }

/-- The code of ±M × 2^q, which the format holds. -/
def Fmt.encode (f : Fmt) (neg : Bool) (m : Nat) (q : Int) : Nat :=
  if m == 0 then f.signBit neg
  else
    let l := Nat.log2 m
    let top := q + (l : Int)
    if top < f.emin then f.signBit neg + m * pow2 (q - (f.emin - f.mb))
    else
      let frac := (if l ≤ f.mb then m * 2 ^ (f.mb - l) else m / 2 ^ (l - f.mb)) - 2 ^ f.mb
      f.signBit neg + (top + f.bias).toNat * 2 ^ f.mb + frac

/-- A finite result in a format, by the default overflow rule, with its flags (R39, R40). -/
def Fmt.deliver (f : Fmt) (rnd : Rnd) (ftz neg : Bool) (m : Nat) (e : Int) : Nat × Word :=
  if m == 0 then (f.signBit neg, 0)
  else
    let r := f.round rnd neg m e
    if r.exceeds then
      let big :=
        match rnd with
        | .rn => true
        | .rz => false
        | .ru => !neg
        | .rd => neg
      (if big then f.infCode neg else f.maxCode neg, fOF ||| fNX)
    else if ftz && r.m != 0 && magGt 1 f.emin r.m r.q then (f.signBit neg, fUF ||| fNX)
    else
      (f.encode neg r.m r.q,
        (if r.tiny && r.inexact then fUF else 0) ||| (if r.inexact then fNX else 0))

/-- A result in a format with its flags (R39 to R41). -/
def Fmt.result (f : Fmt) (rnd : Rnd) (ftz : Bool) : FV → Nat × Word
  | .nan s => (f.nanCode, if s then fNV else 0)
  | .inf n => (f.infCode n, 0)
  | .fin n m e => f.deliver rnd ftz n m e

/-- ±m × 2^e as an integer multiple of 2^l, for l at most e. -/
def scaled (neg : Bool) (m : Nat) (e l : Int) : Int :=
  let k : Int := ((m * pow2 (e - l) : Nat) : Int)
  if neg then -k else k

/-- The product (R41): 0 × ∞ is invalid. -/
def FV.mul : FV → FV → FV
  | .nan s, b => .nan (s || b.isSnan)
  | a, .nan s => .nan (s || a.isSnan)
  | .inf n, b => if b.isZero then .nan true else .inf (n != b.neg)
  | a, .inf n => if a.isZero then .nan true else .inf (n != a.neg)
  | .fin n m e, .fin n' m' e' => .fin (n != n') (m * m') (e + e')

/-- The least exponent among finite terms. -/
def minExp : List FV → Int → Int
  | [], l => l
  | .fin _ m e :: t, l => minExp t (if m == 0 then l else min e l)
  | _ :: t, l => minExp t l
/-- The exact total of the finite terms as a multiple of 2^l. -/
def sumAt (l : Int) : List FV → Int
  | [] => 0
  | .fin n m e :: t => (if m == 0 then 0 else scaled n m e l) + sumAt l t
  | _ :: t => sumAt l t
/-- The exact sum of terms (R141): NaN or opposite infinities give NaN, an infinity stands, and the sign of an exact zero
follows R141. Opposite infinities are an invalid case also beside a quiet NaN (R148, R158). -/
def FV.sum (rnd : Rnd) (ts : List FV) : FV :=
  let pos := ts.any fun t => t == .inf false
  let neg := ts.any fun t => t == .inf true
  if ts.any FV.isNan then .nan (ts.any FV.isSnan || (pos && neg))
  else
    if pos && neg then .nan true
    else if pos then .inf false
    else if neg then .inf true
    else
      let l := minExp ts 0
      let t := sumAt l ts
      if t == 0 then
        let allZero := ts.all FV.isZero
        let allNeg := ts.all FV.neg
        let allPos := ts.all fun t => !t.neg
        .fin (if allZero && allNeg && !ts.isEmpty then true
          else if allZero && allPos then false else rnd == .rd) 0 0
      else .fin (t < 0) t.natAbs l

/-- The order of two values, none when a NaN is among them (R145); −0 and +0 are equal. -/
def FV.cmp : FV → FV → Option Ordering
  | .nan _, _ => none
  | _, .nan _ => none
  | .inf a, .inf b => some (if a == b then .eq else if a then .lt else .gt)
  | .inf a, _ => some (if a then .lt else .gt)
  | _, .inf b => some (if b then .gt else .lt)
  | .fin n m e, .fin n' m' e' =>
    let l := min e e'
    some (compare (scaled n m e l) (scaled n' m' e' l))

/-- FMIN (max false) and FMAX (max true) with the flags of R42. -/
def FV.minmax (mx : Bool) (a b : FV) : FV × Word :=
  let fl : Word := if a.isSnan || b.isSnan then fNV else 0
  if a.isNan && b.isNan then (.nan false, fl)
  else if a.isNan then (b, fl)
  else if b.isNan then (a, fl)
  else
    let aLow :=
      match a.cmp b with
      | some .lt => true
      | some .gt => false
      | _ => a.neg || !b.neg
    (if aLow == mx then b else a, fl)

/-- The integral value of a in a mode, keeping the sign of a zero (R144). -/
def FV.integral (rnd : Rnd) : FV → FV
  | .fin n m e => if 0 ≤ e || m == 0 then .fin n m e else .fin n (roundAt rnd n m e 0).1 0
  | v => v

/-- The conversion of a value to an integer of w bits (R44): its bits and flags. Whether a value is outside the range is judged once it is
rounded (log entry 65). -/
def FV.toInt (rnd : Rnd) (signed : Bool) (w : Nat) (v : FV) : Nat × Word :=
  let lo : Int := if signed then -(2 ^ (w - 1) : Int) else 0
  let hi : Int := if signed then 2 ^ (w - 1) - 1 else 2 ^ w - 1
  let wrap (i : Int) : Nat := (i % (2 ^ w : Int)).toNat
  match v with
  | .nan _ => (0, fNV)
  | .inf n => (wrap (if n then lo else hi), fNV)
  | .fin n m e =>
    let r := roundAt rnd n m e 0
    let i : Int := if n then -(r.1 : Int) else r.1
    if i < lo then (wrap lo, fNV) else if hi < i then (wrap hi, fNV)
    else (wrap i, if r.2 then fNX else 0)

/-- A conversion to FP16, BF16, E5M2, E4M3 or E2M1 under .SAT or .OVF (R44). -/
def Fmt.narrow (f : Fmt) (rnd : Rnd) (ftz ovf : Bool) (v : FV) : Nat × Word :=
  match v with
  | .nan s =>
    match f.style with
    | .e2m1 => (0, fNV ||| fSA)
    | _ => (f.nanCode, if s then fNV else 0)
  | .inf n =>
    if ovf then
      match f.style with
      | .e4m3 => (0x7F, fNV)
      | _ => (f.infCode n, 0)
    else (f.maxCode n, fSA)
  | .fin n m e =>
    if m == 0 then
      match f.style with
      | .e2m1 => (0, 0)
      | _ => (f.signBit n, 0)
    else
      let r := f.round rnd n m e
      if r.exceeds && !ovf then (f.maxCode n, fSA ||| fNX)
      else
        let d := f.deliver rnd ftz n m e
        match f.style with
        | .e2m1 => if r.m == 0 then (0, d.2) else d
        | _ => d

/-- A conversion to E8M0 (R152). -/
def toE8M0 (rnd : Rnd) (ovf : Bool) (v : FV) : Nat × Word :=
  match v with
  | .nan _ => (0xFF, fNV)
  | .inf true => (0xFF, fNV)
  | .inf false => if ovf then (0xFF, fNV) else (0xFE, fSA)
  | .fin n m e =>
    if n || m == 0 then (0xFF, fNV)
    else
      let l := Nat.log2 m
      let k : Int := e + l
      let one := m == 2 ^ l
      let twice := 2 * m
      let mid := 3 * 2 ^ l
      let k' : Int :=
        match rnd with
        | .rd | .rz => k
        | .ru => if one then k else k + 1
        | .rn =>
          if twice < mid then k else if mid < twice then k + 1
          else if (k + 127) % 2 == 0 then k else k + 1
      if k' < -127 then (0x00, fUF ||| fNX)
      else if 127 < k' then (if ovf then (0xFF, fOF ||| fNX) else (0xFE, fSA ||| fNX))
      else ((k' + 127).toNat, if one then 0 else fNX)

/-- The class bits of FCLASS (R146). -/
def Fmt.classBits (f : Fmt) (n : Nat) : Word :=
  match f.read n with
  | .nan true => 0x001
  | .nan false => 0x002
  | .inf true => 0x004
  | .inf false => 0x200
  | .fin neg m _ =>
    if m == 0 then (if neg then 0x020 else 0x040)
    else if m < 2 ^ f.mb then (if neg then 0x010 else 0x080)
    else (if neg then 0x008 else 0x100)

/-- The largest r with r² at most n, found bit by bit from bit k − 1 down. -/
def isqrtBits : Nat → Nat → Nat → Nat
  | 0, _, r => r
  | k + 1, n, r => isqrtBits k n (if (r + 2 ^ k) * (r + 2 ^ k) ≤ n then r + 2 ^ k else r)
/-- The integer square root. -/
def isqrt (n : Nat) : Nat := isqrtBits (Nat.log2 n / 2 + 1) n 0

/-- Bits kept below a quotient or root before rounding: twice FP64's precision and more. -/
abbrev guardBits : Nat := 160
/-- The quotient of two non-zero finite magnitudes with a sticky bit, exact for one rounding. -/
def quot (m : Nat) (e : Int) (n : Nat) (p : Int) : Nat × Int :=
  let num := m * 2 ^ (guardBits + Nat.log2 n)
  (2 * (num / n) + (if num % n == 0 then 0 else 1), e - p - (guardBits + Nat.log2 n : Nat) - 1)
/-- The square root of a non-zero finite magnitude with a sticky bit. -/
def root (m : Nat) (e : Int) : Nat × Int :=
  let odd := e % 2 != 0
  let m' := (if odd then 2 * m else m) * 2 ^ (2 * guardBits)
  let e' := (if odd then e - 1 else e) - (2 * guardBits : Nat)
  let r := isqrt m'
  (2 * r + (if r * r == m' then 0 else 1), e' / 2 - 1)

/-- FDIV (R149): the exact quotient and its own flags. -/
def FV.div : FV → FV → FV × Word
  | .nan s, b => (.nan (s || b.isSnan), 0)
  | a, .nan s => (.nan (s || a.isSnan), 0)
  | .inf _, .inf _ => (.nan true, 0)
  | .inf n, b => (.inf (n != b.neg), 0)
  | a, .inf n => (.fin (n != a.neg) 0 0, 0)
  | .fin n m e, .fin n' m' e' =>
    if m' == 0 then (if m == 0 then (.nan true, 0) else (.inf (n != n'), fDZ))
    else if m == 0 then (.fin (n != n') 0 0, 0)
    else let q := quot m e m' e'; (.fin (n != n') q.1 q.2, 0)
/-- FSQRT (R149). -/
def FV.sqrt : FV → FV
  | .nan s => .nan s
  | .inf n => if n then .nan true else .inf false
  | .fin n m e => if m == 0 then .fin n 0 e else if n then .nan true else let r := root m e; .fin false r.1 r.2

/-- RCP (R43). -/
def FV.rcp : FV → FV × Word
  | .nan s => (.nan s, 0)
  | .inf n => (.fin n 0 0, 0)
  | .fin n m e => if m == 0 then (.inf n, fDZ) else let q := quot 1 0 m e; (.fin n q.1 q.2, 0)
/-- RSQ (R43): the root of the reciprocal, which is exact only when the reciprocal's root is. -/
def FV.rsq : FV → FV × Word
  | .nan s => (.nan s, 0)
  | .inf n => (if n then .nan true else .fin false 0 0, 0)
  | .fin n m e =>
    if m == 0 then (.inf n, fDZ)
    else if n then (.nan true, 0)
    else
      let odd := e % 2 != 0
      let m' := if odd then 2 * m else m
      let e' := if odd then e - 1 else e
      let k := 2 * (guardBits + Nat.log2 m')
      let r := isqrt (2 ^ k / m')
      (.fin false (2 * r + (if r * r * m' == 2 ^ k then 0 else 1)) (-(e' / 2) - (k / 2 : Nat) - 1), 0)

/-- Fraction bits of the fixed-point values of the special functions (log entry 12). -/
abbrev fixBits : Nat := 384
/-- One in fixed point. -/
abbrev fixOne : Nat := 2 ^ fixBits
/-- The product of two fixed-point values. -/
def fixMul (a b : Nat) : Nat := a * b / fixOne
/-- Σ z^(2i+1) / (2i+1) by k terms from term i on, alternating in sign or not: the series of atanh and atan. -/
def atanSeries (alt : Bool) : Nat → Nat → Nat → Nat → Int
  | 0, _, _, _ => 0
  | k + 1, i, z2, p =>
    let t : Int := ((p / (2 * i + 1) : Nat) : Int)
    (if alt && i % 2 == 1 then -t else t) + atanSeries alt k (i + 1) z2 (fixMul p z2)
/-- ln of a number from 1 to 2 in fixed point, by atanh((m − 1) / (m + 1)). -/
def fixLn (m : Nat) : Nat :=
  let z := (m - fixOne) * fixOne / (m + fixOne)
  (2 * atanSeries false 130 0 (fixMul z z) z).toNat
/-- ln 2 in fixed point. -/
def fixLn2 : Nat := fixLn (2 * fixOne)
/-- π in fixed point, by Machin's formula. -/
def fixPi : Nat :=
  let at_ (d : Nat) : Int := let z := fixOne / d; atanSeries true 170 0 (fixMul z z) z
  (16 * at_ 5 - 4 * at_ 239).toNat
/-- Σ x^i / i! by k terms from term i on. -/
def expSeries : Nat → Nat → Nat → Nat → Nat
  | 0, _, _, _ => 0
  | k + 1, i, x, t => t + expSeries k (i + 1) x (fixMul t x / (i + 1))
/-- e^x for 0 ≤ x < 1 in fixed point. -/
def fixExp (x : Nat) : Nat := expSeries 90 0 x fixOne
/-- The series of sin (from i = 1, t = x) and cos (from i = 0, t = 1), by k terms. -/
def trigSeries : Nat → Nat → Nat → Nat → Bool → Int
  | 0, _, _, _, _ => 0
  | k + 1, i, x2, t, neg =>
    (if neg then -(t : Int) else t) + trigSeries k (i + 2) x2 (fixMul t x2 / ((i + 1) * (i + 2))) (!neg)
/-- m × 2^e as a fixed-point value, the bits below the last dropped. -/
def toFix (m : Nat) (e : Int) : Nat :=
  if -(fixBits : Int) ≤ e then m * pow2 (e + fixBits) else m / pow2 (-(e + fixBits))
/-- A fixed-point value that is not exact, as a magnitude with a sticky bit. -/
def fixVal (neg : Bool) (x : Nat) : FV := .fin neg (2 * x + 1) (-(fixBits : Int) - 1)

/-- EX2 (R43). -/
def FV.ex2 : FV → FV
  | .nan s => .nan s
  | .inf n => if n then .fin false 0 0 else .inf false
  | .fin n m e =>
    if m == 0 then .fin false 1 0
    else if 10 < e + Nat.log2 m then (if n then .fin false 1 (-2000) else .fin false 1 2000)
    else
      let f := toFix m e
      let whole := f / fixOne
      let part := f % fixOne
      let k : Int := if n then (if part == 0 then -(whole : Int) else -(whole : Int) - 1) else whole
      let part' := if n && part != 0 then fixOne - part else part
      if part == 0 then .fin false 1 k
      else .fin false (2 * fixExp (fixMul part' fixLn2) + 1) (k - fixBits - 1)
/-- LG2 (R43). -/
def FV.lg2 : FV → FV × Word
  | .nan s => (.nan s, 0)
  | .inf n => (if n then .nan true else .inf false, 0)
  | .fin n m e =>
    if m == 0 then (.inf true, fDZ)
    else if n then (.nan true, 0)
    else
      let l := Nat.log2 m
      let k : Int := e + l
      if m == 2 ^ l then (.fin (k < 0) k.natAbs 0, 0)
      else
        let y := fixLn (m * fixOne / 2 ^ l) * fixOne / fixLn2
        let t : Int := k * (fixOne : Int) + y
        (fixVal (t < 0) t.natAbs, 0)
/-- sin(π x) and cos(π x) for a magnitude: x modulo 2 as a count of 2^-s, its quadrant, and the series (R43). -/
def trigPi (cosine : Bool) (n : Bool) (m : Nat) (e : Int) : FV :=
  -- units of 2^-s, s at least 1
  let s := max 1 (-e).toNat
  let u := m * pow2 (e + s)
  let two := 2 * 2 ^ s
  let r := u % two
  let half := 2 ^ (s - 1)
  let quad := r / half
  let w := r % half
  if w == 0 then
    match cosine, quad with
    | false, 0 => .fin n 0 0
    | false, 1 => .fin n 1 0
    | false, 2 => .fin n 0 0
    | false, _ => .fin (!n) 1 0
    | true, 0 => .fin false 1 0
    | true, 1 => .fin false 0 0
    | true, 2 => .fin true 1 0
    | true, _ => .fin false 0 0
  else
    -- angle π w / 2^s in the first quadrant, folded for the odd quadrants
    let useCos := cosine != (quad % 2 == 1)
    let x := fixPi * w / 2 ^ s
    let x2 := fixMul x x
    let v := if useCos then trigSeries 80 0 x2 fixOne false else trigSeries 80 1 x2 x false
    let neg :=
      if cosine then quad == 1 || quad == 2
      else (quad == 2 || quad == 3) != n
    fixVal neg v.toNat
/-- SINPI (R43): an integer gives +0 when positive and −0 when negative, and ±0 itself. -/
def FV.sinpi : FV → FV
  | .nan s => .nan s
  | .inf _ => .nan true
  | .fin n m e => if m == 0 then .fin n 0 0 else if 30 ≤ e then .fin n 0 0 else trigPi false n m e
/-- COSPI (R43). -/
def FV.cospi : FV → FV
  | .nan s => .nan s
  | .inf _ => .nan true
  | .fin n m e => if m == 0 || 30 ≤ e then .fin false 1 0 else trigPi true n m e
/-- TANH (R43), by (1 − E) / (1 + E) with E = e^(−2|x|). -/
def FV.tanh : FV → FV
  | .nan s => .nan s
  | .inf n => .fin n 1 0
  | .fin n m e =>
    if m == 0 then .fin n 0 0
    else if 6 ≤ e + Nat.log2 m then fixVal n (fixOne - 1)
    else
      let y := toFix m (e + 1)
      let k := y / fixLn2
      let r := y - k * fixLn2
      -- e^-y = 2^-(k+1) e^(ln 2 - r)
      let ex := fixExp (fixLn2 - r) / 2 ^ (k + 1)
      fixVal n ((fixOne - ex) * fixOne / (fixOne + ex))

/-- The special functions of R43 on FP32, rounded RN. -/
inductive SpFn where
  | rcp | rsq | ex2 | lg2 | sinpi | cospi | tanh
  deriving DecidableEq, Repr
/-- The value and flags of a special function (R43, R150). -/
def SpFn.eval (f : SpFn) (ftz : Bool) (a : Nat) : Nat × Word :=
  let x := Fmt.fp32.readF ftz a
  let r : FV × Word :=
    match f with
    | .rcp => x.rcp
    | .rsq => x.rsq
    | .ex2 => (x.ex2, 0)
    | .lg2 => x.lg2
    | .sinpi => (x.sinpi, 0)
    | .cospi => (x.cospi, 0)
    | .tanh => (x.tanh, 0)
  let d := Fmt.fp32.result .rn ftz r.1
  (d.1, d.2 ||| r.2)

/-- An integer as a value. -/
def FV.ofInt (i : Int) : FV := .fin (i < 0) i.natAbs 0
/-- A number of w bits read signed or unsigned. -/
def readInt (signed : Bool) (w : Nat) (n : Nat) : Int :=
  let n := n % 2 ^ w
  if signed && 2 ^ (w - 1) ≤ n then (n : Int) - 2 ^ w else n
/-- The value of an element of a narrow type under a scale entry's scale and X (R38, R45); the scale is the code of a
power of two, none without a scale. -/
def elemVal (ty : Ty) (code : Nat) (scale : Option (Nat × Nat)) : FV :=
  let base : FV :=
    match ty with
    | .i4 | .i8 | .i16 | .i32 | .i64 => FV.ofInt (readInt true ty.bits code)
    | .n4 | .n8 | .n16 | .n32 | .n64 => FV.ofInt (code : Int)
    | .e2m1 =>
      if code == 8 then
        match scale with
        | some (_, x) => (fmtOf .e4m3).read x
        | none => .fin false 0 0
      else (fmtOf .e2m1).read code
    | .e8m0 => if code == 255 then .nan false else .fin false 1 ((code : Int) - 127)
    | t => (fmtOf t).read code
  match scale with
  | none => base
  | some (sc, _) =>
    if sc == 255 then .nan false
    else
      match base with
      | .fin n m e => .fin n m (e + sc - 127)
      | v => v

end Sys2Proof.Machine
end

