-- ==== Sys2Proof/Decode.lean ====
section
/-! DEFINITION. The instruction word as fields (R53, R55, R62, R63), its packed form (R70 to R72), the decoder, total on
any bytes, and the encoder written from the same tables. -/

namespace Sys2Proof

/-- Why the decoder refuses: rows 5 to 8 of R67, and bytes that end inside an instruction (row 1). -/
inductive DecErr where
  /-- the bytes end inside the instruction -/
  | truncated
  /-- M[15:12] is not zero (R70) -/
  | packedCode
  /-- no entry names the code (R78): illegal-instruction halt -/
  | unassignedOpcode
  /-- a reserved bit or code, or an unused field that is not zero (R54, R56, R63): illegal-instruction halt -/
  | badField
  /-- an operand or modifier the opcode does not accept (R55, R56, R63): illegal-operand halt -/
  | badOperand
  deriving DecidableEq, Repr

/-- The fields of a word (R53). -/
structure Raw where
  x : Word
  rsv : BitVec 2
  b : BitVec 14
  a : BitVec 14
  d : BitVec 14
  hy : BitVec 2
  la : BitVec 4
  gn : Bool
  gp : BitVec 3
  op : BitVec 10
  deriving DecidableEq, Repr

/-- A word from its fields (R53). -/
def Raw.toWord (r : Raw) : W96 :=
  r.x ++ r.rsv ++ r.b ++ r.a ++ r.d ++ r.hy ++ r.la ++ BitVec.ofBool r.gn ++ r.gp ++ r.op
/-- The fields of a word (R53). -/
def Raw.ofWord (w : W96) : Raw where
  x := w.extractLsb' 64 32
  rsv := w.extractLsb' 62 2
  b := w.extractLsb' 48 14
  a := w.extractLsb' 34 14
  d := w.extractLsb' 20 14
  hy := w.extractLsb' 18 2
  la := w.extractLsb' 14 4
  gn := w.getLsbD 13
  gp := w.extractLsb' 10 3
  op := w.extractLsb' 0 10
/-- The all-zero fields. -/
def Raw.zero : Raw := ⟨0, 0, 0, 0, 0, 0, 0, false, 0, 0⟩

/-- The shared modifiers and the per-opcode bits of the XM layout (R62, R63). -/
structure Xm where
  rnd : BitVec 2
  ftz : Bool
  ov : Bool
  ty : BitVec 5
  sc : BitVec 3
  ty2 : BitVec 5
  per : BitVec 15
  deriving DecidableEq, Repr
/-- X[31:0] of the XM layout. -/
def Xm.bits (m : Xm) : Word :=
  m.rnd ++ BitVec.ofBool m.ftz ++ BitVec.ofBool m.ov ++ m.ty ++ m.sc ++ m.ty2 ++ m.per
/-- The modifiers of an XM word. -/
def Xm.ofBits (x : Word) : Xm where
  rnd := x.extractLsb' 30 2
  ftz := x.getLsbD 29
  ov := x.getLsbD 28
  ty := x.extractLsb' 23 5
  sc := x.extractLsb' 20 3
  ty2 := x.extractLsb' 15 5
  per := x.extractLsb' 0 15
/-- The shared modifiers, the one per-opcode bit and operand field C of the XC layout (R62, R63). -/
structure Xc where
  rnd : BitVec 2
  ftz : Bool
  ov : Bool
  ty : BitVec 5
  sc : BitVec 3
  ty2 : BitVec 5
  flag : Bool
  c : BitVec 14
  deriving DecidableEq, Repr
/-- X[31:0] of the XC layout. -/
def Xc.bits (m : Xc) : Word :=
  m.rnd ++ BitVec.ofBool m.ftz ++ BitVec.ofBool m.ov ++ m.ty ++ m.sc ++ m.ty2 ++ BitVec.ofBool m.flag ++ m.c
/-- The modifiers and C of an XC word. -/
def Xc.ofBits (x : Word) : Xc where
  rnd := x.extractLsb' 30 2
  ftz := x.getLsbD 29
  ov := x.getLsbD 28
  ty := x.extractLsb' 23 5
  sc := x.extractLsb' 20 3
  ty2 := x.extractLsb' 15 5
  flag := x.getLsbD 14
  c := x.extractLsb' 0 14

/-- HY (R53). -/
def Hint.code : Hint → BitVec 2
  | .none => 0 | .y => 1 | .s => 2
/-- The type codes (R63). -/
def Ty.code : Ty → BitVec 5
  | .dflt => 0 | .i4 => 1 | .i8 => 2 | .i16 => 3 | .i32 => 4 | .i64 => 5 | .n4 => 6 | .n8 => 7 | .n16 => 8 | .n32 => 9
  | .n64 => 10 | .f64 => 11 | .f32 => 12 | .f16 => 13 | .bf16 => 14 | .e5m2 => 15 | .e4m3 => 16 | .e2m1 => 17 | .e8m0 => 18
/-- The type of a code; 19 to 31 are reserved. -/
def Ty.ofCode (c : BitVec 5) : Option Ty :=
  match c.toNat with
  | 0 => some .dflt | 1 => some .i4 | 2 => some .i8 | 3 => some .i16 | 4 => some .i32 | 5 => some .i64 | 6 => some .n4
  | 7 => some .n8 | 8 => some .n16 | 9 => some .n32 | 10 => some .n64 | 11 => some .f64 | 12 => some .f32
  | 13 => some .f16 | 14 => some .bf16 | 15 => some .e5m2 | 16 => some .e4m3 | 17 => some .e2m1 | 18 => some .e8m0
  | _ => none
/-- RND (R63). -/
def Rnd.code : Rnd → BitVec 2
  | .rn => 0 | .rz => 1 | .ru => 2 | .rd => 3
/-- The mode of a code. -/
def Rnd.ofCode (c : BitVec 2) : Option Rnd :=
  match c.toNat with
  | 0 => some .rn | 1 => some .rz | 2 => some .ru | _ => some .rd
/-- SC (R63). -/
def Scope.code : Scope → BitVec 3
  | .bd => 0 | .gr => 1 | .cl => 2 | .di => 3 | .dv => 4 | .dm => 5 | .sy => 6
/-- The scope of a code; 7 is reserved. -/
def Scope.ofCode (c : BitVec 3) : Option Scope :=
  match c.toNat with
  | 0 => some .bd | 1 => some .gr | 2 => some .cl | 3 => some .di | 4 => some .dv | 5 => some .dm | 6 => some .sy
  | _ => none
/-- CC (R118). -/
def Cc.code : Cc → BitVec 3
  | .eq => 0 | .ne => 1 | .lt => 2 | .le => 3 | .gt => 4 | .ge => 5
/-- The condition of a code; 6 and 7 are reserved. -/
def Cc.ofCode (c : BitVec 3) : Option Cc :=
  match c.toNat with
  | 0 => some .eq | 1 => some .ne | 2 => some .lt | 3 => some .le | 4 => some .gt | 5 => some .ge | _ => none
/-- FCC (R142). -/
def Fcc.code : Fcc → BitVec 3
  | .eq => 0 | .ne => 1 | .lt => 2 | .le => 3 | .gt => 4 | .ge => 5 | .un => 6 | .ord => 7
/-- The condition of a code. -/
def Fcc.ofCode (c : BitVec 3) : Option Fcc :=
  match c.toNat with
  | 0 => some .eq | 1 => some .ne | 2 => some .lt | 3 => some .le | 4 => some .gt | 5 => some .ge | 6 => some .un
  | _ => some .ord
/-- OPL (R118). -/
def Opl.code : Opl → BitVec 2
  | .and => 0 | .or => 1 | .xor => 2 | .andn => 3
/-- The operation of a code. -/
def Opl.ofCode (c : BitVec 2) : Option Opl :=
  match c.toNat with
  | 0 => some .and | 1 => some .or | 2 => some .xor | _ => some .andn
/-- RED (R118). -/
def Red.code : Red → BitVec 3
  | .add => 0 | .min => 1 | .max => 2 | .and => 3 | .or => 4 | .xor => 5
/-- The operation of a code; 6 and 7 are reserved. -/
def Red.ofCode (c : BitVec 3) : Option Red :=
  match c.toNat with
  | 0 => some .add | 1 => some .min | 2 => some .max | 3 => some .and | 4 => some .or | 5 => some .xor | _ => none
/-- MODE (R142). -/
def ShMode.code : ShMode → BitVec 2
  | .idx => 0 | .up => 1 | .down => 2 | .xor => 3
/-- The mode of a code. -/
def ShMode.ofCode (c : BitVec 2) : Option ShMode :=
  match c.toNat with
  | 0 => some .idx | 1 => some .up | 2 => some .down | _ => some .xor
/-- SEG (R142). -/
def ShSeg.code : ShSeg → BitVec 3
  | .w32 => 0 | .w2 => 1 | .w4 => 2 | .w8 => 3 | .w16 => 4
/-- The segment width of a code; 5 to 7 are reserved. -/
def ShSeg.ofCode (c : BitVec 3) : Option ShSeg :=
  match c.toNat with
  | 0 => some .w32 | 1 => some .w2 | 2 => some .w4 | 3 => some .w8 | 4 => some .w16 | _ => none
/-- VM (R142). -/
def VoteMode.code : VoteMode → BitVec 2
  | .all => 0 | .any => 1 | .uni => 2 | .bal => 3
/-- The mode of a code. -/
def VoteMode.ofCode (c : BitVec 2) : Option VoteMode :=
  match c.toNat with
  | 0 => some .all | 1 => some .any | 2 => some .uni | _ => some .bal
/-- ORD (R192). -/
def Ord.code : Ord → BitVec 2
  | .none => 0 | .acq => 1 | .rel => 2 | .ar => 3
/-- The ordering of a code. -/
def Ord.ofCode (c : BitVec 2) : Option Ord :=
  match c.toNat with
  | 0 => some .none | 1 => some .acq | 2 => some .rel | _ => some .ar
/-- FK (R192). -/
def FenceKind.code : FenceKind → BitVec 2
  | .full => 0 | .rel => 1 | .acq => 2
/-- The kind of a code; 3 is reserved. -/
def FenceKind.ofCode (c : BitVec 2) : Option FenceKind :=
  match c.toNat with
  | 0 => some .full | 1 => some .rel | 2 => some .acq | _ => none
/-- SZ (R206). -/
def CopySz.code : CopySz → BitVec 2
  | .b4 => 0 | .b8 => 1 | .b16 => 2
/-- The size of a code; 3 is reserved. -/
def CopySz.ofCode (c : BitVec 2) : Option CopySz :=
  match c.toNat with
  | 0 => some .b4 | 1 => some .b8 | 2 => some .b16 | _ => none
/-- The numbers of the system registers (R104). -/
def SReg.code : SReg → BitVec 11
  | .thread => 0x000 | .lane => 0x001 | .band => 0x002 | .slice => 0x003 | .group => 0x004 | .unit => 0x005
  | .stage => 0x006 | .cluster => 0x007 | .idxX => 0x008 | .idxY => 0x009 | .idxZ => 0x00A | .twin => 0x00B
  | .ctx => 0x00C | .live => 0x010 | .active => 0x011 | .canon => 0x012 | .fflags => 0x020 | .pool => 0x030
  | .held => 0x031 | .poolfree => 0x032 | .batch => 0x040 | .bdone => 0x041 | .inlmax => 0x042 | .fixed => 0x043
  | .accovf => 0x044 | .cyc => 0x048 | .level => 0x050
/-- The system register of a number; every other number is unassigned (R104). -/
def SReg.ofCode (c : BitVec 11) : Option SReg :=
  match c.toNat with
  | 0x000 => some .thread | 0x001 => some .lane | 0x002 => some .band | 0x003 => some .slice | 0x004 => some .group
  | 0x005 => some .unit | 0x006 => some .stage | 0x007 => some .cluster | 0x008 => some .idxX | 0x009 => some .idxY
  | 0x00A => some .idxZ | 0x00B => some .twin | 0x00C => some .ctx | 0x010 => some .live | 0x011 => some .active
  | 0x012 => some .canon | 0x020 => some .fflags | 0x030 => some .pool | 0x031 => some .held | 0x032 => some .poolfree
  | 0x040 => some .batch | 0x041 => some .bdone | 0x042 => some .inlmax | 0x043 => some .fixed | 0x044 => some .accovf
  | 0x048 => some .cyc | 0x050 => some .level | _ => none

/-- An operand field (R55): the class above the index. -/
def Opd.enc : Opd → BitVec 14
  | .v i => 0#6 ++ i
  | .o i => 1#3 ++ 0#7 ++ i
  | .l i => 2#3 ++ 0#9 ++ i
  | .b i => 3#3 ++ 0#5 ++ i
  | .p i => 4#3 ++ 0#8 ++ i
  | .q i => 4#3 ++ 1#8 ++ i
  | .acc i => 5#3 ++ 0#7 ++ i
  | .s r => 6#3 ++ r.code
  | .imm i => 7#3 ++ i
/-- The operand a field names, if its index is in the range of its class and a system register is assigned (R55). -/
def Opd.dec (f : BitVec 14) : Option Opd :=
  let i := f.extractLsb' 0 11
  match (f.extractLsb' 11 3).toNat with
  | 0 => if i.extractLsb' 8 3 == 0#3 then some (.v (i.extractLsb' 0 8)) else none
  | 1 => if i.extractLsb' 4 7 == 0#7 then some (.o (i.extractLsb' 0 4)) else none
  | 2 => if i.extractLsb' 2 9 == 0#9 then some (.l (i.extractLsb' 0 2)) else none
  | 3 => if i.extractLsb' 6 5 == 0#5 then some (.b (i.extractLsb' 0 6)) else none
  | 4 =>
    if i.extractLsb' 3 8 == 0#8 then some (.p (i.extractLsb' 0 3))
    else if i.extractLsb' 3 8 == 1#8 then some (.q (i.extractLsb' 0 3)) else none
  | 5 => if i.extractLsb' 4 7 == 0#7 then some (.acc (i.extractLsb' 0 4)) else none
  | 6 => (SReg.ofCode i).map Opd.s
  | _ => some (.imm i)
/-- The A field of a table instruction: 0x0000 names the current code segment (R274). -/
def Opd.encOpt : Option Opd → BitVec 14
  | none => 0#14
  | some x => x.enc
/-- The A field of a table instruction (R274). -/
def Opd.decOpt (f : BitVec 14) : Option (Option Opd) :=
  if f == 0#14 then some none else (Opd.dec f).map some

/-- HY and the reserved bits hold no reserved value (R54). -/
def Raw.plain (r : Raw) : Bool := r.rsv == 0#2 && r.hy != 3#2
/-- The guard, lookahead and hint of a word. -/
def Raw.hdr (r : Raw) : Hdr where
  gp := r.gp
  gn := r.gn
  la := r.la
  hy := if r.hy == 1#2 then .y else if r.hy == 2#2 then .s else .none
/-- The fields of a word from a header, a code, three operand fields and X. -/
def Raw.of (h : Hdr) (op : BitVec 10) (d a b : BitVec 14) (x : Word) : Raw :=
  ⟨x, 0#2, b, a, d, h.hy.code, h.la, h.gn, h.gp, op⟩

/-- Goes on when the condition holds. -/
def check {α : Type} (e : DecErr) (c : Bool) (k : Except DecErr α) : Except DecErr α :=
  if c then k else .error e
/-- Goes on with the value, where there is one. -/
def need {α β : Type} (e : DecErr) (o : Option α) (k : α → Except DecErr β) : Except DecErr β :=
  match o with
  | some x => k x
  | none => .error e
/-- The instruction, where its entry accepts its operands and modifiers (R67 row 8). -/
def finish (i : Instr) : Except DecErr Instr := if i.wf then .ok i else .error .badOperand

/-- The words whose code lies in 0x000..0x03F (R77); every code no entry names is refused (R78). -/
def decodeMove (r : Raw) : Except DecErr Instr :=
  match r.op.toNat with
  | 0x000 =>
    let m := Xm.ofBits r.x
    check .badField (r.plain && r.d == 0#14 && r.a == 0#14 && r.b == 0#14 && m.rnd == 0#2 && !m.ftz && !m.ov && m.ty == 0#5 && m.sc == 0#3 && m.ty2 == 0#5 && m.per.extractLsb' 0 15 == 0#15) <|
    finish (.nop r.hdr)
  | 0x001 =>
    let m := Xm.ofBits r.x
    check .badField (r.plain && r.a == 0#14 && m.rnd == 0#2 && !m.ftz && !m.ov && m.sc == 0#3 && m.ty2 == 0#5 && m.per.extractLsb' 0 15 == 0#15) <|
    need .badField (Ty.ofCode m.ty) fun ty =>
    need .badOperand (Opd.dec r.d) fun d =>
    need .badOperand (Opd.dec r.b) fun b =>
    finish (.mov r.hdr ty d b)
  | 0x002 =>
    check .badField (r.plain && r.a == 0#14 && r.b == 0#14) <|
    need .badOperand (Opd.dec r.d) fun d =>
    let imm := r.x
    finish (.movLong r.hdr d imm)
  | 0x003 =>
    let m := Xc.ofBits r.x
    check .badField (r.plain && m.rnd == 0#2 && !m.ftz && !m.ov && m.sc == 0#3 && m.ty2 == 0#5 && !m.flag) <|
    need .badField (Ty.ofCode m.ty) fun ty =>
    need .badOperand (Opd.dec r.d) fun d =>
    need .badOperand (Opd.dec r.a) fun a =>
    need .badOperand (Opd.dec r.b) fun b =>
    need .badOperand (Opd.dec m.c) fun c =>
    finish (.sel r.hdr ty d a b c)
  | 0x004 =>
    let m := Xm.ofBits r.x
    check .badField (r.plain && m.rnd == 0#2 && !m.ftz && !m.ov && m.ty == 0#5 && m.sc == 0#3 && m.ty2 == 0#5 && m.per.extractLsb' 2 13 == 0#13) <|
    need .badField (Opl.ofCode (m.per.extractLsb' 0 2)) fun op =>
    need .badOperand (Opd.dec r.d) fun d =>
    need .badOperand (Opd.dec r.a) fun a =>
    need .badOperand (Opd.dec r.b) fun b =>
    finish (.plog r.hdr op d a b)
  | 0x010 =>
    let m := Xm.ofBits r.x
    check .badField (r.plain && m.rnd == 0#2 && !m.ftz && m.sc == 0#3 && m.ty2 == 0#5 && m.per.extractLsb' 0 15 == 0#15) <|
    need .badField (Ty.ofCode m.ty) fun ty =>
    let sat := m.ov
    need .badOperand (Opd.dec r.d) fun d =>
    need .badOperand (Opd.dec r.a) fun a =>
    need .badOperand (Opd.dec r.b) fun b =>
    finish (.iadd r.hdr ty sat d a b)
  | 0x011 =>
    check .badField (r.plain && r.b == 0#14) <|
    need .badOperand (Opd.dec r.d) fun d =>
    need .badOperand (Opd.dec r.a) fun a =>
    let imm := r.x
    finish (.iaddLong r.hdr d a imm)
  | 0x012 =>
    let m := Xm.ofBits r.x
    check .badField (r.plain && m.rnd == 0#2 && !m.ftz && m.sc == 0#3 && m.ty2 == 0#5 && m.per.extractLsb' 0 15 == 0#15) <|
    need .badField (Ty.ofCode m.ty) fun ty =>
    let sat := m.ov
    need .badOperand (Opd.dec r.d) fun d =>
    need .badOperand (Opd.dec r.a) fun a =>
    need .badOperand (Opd.dec r.b) fun b =>
    finish (.isub r.hdr ty sat d a b)
  | 0x013 =>
    check .badField (r.plain && r.b == 0#14) <|
    need .badOperand (Opd.dec r.d) fun d =>
    need .badOperand (Opd.dec r.a) fun a =>
    let imm := r.x
    finish (.isubLong r.hdr d a imm)
  | 0x014 =>
    let m := Xm.ofBits r.x
    check .badField (r.plain && m.rnd == 0#2 && !m.ftz && m.sc == 0#3 && m.ty2 == 0#5 && m.per.extractLsb' 0 15 == 0#15) <|
    need .badField (Ty.ofCode m.ty) fun ty =>
    let sat := m.ov
    need .badOperand (Opd.dec r.d) fun d =>
    need .badOperand (Opd.dec r.a) fun a =>
    need .badOperand (Opd.dec r.b) fun b =>
    finish (.imul r.hdr ty sat d a b)
  | 0x015 =>
    check .badField (r.plain && r.b == 0#14) <|
    need .badOperand (Opd.dec r.d) fun d =>
    need .badOperand (Opd.dec r.a) fun a =>
    let imm := r.x
    finish (.imulLong r.hdr d a imm)
  | 0x016 =>
    let m := Xm.ofBits r.x
    check .badField (r.plain && m.rnd == 0#2 && !m.ftz && !m.ov && m.sc == 0#3 && m.ty2 == 0#5 && m.per.extractLsb' 0 15 == 0#15) <|
    need .badField (Ty.ofCode m.ty) fun ty =>
    need .badOperand (Opd.dec r.d) fun d =>
    need .badOperand (Opd.dec r.a) fun a =>
    need .badOperand (Opd.dec r.b) fun b =>
    finish (.imulh r.hdr ty d a b)
  | 0x017 =>
    let m := Xc.ofBits r.x
    check .badField (r.plain && m.rnd == 0#2 && !m.ftz && m.sc == 0#3 && m.ty2 == 0#5 && !m.flag) <|
    need .badField (Ty.ofCode m.ty) fun ty =>
    let sat := m.ov
    need .badOperand (Opd.dec r.d) fun d =>
    need .badOperand (Opd.dec r.a) fun a =>
    need .badOperand (Opd.dec r.b) fun b =>
    need .badOperand (Opd.dec m.c) fun c =>
    finish (.imad r.hdr ty sat d a b c)
  | 0x018 =>
    let m := Xm.ofBits r.x
    check .badField (r.plain && m.rnd == 0#2 && !m.ftz && m.sc == 0#3 && m.ty2 == 0#5 && m.per.extractLsb' 0 15 == 0#15) <|
    need .badField (Ty.ofCode m.ty) fun ty =>
    let sat := m.ov
    need .badOperand (Opd.dec r.d) fun d =>
    need .badOperand (Opd.dec r.a) fun a =>
    need .badOperand (Opd.dec r.b) fun b =>
    finish (.idiv r.hdr ty sat d a b)
  | 0x019 =>
    let m := Xm.ofBits r.x
    check .badField (r.plain && m.rnd == 0#2 && !m.ftz && !m.ov && m.sc == 0#3 && m.ty2 == 0#5 && m.per.extractLsb' 0 15 == 0#15) <|
    need .badField (Ty.ofCode m.ty) fun ty =>
    need .badOperand (Opd.dec r.d) fun d =>
    need .badOperand (Opd.dec r.a) fun a =>
    need .badOperand (Opd.dec r.b) fun b =>
    finish (.irem r.hdr ty d a b)
  | 0x01A =>
    let m := Xm.ofBits r.x
    check .badField (r.plain && m.rnd == 0#2 && !m.ftz && !m.ov && m.sc == 0#3 && m.ty2 == 0#5 && m.per.extractLsb' 0 15 == 0#15) <|
    need .badField (Ty.ofCode m.ty) fun ty =>
    need .badOperand (Opd.dec r.d) fun d =>
    need .badOperand (Opd.dec r.a) fun a =>
    need .badOperand (Opd.dec r.b) fun b =>
    finish (.imin r.hdr ty d a b)
  | 0x01B =>
    let m := Xm.ofBits r.x
    check .badField (r.plain && m.rnd == 0#2 && !m.ftz && !m.ov && m.sc == 0#3 && m.ty2 == 0#5 && m.per.extractLsb' 0 15 == 0#15) <|
    need .badField (Ty.ofCode m.ty) fun ty =>
    need .badOperand (Opd.dec r.d) fun d =>
    need .badOperand (Opd.dec r.a) fun a =>
    need .badOperand (Opd.dec r.b) fun b =>
    finish (.imax r.hdr ty d a b)
  | 0x01C =>
    let m := Xm.ofBits r.x
    check .badField (r.plain && r.b == 0#14 && m.rnd == 0#2 && !m.ftz && m.sc == 0#3 && m.ty2 == 0#5 && m.per.extractLsb' 0 15 == 0#15) <|
    need .badField (Ty.ofCode m.ty) fun ty =>
    let sat := m.ov
    need .badOperand (Opd.dec r.d) fun d =>
    need .badOperand (Opd.dec r.a) fun a =>
    finish (.iabs r.hdr ty sat d a)
  | 0x01D =>
    let m := Xm.ofBits r.x
    check .badField (r.plain && r.b == 0#14 && m.rnd == 0#2 && !m.ftz && m.sc == 0#3 && m.ty2 == 0#5 && m.per.extractLsb' 0 15 == 0#15) <|
    need .badField (Ty.ofCode m.ty) fun ty =>
    let sat := m.ov
    need .badOperand (Opd.dec r.d) fun d =>
    need .badOperand (Opd.dec r.a) fun a =>
    finish (.ineg r.hdr ty sat d a)
  | 0x01E =>
    let m := Xm.ofBits r.x
    check .badField (r.plain && m.rnd == 0#2 && !m.ftz && !m.ov && m.sc == 0#3 && m.ty2 == 0#5 && m.per.extractLsb' 3 12 == 0#12) <|
    need .badField (Ty.ofCode m.ty) fun ty =>
    need .badField (Cc.ofCode (m.per.extractLsb' 0 3)) fun cc =>
    need .badOperand (Opd.dec r.d) fun d =>
    need .badOperand (Opd.dec r.a) fun a =>
    need .badOperand (Opd.dec r.b) fun b =>
    finish (.icmp r.hdr ty cc d a b)
  | _ => .error .unassignedOpcode

/-- The words whose code lies in 0x040..0x07F (R77); every code no entry names is refused (R78). -/
def decodeLogic (r : Raw) : Except DecErr Instr :=
  match r.op.toNat with
  | 0x040 =>
    let m := Xm.ofBits r.x
    check .badField (r.plain && m.rnd == 0#2 && !m.ftz && !m.ov && m.sc == 0#3 && m.ty2 == 0#5 && m.per.extractLsb' 0 15 == 0#15) <|
    need .badField (Ty.ofCode m.ty) fun ty =>
    need .badOperand (Opd.dec r.d) fun d =>
    need .badOperand (Opd.dec r.a) fun a =>
    need .badOperand (Opd.dec r.b) fun b =>
    finish (.and r.hdr ty d a b)
  | 0x041 =>
    check .badField (r.plain && r.b == 0#14) <|
    need .badOperand (Opd.dec r.d) fun d =>
    need .badOperand (Opd.dec r.a) fun a =>
    let imm := r.x
    finish (.andLong r.hdr d a imm)
  | 0x042 =>
    let m := Xm.ofBits r.x
    check .badField (r.plain && m.rnd == 0#2 && !m.ftz && !m.ov && m.sc == 0#3 && m.ty2 == 0#5 && m.per.extractLsb' 0 15 == 0#15) <|
    need .badField (Ty.ofCode m.ty) fun ty =>
    need .badOperand (Opd.dec r.d) fun d =>
    need .badOperand (Opd.dec r.a) fun a =>
    need .badOperand (Opd.dec r.b) fun b =>
    finish (.or r.hdr ty d a b)
  | 0x043 =>
    check .badField (r.plain && r.b == 0#14) <|
    need .badOperand (Opd.dec r.d) fun d =>
    need .badOperand (Opd.dec r.a) fun a =>
    let imm := r.x
    finish (.orLong r.hdr d a imm)
  | 0x044 =>
    let m := Xm.ofBits r.x
    check .badField (r.plain && m.rnd == 0#2 && !m.ftz && !m.ov && m.sc == 0#3 && m.ty2 == 0#5 && m.per.extractLsb' 0 15 == 0#15) <|
    need .badField (Ty.ofCode m.ty) fun ty =>
    need .badOperand (Opd.dec r.d) fun d =>
    need .badOperand (Opd.dec r.a) fun a =>
    need .badOperand (Opd.dec r.b) fun b =>
    finish (.xor r.hdr ty d a b)
  | 0x045 =>
    check .badField (r.plain && r.b == 0#14) <|
    need .badOperand (Opd.dec r.d) fun d =>
    need .badOperand (Opd.dec r.a) fun a =>
    let imm := r.x
    finish (.xorLong r.hdr d a imm)
  | 0x046 =>
    let m := Xm.ofBits r.x
    check .badField (r.plain && m.rnd == 0#2 && !m.ftz && !m.ov && m.sc == 0#3 && m.ty2 == 0#5 && m.per.extractLsb' 0 15 == 0#15) <|
    need .badField (Ty.ofCode m.ty) fun ty =>
    need .badOperand (Opd.dec r.d) fun d =>
    need .badOperand (Opd.dec r.a) fun a =>
    need .badOperand (Opd.dec r.b) fun b =>
    finish (.andn r.hdr ty d a b)
  | 0x047 =>
    let m := Xm.ofBits r.x
    check .badField (r.plain && r.b == 0#14 && m.rnd == 0#2 && !m.ftz && !m.ov && m.sc == 0#3 && m.ty2 == 0#5 && m.per.extractLsb' 0 15 == 0#15) <|
    need .badField (Ty.ofCode m.ty) fun ty =>
    need .badOperand (Opd.dec r.d) fun d =>
    need .badOperand (Opd.dec r.a) fun a =>
    finish (.not r.hdr ty d a)
  | 0x048 =>
    let m := Xm.ofBits r.x
    check .badField (r.plain && m.rnd == 0#2 && !m.ftz && !m.ov && m.sc == 0#3 && m.ty2 == 0#5 && m.per.extractLsb' 0 15 == 0#15) <|
    need .badField (Ty.ofCode m.ty) fun ty =>
    need .badOperand (Opd.dec r.d) fun d =>
    need .badOperand (Opd.dec r.a) fun a =>
    need .badOperand (Opd.dec r.b) fun b =>
    finish (.shl r.hdr ty d a b)
  | 0x049 =>
    let m := Xm.ofBits r.x
    check .badField (r.plain && m.rnd == 0#2 && !m.ftz && !m.ov && m.sc == 0#3 && m.ty2 == 0#5 && m.per.extractLsb' 0 15 == 0#15) <|
    need .badField (Ty.ofCode m.ty) fun ty =>
    need .badOperand (Opd.dec r.d) fun d =>
    need .badOperand (Opd.dec r.a) fun a =>
    need .badOperand (Opd.dec r.b) fun b =>
    finish (.shr r.hdr ty d a b)
  | 0x04A =>
    let m := Xm.ofBits r.x
    check .badField (r.plain && m.rnd == 0#2 && !m.ftz && !m.ov && m.sc == 0#3 && m.ty2 == 0#5 && m.per.extractLsb' 0 15 == 0#15) <|
    need .badField (Ty.ofCode m.ty) fun ty =>
    need .badOperand (Opd.dec r.d) fun d =>
    need .badOperand (Opd.dec r.a) fun a =>
    need .badOperand (Opd.dec r.b) fun b =>
    finish (.sar r.hdr ty d a b)
  | 0x04B =>
    let m := Xm.ofBits r.x
    check .badField (r.plain && m.rnd == 0#2 && !m.ftz && !m.ov && m.sc == 0#3 && m.ty2 == 0#5 && m.per.extractLsb' 0 15 == 0#15) <|
    need .badField (Ty.ofCode m.ty) fun ty =>
    need .badOperand (Opd.dec r.d) fun d =>
    need .badOperand (Opd.dec r.a) fun a =>
    need .badOperand (Opd.dec r.b) fun b =>
    finish (.rol r.hdr ty d a b)
  | 0x04C =>
    let m := Xm.ofBits r.x
    check .badField (r.plain && r.b == 0#14 && m.rnd == 0#2 && !m.ftz && !m.ov && m.sc == 0#3 && m.ty2 == 0#5 && m.per.extractLsb' 0 15 == 0#15) <|
    need .badField (Ty.ofCode m.ty) fun ty =>
    need .badOperand (Opd.dec r.d) fun d =>
    need .badOperand (Opd.dec r.a) fun a =>
    finish (.popc r.hdr ty d a)
  | 0x04D =>
    let m := Xm.ofBits r.x
    check .badField (r.plain && r.b == 0#14 && m.rnd == 0#2 && !m.ftz && !m.ov && m.sc == 0#3 && m.ty2 == 0#5 && m.per.extractLsb' 0 15 == 0#15) <|
    need .badField (Ty.ofCode m.ty) fun ty =>
    need .badOperand (Opd.dec r.d) fun d =>
    need .badOperand (Opd.dec r.a) fun a =>
    finish (.clz r.hdr ty d a)
  | 0x04E =>
    let m := Xm.ofBits r.x
    check .badField (r.plain && r.b == 0#14 && m.rnd == 0#2 && !m.ftz && !m.ov && m.sc == 0#3 && m.ty2 == 0#5 && m.per.extractLsb' 0 15 == 0#15) <|
    need .badField (Ty.ofCode m.ty) fun ty =>
    need .badOperand (Opd.dec r.d) fun d =>
    need .badOperand (Opd.dec r.a) fun a =>
    finish (.ctz r.hdr ty d a)
  | 0x04F =>
    let m := Xm.ofBits r.x
    check .badField (r.plain && r.b == 0#14 && m.rnd == 0#2 && !m.ftz && !m.ov && m.sc == 0#3 && m.ty2 == 0#5 && m.per.extractLsb' 0 15 == 0#15) <|
    need .badField (Ty.ofCode m.ty) fun ty =>
    need .badOperand (Opd.dec r.d) fun d =>
    need .badOperand (Opd.dec r.a) fun a =>
    finish (.brev r.hdr ty d a)
  | 0x050 =>
    let m := Xm.ofBits r.x
    check .badField (r.plain && m.rnd == 0#2 && !m.ftz && !m.ov && m.sc == 0#3 && m.ty2 == 0#5 && m.per.extractLsb' 0 15 == 0#15) <|
    need .badField (Ty.ofCode m.ty) fun ty =>
    need .badOperand (Opd.dec r.d) fun d =>
    need .badOperand (Opd.dec r.a) fun a =>
    need .badOperand (Opd.dec r.b) fun b =>
    finish (.bfx r.hdr ty d a b)
  | 0x051 =>
    check .badField (r.plain && r.b == 0#14) <|
    need .badOperand (Opd.dec r.d) fun d =>
    need .badOperand (Opd.dec r.a) fun a =>
    let imm := r.x
    finish (.bfxLong r.hdr d a imm)
  | 0x052 =>
    let m := Xc.ofBits r.x
    check .badField (r.plain && m.rnd == 0#2 && !m.ftz && !m.ov && m.sc == 0#3 && m.ty2 == 0#5 && !m.flag) <|
    need .badField (Ty.ofCode m.ty) fun ty =>
    need .badOperand (Opd.dec r.d) fun d =>
    need .badOperand (Opd.dec r.a) fun a =>
    need .badOperand (Opd.dec r.b) fun b =>
    need .badOperand (Opd.dec m.c) fun c =>
    finish (.bfi r.hdr ty d a b c)
  | 0x060 =>
    let m := Xm.ofBits r.x
    check .badField (r.plain && m.rnd == 0#2 && !m.ftz && !m.ov && m.sc == 0#3 && m.ty2 == 0#5 && m.per.extractLsb' 3 12 == 0#12) <|
    need .badField (Ty.ofCode m.ty) fun ty =>
    let scl := m.per.extractLsb' 0 3
    need .badOperand (Opd.dec r.d) fun d =>
    need .badOperand (Opd.dec r.a) fun a =>
    need .badOperand (Opd.dec r.b) fun b =>
    finish (.hadd r.hdr ty scl d a b)
  | 0x061 =>
    check .badField (r.plain && r.b == 0#14) <|
    need .badOperand (Opd.dec r.d) fun d =>
    need .badOperand (Opd.dec r.a) fun a =>
    let imm := r.x
    finish (.haddLong r.hdr d a imm)
  | 0x062 =>
    let m := Xm.ofBits r.x
    check .badField (r.plain && m.rnd == 0#2 && !m.ftz && !m.ov && m.ty == 0#5 && m.sc == 0#3 && m.ty2 == 0#5 && m.per.extractLsb' 0 15 == 0#15) <|
    need .badOperand (Opd.dec r.d) fun d =>
    need .badOperand (Opd.dec r.a) fun a =>
    need .badOperand (Opd.dec r.b) fun b =>
    finish (.hsub r.hdr d a b)
  | 0x063 =>
    let m := Xm.ofBits r.x
    check .badField (r.plain && r.b == 0#14 && m.rnd == 0#2 && !m.ftz && !m.ov && m.ty == 0#5 && m.sc == 0#3 && m.ty2 == 0#5 && m.per.extractLsb' 0 15 == 0#15) <|
    need .badOperand (Opd.dec r.d) fun d =>
    need .badOperand (Opd.dec r.a) fun a =>
    finish (.hsel r.hdr d a)
  | 0x064 =>
    let m := Xm.ofBits r.x
    check .badField (r.plain && r.b == 0#14 && m.rnd == 0#2 && !m.ftz && !m.ov && m.ty == 0#5 && m.sc == 0#3 && m.ty2 == 0#5 && m.per.extractLsb' 0 15 == 0#15) <|
    need .badOperand (Opd.dec r.d) fun d =>
    need .badOperand (Opd.dec r.a) fun a =>
    finish (.hoff r.hdr d a)
  | 0x065 =>
    let m := Xm.ofBits r.x
    check .badField (r.plain && m.rnd == 0#2 && !m.ftz && !m.ov && m.ty == 0#5 && m.sc == 0#3 && m.ty2 == 0#5 && m.per.extractLsb' 0 15 == 0#15) <|
    need .badOperand (Opd.dec r.d) fun d =>
    need .badOperand (Opd.dec r.a) fun a =>
    need .badOperand (Opd.dec r.b) fun b =>
    finish (.hmake r.hdr d a b)
  | 0x066 =>
    let m := Xm.ofBits r.x
    check .badField (r.plain && m.rnd == 0#2 && !m.ftz && !m.ov && m.ty == 0#5 && m.sc == 0#3 && m.ty2 == 0#5 && m.per.extractLsb' 3 12 == 0#12) <|
    need .badField (Cc.ofCode (m.per.extractLsb' 0 3)) fun cc =>
    need .badOperand (Opd.dec r.d) fun d =>
    need .badOperand (Opd.dec r.a) fun a =>
    need .badOperand (Opd.dec r.b) fun b =>
    finish (.hcmp r.hdr cc d a b)
  | _ => .error .unassignedOpcode

/-- The words whose code lies in 0x080..0x0FF (R77); every code no entry names is refused (R78). -/
def decodeFloat (r : Raw) : Except DecErr Instr :=
  match r.op.toNat with
  | 0x080 =>
    let m := Xm.ofBits r.x
    check .badField (r.plain && !m.ov && m.sc == 0#3 && m.ty2 == 0#5 && m.per.extractLsb' 0 15 == 0#15) <|
    need .badField (Ty.ofCode m.ty) fun ty =>
    need .badField (Rnd.ofCode m.rnd) fun rnd =>
    let ftz := m.ftz
    need .badOperand (Opd.dec r.d) fun d =>
    need .badOperand (Opd.dec r.a) fun a =>
    need .badOperand (Opd.dec r.b) fun b =>
    finish (.fadd r.hdr ty rnd ftz d a b)
  | 0x081 =>
    check .badField (r.plain && r.b == 0#14) <|
    need .badOperand (Opd.dec r.d) fun d =>
    need .badOperand (Opd.dec r.a) fun a =>
    let imm := r.x
    finish (.faddLong r.hdr d a imm)
  | 0x082 =>
    let m := Xm.ofBits r.x
    check .badField (r.plain && !m.ov && m.sc == 0#3 && m.ty2 == 0#5 && m.per.extractLsb' 0 15 == 0#15) <|
    need .badField (Ty.ofCode m.ty) fun ty =>
    need .badField (Rnd.ofCode m.rnd) fun rnd =>
    let ftz := m.ftz
    need .badOperand (Opd.dec r.d) fun d =>
    need .badOperand (Opd.dec r.a) fun a =>
    need .badOperand (Opd.dec r.b) fun b =>
    finish (.fsub r.hdr ty rnd ftz d a b)
  | 0x083 =>
    let m := Xm.ofBits r.x
    check .badField (r.plain && !m.ov && m.sc == 0#3 && m.ty2 == 0#5 && m.per.extractLsb' 0 15 == 0#15) <|
    need .badField (Ty.ofCode m.ty) fun ty =>
    need .badField (Rnd.ofCode m.rnd) fun rnd =>
    let ftz := m.ftz
    need .badOperand (Opd.dec r.d) fun d =>
    need .badOperand (Opd.dec r.a) fun a =>
    need .badOperand (Opd.dec r.b) fun b =>
    finish (.fmul r.hdr ty rnd ftz d a b)
  | 0x084 =>
    check .badField (r.plain && r.b == 0#14) <|
    need .badOperand (Opd.dec r.d) fun d =>
    need .badOperand (Opd.dec r.a) fun a =>
    let imm := r.x
    finish (.fmulLong r.hdr d a imm)
  | 0x085 =>
    let m := Xc.ofBits r.x
    check .badField (r.plain && !m.ov && m.sc == 0#3 && m.ty2 == 0#5 && !m.flag) <|
    need .badField (Ty.ofCode m.ty) fun ty =>
    need .badField (Rnd.ofCode m.rnd) fun rnd =>
    let ftz := m.ftz
    need .badOperand (Opd.dec r.d) fun d =>
    need .badOperand (Opd.dec r.a) fun a =>
    need .badOperand (Opd.dec r.b) fun b =>
    need .badOperand (Opd.dec m.c) fun c =>
    finish (.ffma r.hdr ty rnd ftz d a b c)
  | 0x086 =>
    let m := Xm.ofBits r.x
    check .badField (r.plain && m.rnd == 0#2 && !m.ov && m.sc == 0#3 && m.ty2 == 0#5 && m.per.extractLsb' 0 15 == 0#15) <|
    need .badField (Ty.ofCode m.ty) fun ty =>
    let ftz := m.ftz
    need .badOperand (Opd.dec r.d) fun d =>
    need .badOperand (Opd.dec r.a) fun a =>
    need .badOperand (Opd.dec r.b) fun b =>
    finish (.fmin r.hdr ty ftz d a b)
  | 0x087 =>
    let m := Xm.ofBits r.x
    check .badField (r.plain && m.rnd == 0#2 && !m.ov && m.sc == 0#3 && m.ty2 == 0#5 && m.per.extractLsb' 0 15 == 0#15) <|
    need .badField (Ty.ofCode m.ty) fun ty =>
    let ftz := m.ftz
    need .badOperand (Opd.dec r.d) fun d =>
    need .badOperand (Opd.dec r.a) fun a =>
    need .badOperand (Opd.dec r.b) fun b =>
    finish (.fmax r.hdr ty ftz d a b)
  | 0x088 =>
    let m := Xm.ofBits r.x
    check .badField (r.plain && r.b == 0#14 && m.rnd == 0#2 && !m.ftz && !m.ov && m.sc == 0#3 && m.ty2 == 0#5 && m.per.extractLsb' 0 15 == 0#15) <|
    need .badField (Ty.ofCode m.ty) fun ty =>
    need .badOperand (Opd.dec r.d) fun d =>
    need .badOperand (Opd.dec r.a) fun a =>
    finish (.fabs r.hdr ty d a)
  | 0x089 =>
    let m := Xm.ofBits r.x
    check .badField (r.plain && r.b == 0#14 && m.rnd == 0#2 && !m.ftz && !m.ov && m.sc == 0#3 && m.ty2 == 0#5 && m.per.extractLsb' 0 15 == 0#15) <|
    need .badField (Ty.ofCode m.ty) fun ty =>
    need .badOperand (Opd.dec r.d) fun d =>
    need .badOperand (Opd.dec r.a) fun a =>
    finish (.fneg r.hdr ty d a)
  | 0x08A =>
    let m := Xm.ofBits r.x
    check .badField (r.plain && m.rnd == 0#2 && !m.ov && m.sc == 0#3 && m.ty2 == 0#5 && m.per.extractLsb' 3 12 == 0#12) <|
    need .badField (Ty.ofCode m.ty) fun ty =>
    let ftz := m.ftz
    need .badField (Fcc.ofCode (m.per.extractLsb' 0 3)) fun cc =>
    need .badOperand (Opd.dec r.d) fun d =>
    need .badOperand (Opd.dec r.a) fun a =>
    need .badOperand (Opd.dec r.b) fun b =>
    finish (.fcmp r.hdr ty ftz cc d a b)
  | 0x08B =>
    let m := Xm.ofBits r.x
    check .badField (r.plain && r.b == 0#14 && m.rnd == 0#2 && !m.ftz && !m.ov && m.sc == 0#3 && m.ty2 == 0#5 && m.per.extractLsb' 0 15 == 0#15) <|
    need .badField (Ty.ofCode m.ty) fun ty =>
    need .badOperand (Opd.dec r.d) fun d =>
    need .badOperand (Opd.dec r.a) fun a =>
    finish (.fclass r.hdr ty d a)
  | 0x08C =>
    let m := Xm.ofBits r.x
    check .badField (r.plain && r.b == 0#14 && !m.ftz && !m.ov && m.sc == 0#3 && m.ty2 == 0#5 && m.per.extractLsb' 0 15 == 0#15) <|
    need .badField (Ty.ofCode m.ty) fun ty =>
    need .badField (Rnd.ofCode m.rnd) fun rnd =>
    need .badOperand (Opd.dec r.d) fun d =>
    need .badOperand (Opd.dec r.a) fun a =>
    finish (.frnd r.hdr ty rnd d a)
  | 0x08D =>
    let m := Xm.ofBits r.x
    check .badField (r.plain && !m.ov && m.sc == 0#3 && m.ty2 == 0#5 && m.per.extractLsb' 0 15 == 0#15) <|
    need .badField (Ty.ofCode m.ty) fun ty =>
    need .badField (Rnd.ofCode m.rnd) fun rnd =>
    let ftz := m.ftz
    need .badOperand (Opd.dec r.d) fun d =>
    need .badOperand (Opd.dec r.a) fun a =>
    need .badOperand (Opd.dec r.b) fun b =>
    finish (.fscl r.hdr ty rnd ftz d a b)
  | 0x0C0 =>
    let m := Xm.ofBits r.x
    check .badField (r.plain && !m.ov && m.sc == 0#3 && m.ty2 == 0#5 && m.per.extractLsb' 0 15 == 0#15) <|
    need .badField (Ty.ofCode m.ty) fun ty =>
    need .badField (Rnd.ofCode m.rnd) fun rnd =>
    let ftz := m.ftz
    need .badOperand (Opd.dec r.d) fun d =>
    need .badOperand (Opd.dec r.a) fun a =>
    need .badOperand (Opd.dec r.b) fun b =>
    finish (.fadd2 r.hdr ty rnd ftz d a b)
  | 0x0C1 =>
    let m := Xm.ofBits r.x
    check .badField (r.plain && !m.ov && m.sc == 0#3 && m.ty2 == 0#5 && m.per.extractLsb' 0 15 == 0#15) <|
    need .badField (Ty.ofCode m.ty) fun ty =>
    need .badField (Rnd.ofCode m.rnd) fun rnd =>
    let ftz := m.ftz
    need .badOperand (Opd.dec r.d) fun d =>
    need .badOperand (Opd.dec r.a) fun a =>
    need .badOperand (Opd.dec r.b) fun b =>
    finish (.fsub2 r.hdr ty rnd ftz d a b)
  | 0x0C2 =>
    let m := Xm.ofBits r.x
    check .badField (r.plain && !m.ov && m.sc == 0#3 && m.ty2 == 0#5 && m.per.extractLsb' 0 15 == 0#15) <|
    need .badField (Ty.ofCode m.ty) fun ty =>
    need .badField (Rnd.ofCode m.rnd) fun rnd =>
    let ftz := m.ftz
    need .badOperand (Opd.dec r.d) fun d =>
    need .badOperand (Opd.dec r.a) fun a =>
    need .badOperand (Opd.dec r.b) fun b =>
    finish (.fmul2 r.hdr ty rnd ftz d a b)
  | 0x0C3 =>
    let m := Xc.ofBits r.x
    check .badField (r.plain && !m.ov && m.sc == 0#3 && m.ty2 == 0#5 && !m.flag) <|
    need .badField (Ty.ofCode m.ty) fun ty =>
    need .badField (Rnd.ofCode m.rnd) fun rnd =>
    let ftz := m.ftz
    need .badOperand (Opd.dec r.d) fun d =>
    need .badOperand (Opd.dec r.a) fun a =>
    need .badOperand (Opd.dec r.b) fun b =>
    need .badOperand (Opd.dec m.c) fun c =>
    finish (.ffma2 r.hdr ty rnd ftz d a b c)
  | 0x0C4 =>
    let m := Xm.ofBits r.x
    check .badField (r.plain && m.rnd == 0#2 && !m.ov && m.sc == 0#3 && m.ty2 == 0#5 && m.per.extractLsb' 0 15 == 0#15) <|
    need .badField (Ty.ofCode m.ty) fun ty =>
    let ftz := m.ftz
    need .badOperand (Opd.dec r.d) fun d =>
    need .badOperand (Opd.dec r.a) fun a =>
    need .badOperand (Opd.dec r.b) fun b =>
    finish (.fmin2 r.hdr ty ftz d a b)
  | 0x0C5 =>
    let m := Xm.ofBits r.x
    check .badField (r.plain && m.rnd == 0#2 && !m.ov && m.sc == 0#3 && m.ty2 == 0#5 && m.per.extractLsb' 0 15 == 0#15) <|
    need .badField (Ty.ofCode m.ty) fun ty =>
    let ftz := m.ftz
    need .badOperand (Opd.dec r.d) fun d =>
    need .badOperand (Opd.dec r.a) fun a =>
    need .badOperand (Opd.dec r.b) fun b =>
    finish (.fmax2 r.hdr ty ftz d a b)
  | 0x0C6 =>
    let m := Xm.ofBits r.x
    check .badField (r.plain && m.rnd == 0#2 && !m.ov && m.sc == 0#3 && m.ty2 == 0#5 && m.per.extractLsb' 3 12 == 0#12) <|
    need .badField (Ty.ofCode m.ty) fun ty =>
    let ftz := m.ftz
    need .badField (Fcc.ofCode (m.per.extractLsb' 0 3)) fun cc =>
    need .badOperand (Opd.dec r.d) fun d =>
    need .badOperand (Opd.dec r.a) fun a =>
    need .badOperand (Opd.dec r.b) fun b =>
    finish (.fcmp2 r.hdr ty ftz cc d a b)
  | 0x0C7 =>
    let m := Xc.ofBits r.x
    check .badField (r.plain && !m.ov && m.sc == 0#3 && m.ty2 == 0#5 && !m.flag) <|
    need .badField (Ty.ofCode m.ty) fun ty =>
    need .badField (Rnd.ofCode m.rnd) fun rnd =>
    let ftz := m.ftz
    need .badOperand (Opd.dec r.d) fun d =>
    need .badOperand (Opd.dec r.a) fun a =>
    need .badOperand (Opd.dec r.b) fun b =>
    need .badOperand (Opd.dec m.c) fun c =>
    finish (.fdot2 r.hdr ty rnd ftz d a b c)
  | 0x0E0 =>
    let m := Xm.ofBits r.x
    check .badField (r.plain && r.b == 0#14 && m.sc == 0#3 && m.per.extractLsb' 1 14 == 0#14) <|
    need .badField (Ty.ofCode m.ty) fun ty =>
    need .badField (Ty.ofCode m.ty2) fun ty2 =>
    need .badField (Rnd.ofCode m.rnd) fun rnd =>
    let ftz := m.ftz
    let ovf := m.ov
    let rx := m.per.getLsbD 0
    check .badField ((if ty.isInt then rx || rnd == .rn else !rx)) <|
    need .badOperand (Opd.dec r.d) fun d =>
    need .badOperand (Opd.dec r.a) fun a =>
    finish (.cvt r.hdr ty ty2 rnd ftz ovf rx d a)
  | 0x0E1 =>
    let m := Xm.ofBits r.x
    check .badField (r.plain && m.sc == 0#3 && m.ty2 == 0#5 && m.per.extractLsb' 3 12 == 0#12) <|
    need .badField (Ty.ofCode m.ty) fun ty =>
    need .badField (Rnd.ofCode m.rnd) fun rnd =>
    let ftz := m.ftz
    let ovf := m.ov
    let pos := m.per.extractLsb' 0 3
    need .badOperand (Opd.dec r.d) fun d =>
    need .badOperand (Opd.dec r.a) fun a =>
    need .badOperand (Opd.dec r.b) fun b =>
    finish (.pack r.hdr ty rnd ftz ovf pos d a b)
  | 0x0E2 =>
    let m := Xm.ofBits r.x
    check .badField (r.plain && m.rnd == 0#2 && !m.ftz && !m.ov && m.sc == 0#3 && m.ty2 == 0#5 && m.per.extractLsb' 4 11 == 0#11) <|
    need .badField (Ty.ofCode m.ty) fun ty =>
    let pos := m.per.extractLsb' 0 3
    let scl := m.per.getLsbD 3
    check .badField ((scl || r.b == 0#14)) <|
    need .badOperand (Opd.dec r.d) fun d =>
    need .badOperand (Opd.dec r.a) fun a =>
    need .badOperand (Opd.dec r.b) fun b =>
    finish (.unpk r.hdr ty pos scl d a b)
  | 0x0F0 =>
    let m := Xm.ofBits r.x
    check .badField (r.plain && !m.ov && m.sc == 0#3 && m.ty2 == 0#5 && m.per.extractLsb' 0 15 == 0#15) <|
    need .badField (Ty.ofCode m.ty) fun ty =>
    need .badField (Rnd.ofCode m.rnd) fun rnd =>
    let ftz := m.ftz
    need .badOperand (Opd.dec r.d) fun d =>
    need .badOperand (Opd.dec r.a) fun a =>
    need .badOperand (Opd.dec r.b) fun b =>
    finish (.fdiv r.hdr ty rnd ftz d a b)
  | 0x0F1 =>
    let m := Xm.ofBits r.x
    check .badField (r.plain && r.b == 0#14 && !m.ov && m.sc == 0#3 && m.ty2 == 0#5 && m.per.extractLsb' 0 15 == 0#15) <|
    need .badField (Ty.ofCode m.ty) fun ty =>
    need .badField (Rnd.ofCode m.rnd) fun rnd =>
    let ftz := m.ftz
    need .badOperand (Opd.dec r.d) fun d =>
    need .badOperand (Opd.dec r.a) fun a =>
    finish (.fsqrt r.hdr ty rnd ftz d a)
  | 0x0F2 =>
    let m := Xm.ofBits r.x
    check .badField (r.plain && r.b == 0#14 && m.rnd == 0#2 && !m.ov && m.sc == 0#3 && m.ty2 == 0#5 && m.per.extractLsb' 0 15 == 0#15) <|
    need .badField (Ty.ofCode m.ty) fun ty =>
    let ftz := m.ftz
    need .badOperand (Opd.dec r.d) fun d =>
    need .badOperand (Opd.dec r.a) fun a =>
    finish (.rcp r.hdr ty ftz d a)
  | 0x0F3 =>
    let m := Xm.ofBits r.x
    check .badField (r.plain && r.b == 0#14 && m.rnd == 0#2 && !m.ov && m.sc == 0#3 && m.ty2 == 0#5 && m.per.extractLsb' 0 15 == 0#15) <|
    need .badField (Ty.ofCode m.ty) fun ty =>
    let ftz := m.ftz
    need .badOperand (Opd.dec r.d) fun d =>
    need .badOperand (Opd.dec r.a) fun a =>
    finish (.rsq r.hdr ty ftz d a)
  | 0x0F4 =>
    let m := Xm.ofBits r.x
    check .badField (r.plain && r.b == 0#14 && m.rnd == 0#2 && !m.ov && m.sc == 0#3 && m.ty2 == 0#5 && m.per.extractLsb' 0 15 == 0#15) <|
    need .badField (Ty.ofCode m.ty) fun ty =>
    let ftz := m.ftz
    need .badOperand (Opd.dec r.d) fun d =>
    need .badOperand (Opd.dec r.a) fun a =>
    finish (.ex2 r.hdr ty ftz d a)
  | 0x0F5 =>
    let m := Xm.ofBits r.x
    check .badField (r.plain && r.b == 0#14 && m.rnd == 0#2 && !m.ov && m.sc == 0#3 && m.ty2 == 0#5 && m.per.extractLsb' 0 15 == 0#15) <|
    need .badField (Ty.ofCode m.ty) fun ty =>
    let ftz := m.ftz
    need .badOperand (Opd.dec r.d) fun d =>
    need .badOperand (Opd.dec r.a) fun a =>
    finish (.lg2 r.hdr ty ftz d a)
  | 0x0F6 =>
    let m := Xm.ofBits r.x
    check .badField (r.plain && r.b == 0#14 && m.rnd == 0#2 && !m.ov && m.sc == 0#3 && m.ty2 == 0#5 && m.per.extractLsb' 0 15 == 0#15) <|
    need .badField (Ty.ofCode m.ty) fun ty =>
    let ftz := m.ftz
    need .badOperand (Opd.dec r.d) fun d =>
    need .badOperand (Opd.dec r.a) fun a =>
    finish (.sinpi r.hdr ty ftz d a)
  | 0x0F7 =>
    let m := Xm.ofBits r.x
    check .badField (r.plain && r.b == 0#14 && m.rnd == 0#2 && !m.ov && m.sc == 0#3 && m.ty2 == 0#5 && m.per.extractLsb' 0 15 == 0#15) <|
    need .badField (Ty.ofCode m.ty) fun ty =>
    let ftz := m.ftz
    need .badOperand (Opd.dec r.d) fun d =>
    need .badOperand (Opd.dec r.a) fun a =>
    finish (.cospi r.hdr ty ftz d a)
  | 0x0F8 =>
    let m := Xm.ofBits r.x
    check .badField (r.plain && r.b == 0#14 && m.rnd == 0#2 && !m.ov && m.sc == 0#3 && m.ty2 == 0#5 && m.per.extractLsb' 0 15 == 0#15) <|
    need .badField (Ty.ofCode m.ty) fun ty =>
    let ftz := m.ftz
    need .badOperand (Opd.dec r.d) fun d =>
    need .badOperand (Opd.dec r.a) fun a =>
    finish (.tanh r.hdr ty ftz d a)
  | _ => .error .unassignedOpcode

/-- The words whose code lies in 0x100..0x13F (R77); every code no entry names is refused (R78). -/
def decodeExchange (r : Raw) : Except DecErr Instr :=
  match r.op.toNat with
  | 0x100 =>
    let m := Xm.ofBits r.x
    check .badField (r.plain && m.rnd == 0#2 && !m.ftz && !m.ov && m.sc == 0#3 && m.ty2 == 0#5 && m.per.extractLsb' 5 10 == 0#10) <|
    need .badField (Ty.ofCode m.ty) fun ty =>
    need .badField (ShMode.ofCode (m.per.extractLsb' 0 2)) fun mode =>
    need .badField (ShSeg.ofCode (m.per.extractLsb' 2 3)) fun seg =>
    need .badOperand (Opd.dec r.d) fun d =>
    need .badOperand (Opd.dec r.a) fun a =>
    need .badOperand (Opd.dec r.b) fun b =>
    finish (.shfl r.hdr ty mode seg d a b)
  | 0x104 =>
    let m := Xm.ofBits r.x
    check .badField (r.plain && r.b == 0#14 && m.rnd == 0#2 && !m.ftz && !m.ov && m.ty == 0#5 && m.sc == 0#3 && m.ty2 == 0#5 && m.per.extractLsb' 2 13 == 0#13) <|
    need .badField (VoteMode.ofCode (m.per.extractLsb' 0 2)) fun vm =>
    need .badOperand (Opd.dec r.d) fun d =>
    need .badOperand (Opd.dec r.a) fun a =>
    finish (.vote r.hdr vm d a)
  | 0x108 =>
    let m := Xm.ofBits r.x
    check .badField (r.plain && r.b == 0#14 && m.sc == 0#3 && m.ty2 == 0#5 && m.per.extractLsb' 3 12 == 0#12) <|
    need .badField (Ty.ofCode m.ty) fun ty =>
    need .badField (Rnd.ofCode m.rnd) fun rnd =>
    let ftz := m.ftz
    let sat := m.ov
    need .badField (Red.ofCode (m.per.extractLsb' 0 3)) fun red =>
    need .badOperand (Opd.dec r.d) fun d =>
    need .badOperand (Opd.dec r.a) fun a =>
    finish (.lred r.hdr ty rnd ftz sat red d a)
  | 0x10C =>
    let m := Xm.ofBits r.x
    check .badField (r.plain && r.b == 0#14 && m.sc == 0#3 && m.ty2 == 0#5 && m.per.extractLsb' 4 11 == 0#11) <|
    need .badField (Ty.ofCode m.ty) fun ty =>
    need .badField (Rnd.ofCode m.rnd) fun rnd =>
    let ftz := m.ftz
    let sat := m.ov
    need .badField (Red.ofCode (m.per.extractLsb' 0 3)) fun red =>
    let exc := m.per.getLsbD 3
    need .badOperand (Opd.dec r.d) fun d =>
    need .badOperand (Opd.dec r.a) fun a =>
    finish (.scan r.hdr ty rnd ftz sat red exc d a)
  | _ => .error .unassignedOpcode

/-- The words whose code lies in 0x140..0x17F (R77); every code no entry names is refused (R78). -/
def decodeBand (r : Raw) : Except DecErr Instr :=
  match r.op.toNat with
  | 0x140 =>
    let m := Xm.ofBits r.x
    check .badField (r.plain && m.rnd == 0#2 && !m.ftz && m.sc == 0#3 && m.ty2 == 0#5 && m.per.extractLsb' 0 15 == 0#15) <|
    need .badField (Ty.ofCode m.ty) fun ty =>
    let sat := m.ov
    need .badOperand (Opd.dec r.d) fun d =>
    need .badOperand (Opd.dec r.a) fun a =>
    need .badOperand (Opd.dec r.b) fun b =>
    finish (.badd r.hdr ty sat d a b)
  | 0x141 =>
    check .badField (r.plain && r.b == 0#14) <|
    need .badOperand (Opd.dec r.d) fun d =>
    need .badOperand (Opd.dec r.a) fun a =>
    let imm := r.x
    finish (.baddLong r.hdr d a imm)
  | 0x142 =>
    let m := Xm.ofBits r.x
    check .badField (r.plain && m.rnd == 0#2 && !m.ftz && m.sc == 0#3 && m.ty2 == 0#5 && m.per.extractLsb' 0 15 == 0#15) <|
    need .badField (Ty.ofCode m.ty) fun ty =>
    let sat := m.ov
    need .badOperand (Opd.dec r.d) fun d =>
    need .badOperand (Opd.dec r.a) fun a =>
    need .badOperand (Opd.dec r.b) fun b =>
    finish (.bsub r.hdr ty sat d a b)
  | 0x143 =>
    let m := Xm.ofBits r.x
    check .badField (r.plain && m.rnd == 0#2 && !m.ftz && m.sc == 0#3 && m.ty2 == 0#5 && m.per.extractLsb' 0 15 == 0#15) <|
    need .badField (Ty.ofCode m.ty) fun ty =>
    let sat := m.ov
    need .badOperand (Opd.dec r.d) fun d =>
    need .badOperand (Opd.dec r.a) fun a =>
    need .badOperand (Opd.dec r.b) fun b =>
    finish (.bmul r.hdr ty sat d a b)
  | 0x144 =>
    let m := Xm.ofBits r.x
    check .badField (r.plain && m.rnd == 0#2 && !m.ftz && !m.ov && m.sc == 0#3 && m.ty2 == 0#5 && m.per.extractLsb' 0 15 == 0#15) <|
    need .badField (Ty.ofCode m.ty) fun ty =>
    need .badOperand (Opd.dec r.d) fun d =>
    need .badOperand (Opd.dec r.a) fun a =>
    need .badOperand (Opd.dec r.b) fun b =>
    finish (.band r.hdr ty d a b)
  | 0x145 =>
    let m := Xm.ofBits r.x
    check .badField (r.plain && m.rnd == 0#2 && !m.ftz && !m.ov && m.sc == 0#3 && m.ty2 == 0#5 && m.per.extractLsb' 0 15 == 0#15) <|
    need .badField (Ty.ofCode m.ty) fun ty =>
    need .badOperand (Opd.dec r.d) fun d =>
    need .badOperand (Opd.dec r.a) fun a =>
    need .badOperand (Opd.dec r.b) fun b =>
    finish (.bor r.hdr ty d a b)
  | 0x146 =>
    let m := Xm.ofBits r.x
    check .badField (r.plain && m.rnd == 0#2 && !m.ftz && !m.ov && m.sc == 0#3 && m.ty2 == 0#5 && m.per.extractLsb' 0 15 == 0#15) <|
    need .badField (Ty.ofCode m.ty) fun ty =>
    need .badOperand (Opd.dec r.d) fun d =>
    need .badOperand (Opd.dec r.a) fun a =>
    need .badOperand (Opd.dec r.b) fun b =>
    finish (.bxor r.hdr ty d a b)
  | 0x147 =>
    let m := Xm.ofBits r.x
    check .badField (r.plain && m.rnd == 0#2 && !m.ftz && !m.ov && m.sc == 0#3 && m.ty2 == 0#5 && m.per.extractLsb' 0 15 == 0#15) <|
    need .badField (Ty.ofCode m.ty) fun ty =>
    need .badOperand (Opd.dec r.d) fun d =>
    need .badOperand (Opd.dec r.a) fun a =>
    need .badOperand (Opd.dec r.b) fun b =>
    finish (.bshl r.hdr ty d a b)
  | 0x148 =>
    let m := Xm.ofBits r.x
    check .badField (r.plain && m.rnd == 0#2 && !m.ftz && !m.ov && m.sc == 0#3 && m.ty2 == 0#5 && m.per.extractLsb' 0 15 == 0#15) <|
    need .badField (Ty.ofCode m.ty) fun ty =>
    need .badOperand (Opd.dec r.d) fun d =>
    need .badOperand (Opd.dec r.a) fun a =>
    need .badOperand (Opd.dec r.b) fun b =>
    finish (.bshr r.hdr ty d a b)
  | 0x149 =>
    let m := Xm.ofBits r.x
    check .badField (r.plain && m.rnd == 0#2 && !m.ftz && !m.ov && m.sc == 0#3 && m.ty2 == 0#5 && m.per.extractLsb' 0 15 == 0#15) <|
    need .badField (Ty.ofCode m.ty) fun ty =>
    need .badOperand (Opd.dec r.d) fun d =>
    need .badOperand (Opd.dec r.a) fun a =>
    need .badOperand (Opd.dec r.b) fun b =>
    finish (.bsar r.hdr ty d a b)
  | 0x14A =>
    let m := Xm.ofBits r.x
    check .badField (r.plain && m.rnd == 0#2 && !m.ftz && !m.ov && m.sc == 0#3 && m.ty2 == 0#5 && m.per.extractLsb' 0 15 == 0#15) <|
    need .badField (Ty.ofCode m.ty) fun ty =>
    need .badOperand (Opd.dec r.d) fun d =>
    need .badOperand (Opd.dec r.a) fun a =>
    need .badOperand (Opd.dec r.b) fun b =>
    finish (.bmin r.hdr ty d a b)
  | 0x14B =>
    let m := Xm.ofBits r.x
    check .badField (r.plain && m.rnd == 0#2 && !m.ftz && !m.ov && m.sc == 0#3 && m.ty2 == 0#5 && m.per.extractLsb' 0 15 == 0#15) <|
    need .badField (Ty.ofCode m.ty) fun ty =>
    need .badOperand (Opd.dec r.d) fun d =>
    need .badOperand (Opd.dec r.a) fun a =>
    need .badOperand (Opd.dec r.b) fun b =>
    finish (.bmax r.hdr ty d a b)
  | 0x14C =>
    let m := Xm.ofBits r.x
    check .badField (r.plain && r.a == 0#14 && m.rnd == 0#2 && !m.ftz && !m.ov && m.sc == 0#3 && m.ty2 == 0#5 && m.per.extractLsb' 0 15 == 0#15) <|
    need .badField (Ty.ofCode m.ty) fun ty =>
    need .badOperand (Opd.dec r.d) fun d =>
    need .badOperand (Opd.dec r.b) fun b =>
    finish (.bmov r.hdr ty d b)
  | 0x14D =>
    check .badField (r.plain && r.a == 0#14 && r.b == 0#14) <|
    need .badOperand (Opd.dec r.d) fun d =>
    let imm := r.x
    finish (.bmovLong r.hdr d imm)
  | 0x14E =>
    let m := Xm.ofBits r.x
    check .badField (r.plain && m.rnd == 0#2 && !m.ftz && !m.ov && m.sc == 0#3 && m.ty2 == 0#5 && m.per.extractLsb' 3 12 == 0#12) <|
    need .badField (Ty.ofCode m.ty) fun ty =>
    need .badField (Cc.ofCode (m.per.extractLsb' 0 3)) fun cc =>
    need .badOperand (Opd.dec r.d) fun d =>
    need .badOperand (Opd.dec r.a) fun a =>
    need .badOperand (Opd.dec r.b) fun b =>
    finish (.bcmp r.hdr ty cc d a b)
  | 0x14F =>
    let m := Xc.ofBits r.x
    check .badField (r.plain && m.rnd == 0#2 && !m.ftz && !m.ov && m.sc == 0#3 && m.ty2 == 0#5 && !m.flag) <|
    need .badField (Ty.ofCode m.ty) fun ty =>
    need .badOperand (Opd.dec r.d) fun d =>
    need .badOperand (Opd.dec r.a) fun a =>
    need .badOperand (Opd.dec r.b) fun b =>
    need .badOperand (Opd.dec m.c) fun c =>
    finish (.bsel r.hdr ty d a b c)
  | 0x150 =>
    let m := Xm.ofBits r.x
    check .badField (r.plain && m.rnd == 0#2 && !m.ftz && !m.ov && m.ty == 0#5 && m.sc == 0#3 && m.ty2 == 0#5 && m.per.extractLsb' 2 13 == 0#13) <|
    need .badField (Opl.ofCode (m.per.extractLsb' 0 2)) fun op =>
    need .badOperand (Opd.dec r.d) fun d =>
    need .badOperand (Opd.dec r.a) fun a =>
    need .badOperand (Opd.dec r.b) fun b =>
    finish (.qlog r.hdr op d a b)
  | 0x151 =>
    let m := Xm.ofBits r.x
    check .badField (r.plain && r.b == 0#14 && m.rnd == 0#2 && !m.ftz && !m.ov && m.sc == 0#3 && m.ty2 == 0#5 && m.per.extractLsb' 0 15 == 0#15) <|
    need .badField (Ty.ofCode m.ty) fun ty =>
    need .badOperand (Opd.dec r.d) fun d =>
    need .badOperand (Opd.dec r.a) fun a =>
    finish (.bget r.hdr ty d a)
  | 0x152 =>
    let m := Xm.ofBits r.x
    check .badField (r.plain && r.b == 0#14 && m.rnd == 0#2 && !m.ftz && m.sc == 0#3 && m.ty2 == 0#5 && m.per.extractLsb' 3 12 == 0#12) <|
    need .badField (Ty.ofCode m.ty) fun ty =>
    let sat := m.ov
    need .badField (Red.ofCode (m.per.extractLsb' 0 3)) fun red =>
    need .badOperand (Opd.dec r.d) fun d =>
    need .badOperand (Opd.dec r.a) fun a =>
    finish (.bred r.hdr ty sat red d a)
  | 0x153 =>
    let m := Xm.ofBits r.x
    check .badField (r.plain && r.b == 0#14 && m.rnd == 0#2 && !m.ftz && !m.ov && m.ty == 0#5 && m.sc == 0#3 && m.ty2 == 0#5 && m.per.extractLsb' 1 14 == 0#14) <|
    let tr := m.per.getLsbD 0
    need .badOperand (Opd.dec r.d) fun d =>
    need .badOperand (Opd.dec r.a) fun a =>
    finish (.acq r.hdr tr d a)
  | 0x154 =>
    let m := Xm.ofBits r.x
    check .badField (r.plain && r.d == 0#14 && r.b == 0#14 && m.rnd == 0#2 && !m.ftz && !m.ov && m.ty == 0#5 && m.sc == 0#3 && m.ty2 == 0#5 && m.per.extractLsb' 0 15 == 0#15) <|
    need .badOperand (Opd.dec r.a) fun a =>
    finish (.rel r.hdr a)
  | _ => .error .unassignedOpcode

/-- The words whose code lies in 0x180..0x1BF (R77); every code no entry names is refused (R78). -/
def decodeFlow (r : Raw) : Except DecErr Instr :=
  match r.op.toNat with
  | 0x180 =>
    check .badField (r.plain && r.d == 0#14 && r.a == 0#14 && r.b == 0#14) <|
    let off := r.x
    finish (.bra r.hdr off)
  | 0x181 =>
    check .badField (r.plain && r.d == 0#14 && r.a == 0#14 && r.b == 0#14) <|
    let off := r.x
    finish (.braq r.hdr off)
  | 0x182 =>
    let m := Xm.ofBits r.x
    check .badField (r.plain && r.d == 0#14 && r.b == 0#14 && m.rnd == 0#2 && !m.ftz && !m.ov && m.ty == 0#5 && m.sc == 0#3 && m.ty2 == 0#5 && m.per.extractLsb' 0 15 == 0#15) <|
    need .badOperand (Opd.dec r.a) fun a =>
    finish (.jmpi r.hdr a)
  | 0x183 =>
    check .badField (r.plain && r.a == 0#14 && r.b == 0#14) <|
    need .badOperand (Opd.dec r.d) fun d =>
    let off := r.x
    finish (.call r.hdr d off)
  | 0x184 =>
    let m := Xm.ofBits r.x
    check .badField (r.plain && r.a == 0#14 && r.b == 0#14 && m.rnd == 0#2 && !m.ftz && !m.ov && m.ty == 0#5 && m.sc == 0#3 && m.ty2 == 0#5 && m.per.extractLsb' 12 3 == 0#3) <|
    let slot := m.per.extractLsb' 0 12
    need .badOperand (Opd.dec r.d) fun d =>
    finish (.callx r.hdr slot d)
  | 0x185 =>
    let m := Xm.ofBits r.x
    check .badField (r.plain && r.d == 0#14 && r.b == 0#14 && m.rnd == 0#2 && !m.ftz && !m.ov && m.ty == 0#5 && m.sc == 0#3 && m.ty2 == 0#5 && m.per.extractLsb' 0 15 == 0#15) <|
    need .badOperand (Opd.dec r.a) fun a =>
    finish (.ret r.hdr a)
  | 0x186 =>
    let m := Xm.ofBits r.x
    check .badField (r.plain && r.d == 0#14 && r.b == 0#14 && m.rnd == 0#2 && !m.ftz && !m.ov && m.ty == 0#5 && m.sc == 0#3 && m.ty2 == 0#5 && m.per.extractLsb' 0 15 == 0#15) <|
    need .badOperand (Opd.dec r.a) fun a =>
    finish (.join r.hdr a)
  | 0x187 =>
    let m := Xm.ofBits r.x
    check .badField (r.plain && r.d == 0#14 && r.a == 0#14 && r.b == 0#14 && m.rnd == 0#2 && !m.ftz && !m.ov && m.ty == 0#5 && m.sc == 0#3 && m.ty2 == 0#5 && m.per.extractLsb' 0 15 == 0#15) <|
    finish (.exit r.hdr)
  | 0x188 =>
    let m := Xm.ofBits r.x
    check .badField (r.plain && r.d == 0#14 && r.b == 0#14 && m.rnd == 0#2 && !m.ftz && !m.ov && m.ty == 0#5 && m.sc == 0#3 && m.ty2 == 0#5 && m.per.extractLsb' 0 15 == 0#15) <|
    need .badOperand (Opd.dec r.a) fun a =>
    finish (.nap r.hdr a)
  | 0x189 =>
    let m := Xm.ofBits r.x
    check .badField (r.plain && r.d == 0#14 && r.a == 0#14 && r.b == 0#14 && m.rnd == 0#2 && !m.ftz && !m.ov && m.ty == 0#5 && m.sc == 0#3 && m.ty2 == 0#5) <|
    let code := m.per.extractLsb' 0 15
    finish (.brk r.hdr code)
  | 0x18A =>
    let m := Xm.ofBits r.x
    check .badField (r.plain && r.a == 0#14 && r.b == 0#14 && m.rnd == 0#2 && !m.ftz && !m.ov && m.ty == 0#5 && m.sc == 0#3 && m.ty2 == 0#5) <|
    let code := m.per.extractLsb' 0 15
    need .badOperand (Opd.dec r.d) fun d =>
    finish (.trapi r.hdr code d)
  | _ => .error .unassignedOpcode

/-- The words whose code lies in 0x1C0..0x23F (R77); every code no entry names is refused (R78). -/
def decodeMemory (r : Raw) : Except DecErr Instr :=
  match r.op.toNat with
  | 0x1C0 =>
    let m := Xm.ofBits r.x
    check .badField (r.plain && m.rnd == 0#2 && !m.ftz && !m.ov && m.ty2 == 0#5) <|
    need .badField (Ty.ofCode m.ty) fun ty =>
    need .badField (Scope.ofCode m.sc) fun sc =>
    need .badField (Ord.ofCode (m.per.extractLsb' 0 2)) fun ord =>
    let lk := m.per.getLsbD 2
    let slot := m.per.extractLsb' 3 12
    check .badField (((ord != .none || sc == .bd) && (if lk then r.a == 0#14 else slot == 0))) <|
    need .badOperand (Opd.dec r.d) fun d =>
    need .badOperand (Opd.dec r.a) fun a =>
    need .badOperand (Opd.dec r.b) fun b =>
    finish (.ld r.hdr ty sc ord lk slot d a b)
  | 0x1C1 =>
    check .badField (r.plain && r.b == 0#14) <|
    need .badOperand (Opd.dec r.d) fun d =>
    need .badOperand (Opd.dec r.a) fun a =>
    let imm := r.x
    finish (.ldLong r.hdr d a imm)
  | 0x1C2 =>
    let m := Xm.ofBits r.x
    check .badField (r.plain && m.rnd == 0#2 && !m.ftz && !m.ov && m.ty2 == 0#5) <|
    need .badField (Ty.ofCode m.ty) fun ty =>
    need .badField (Scope.ofCode m.sc) fun sc =>
    need .badField (Ord.ofCode (m.per.extractLsb' 0 2)) fun ord =>
    let lk := m.per.getLsbD 2
    let slot := m.per.extractLsb' 3 12
    check .badField (((ord != .none || sc == .bd) && (if lk then r.a == 0#14 else slot == 0))) <|
    need .badOperand (Opd.dec r.d) fun d =>
    need .badOperand (Opd.dec r.a) fun a =>
    need .badOperand (Opd.dec r.b) fun b =>
    finish (.st r.hdr ty sc ord lk slot d a b)
  | 0x1C3 =>
    check .badField (r.plain && r.b == 0#14) <|
    need .badOperand (Opd.dec r.d) fun d =>
    need .badOperand (Opd.dec r.a) fun a =>
    let imm := r.x
    finish (.stLong r.hdr d a imm)
  | 0x1D0 =>
    let m := Xm.ofBits r.x
    check .badField (r.plain && m.rnd == 0#2 && !m.ftz && !m.ov && m.ty2 == 0#5 && m.per.extractLsb' 2 13 == 0#13) <|
    need .badField (Ty.ofCode m.ty) fun ty =>
    need .badField (Scope.ofCode m.sc) fun sc =>
    need .badField (Ord.ofCode (m.per.extractLsb' 0 2)) fun ord =>
    check .badField ((ord != .none || sc == .bd)) <|
    need .badOperand (Opd.dec r.d) fun d =>
    need .badOperand (Opd.dec r.a) fun a =>
    need .badOperand (Opd.dec r.b) fun b =>
    finish (.aadd r.hdr ty sc ord d a b)
  | 0x1D1 =>
    let m := Xm.ofBits r.x
    check .badField (r.plain && m.rnd == 0#2 && !m.ftz && !m.ov && m.ty2 == 0#5 && m.per.extractLsb' 2 13 == 0#13) <|
    need .badField (Ty.ofCode m.ty) fun ty =>
    need .badField (Scope.ofCode m.sc) fun sc =>
    need .badField (Ord.ofCode (m.per.extractLsb' 0 2)) fun ord =>
    check .badField ((ord != .none || sc == .bd)) <|
    need .badOperand (Opd.dec r.d) fun d =>
    need .badOperand (Opd.dec r.a) fun a =>
    need .badOperand (Opd.dec r.b) fun b =>
    finish (.amin r.hdr ty sc ord d a b)
  | 0x1D2 =>
    let m := Xm.ofBits r.x
    check .badField (r.plain && m.rnd == 0#2 && !m.ftz && !m.ov && m.ty2 == 0#5 && m.per.extractLsb' 2 13 == 0#13) <|
    need .badField (Ty.ofCode m.ty) fun ty =>
    need .badField (Scope.ofCode m.sc) fun sc =>
    need .badField (Ord.ofCode (m.per.extractLsb' 0 2)) fun ord =>
    check .badField ((ord != .none || sc == .bd)) <|
    need .badOperand (Opd.dec r.d) fun d =>
    need .badOperand (Opd.dec r.a) fun a =>
    need .badOperand (Opd.dec r.b) fun b =>
    finish (.amax r.hdr ty sc ord d a b)
  | 0x1D3 =>
    let m := Xm.ofBits r.x
    check .badField (r.plain && m.rnd == 0#2 && !m.ftz && !m.ov && m.ty2 == 0#5 && m.per.extractLsb' 2 13 == 0#13) <|
    need .badField (Ty.ofCode m.ty) fun ty =>
    need .badField (Scope.ofCode m.sc) fun sc =>
    need .badField (Ord.ofCode (m.per.extractLsb' 0 2)) fun ord =>
    check .badField ((ord != .none || sc == .bd)) <|
    need .badOperand (Opd.dec r.d) fun d =>
    need .badOperand (Opd.dec r.a) fun a =>
    need .badOperand (Opd.dec r.b) fun b =>
    finish (.aand r.hdr ty sc ord d a b)
  | 0x1D4 =>
    let m := Xm.ofBits r.x
    check .badField (r.plain && m.rnd == 0#2 && !m.ftz && !m.ov && m.ty2 == 0#5 && m.per.extractLsb' 2 13 == 0#13) <|
    need .badField (Ty.ofCode m.ty) fun ty =>
    need .badField (Scope.ofCode m.sc) fun sc =>
    need .badField (Ord.ofCode (m.per.extractLsb' 0 2)) fun ord =>
    check .badField ((ord != .none || sc == .bd)) <|
    need .badOperand (Opd.dec r.d) fun d =>
    need .badOperand (Opd.dec r.a) fun a =>
    need .badOperand (Opd.dec r.b) fun b =>
    finish (.aor r.hdr ty sc ord d a b)
  | 0x1D5 =>
    let m := Xm.ofBits r.x
    check .badField (r.plain && m.rnd == 0#2 && !m.ftz && !m.ov && m.ty2 == 0#5 && m.per.extractLsb' 2 13 == 0#13) <|
    need .badField (Ty.ofCode m.ty) fun ty =>
    need .badField (Scope.ofCode m.sc) fun sc =>
    need .badField (Ord.ofCode (m.per.extractLsb' 0 2)) fun ord =>
    check .badField ((ord != .none || sc == .bd)) <|
    need .badOperand (Opd.dec r.d) fun d =>
    need .badOperand (Opd.dec r.a) fun a =>
    need .badOperand (Opd.dec r.b) fun b =>
    finish (.axor r.hdr ty sc ord d a b)
  | 0x1D6 =>
    let m := Xm.ofBits r.x
    check .badField (r.plain && m.rnd == 0#2 && !m.ftz && !m.ov && m.ty2 == 0#5 && m.per.extractLsb' 2 13 == 0#13) <|
    need .badField (Ty.ofCode m.ty) fun ty =>
    need .badField (Scope.ofCode m.sc) fun sc =>
    need .badField (Ord.ofCode (m.per.extractLsb' 0 2)) fun ord =>
    check .badField ((ord != .none || sc == .bd)) <|
    need .badOperand (Opd.dec r.d) fun d =>
    need .badOperand (Opd.dec r.a) fun a =>
    need .badOperand (Opd.dec r.b) fun b =>
    finish (.axch r.hdr ty sc ord d a b)
  | 0x1D7 =>
    let m := Xc.ofBits r.x
    check .badField (r.plain && m.rnd == 0#2 && !m.ftz && !m.ov && m.ty2 == 0#5) <|
    need .badField (Ty.ofCode m.ty) fun ty =>
    need .badField (Scope.ofCode m.sc) fun sc =>
    let ar := m.flag
    check .badField ((ar || sc == .bd)) <|
    need .badOperand (Opd.dec r.d) fun d =>
    need .badOperand (Opd.dec r.a) fun a =>
    need .badOperand (Opd.dec r.b) fun b =>
    need .badOperand (Opd.dec m.c) fun c =>
    finish (.acas r.hdr ty sc ar d a b c)
  | 0x1D8 =>
    let m := Xm.ofBits r.x
    check .badField (r.plain && m.rnd == 0#2 && !m.ftz && !m.ov && m.ty2 == 0#5 && m.per.extractLsb' 2 13 == 0#13) <|
    need .badField (Ty.ofCode m.ty) fun ty =>
    need .badField (Scope.ofCode m.sc) fun sc =>
    need .badField (Ord.ofCode (m.per.extractLsb' 0 2)) fun ord =>
    check .badField ((ord != .none || sc == .bd)) <|
    need .badOperand (Opd.dec r.d) fun d =>
    need .badOperand (Opd.dec r.a) fun a =>
    need .badOperand (Opd.dec r.b) fun b =>
    finish (.afadd r.hdr ty sc ord d a b)
  | 0x200 =>
    let m := Xm.ofBits r.x
    check .badField (r.plain && m.rnd == 0#2 && !m.ftz && !m.ov && m.ty2 == 0#5 && m.per.extractLsb' 2 13 == 0#13) <|
    need .badField (Ty.ofCode m.ty) fun ty =>
    need .badField (Scope.ofCode m.sc) fun sc =>
    need .badField (Ord.ofCode (m.per.extractLsb' 0 2)) fun ord =>
    check .badField ((ord != .none || sc == .bd)) <|
    need .badOperand (Opd.dec r.d) fun d =>
    need .badOperand (Opd.dec r.a) fun a =>
    need .badOperand (Opd.dec r.b) fun b =>
    finish (.ldsp r.hdr ty sc ord d a b)
  | 0x201 =>
    check .badField (r.plain && r.b == 0#14) <|
    need .badOperand (Opd.dec r.d) fun d =>
    need .badOperand (Opd.dec r.a) fun a =>
    let imm := r.x
    finish (.ldspLong r.hdr d a imm)
  | 0x202 =>
    let m := Xm.ofBits r.x
    check .badField (r.plain && m.rnd == 0#2 && !m.ftz && !m.ov && m.ty2 == 0#5 && m.per.extractLsb' 2 13 == 0#13) <|
    need .badField (Ty.ofCode m.ty) fun ty =>
    need .badField (Scope.ofCode m.sc) fun sc =>
    need .badField (Ord.ofCode (m.per.extractLsb' 0 2)) fun ord =>
    check .badField ((ord != .none || sc == .bd)) <|
    need .badOperand (Opd.dec r.d) fun d =>
    need .badOperand (Opd.dec r.a) fun a =>
    need .badOperand (Opd.dec r.b) fun b =>
    finish (.stsp r.hdr ty sc ord d a b)
  | 0x203 =>
    check .badField (r.plain && r.b == 0#14) <|
    need .badOperand (Opd.dec r.d) fun d =>
    need .badOperand (Opd.dec r.a) fun a =>
    let imm := r.x
    finish (.stspLong r.hdr d a imm)
  | 0x204 =>
    let m := Xm.ofBits r.x
    check .badField (r.plain && m.rnd == 0#2 && !m.ftz && !m.ov && m.ty2 == 0#5 && m.per.extractLsb' 2 13 == 0#13) <|
    need .badField (Ty.ofCode m.ty) fun ty =>
    need .badField (Scope.ofCode m.sc) fun sc =>
    need .badField (Ord.ofCode (m.per.extractLsb' 0 2)) fun ord =>
    check .badField ((ord != .none || sc == .bd)) <|
    need .badOperand (Opd.dec r.d) fun d =>
    need .badOperand (Opd.dec r.a) fun a =>
    need .badOperand (Opd.dec r.b) fun b =>
    finish (.ldsg r.hdr ty sc ord d a b)
  | 0x205 =>
    let m := Xm.ofBits r.x
    check .badField (r.plain && m.rnd == 0#2 && !m.ftz && !m.ov && m.ty2 == 0#5 && m.per.extractLsb' 2 13 == 0#13) <|
    need .badField (Ty.ofCode m.ty) fun ty =>
    need .badField (Scope.ofCode m.sc) fun sc =>
    need .badField (Ord.ofCode (m.per.extractLsb' 0 2)) fun ord =>
    check .badField ((ord != .none || sc == .bd)) <|
    need .badOperand (Opd.dec r.d) fun d =>
    need .badOperand (Opd.dec r.a) fun a =>
    need .badOperand (Opd.dec r.b) fun b =>
    finish (.stsg r.hdr ty sc ord d a b)
  | 0x210 =>
    let m := Xm.ofBits r.x
    check .badField (r.plain && m.rnd == 0#2 && !m.ftz && !m.ov && m.sc == 0#3 && m.ty2 == 0#5 && m.per.extractLsb' 1 14 == 0#14) <|
    need .badField (Ty.ofCode m.ty) fun ty =>
    let cpx := m.per.getLsbD 0
    need .badOperand (Opd.dec r.d) fun d =>
    need .badOperand (Opd.dec r.a) fun a =>
    need .badOperand (Opd.dec r.b) fun b =>
    finish (.symst r.hdr ty cpx d a b)
  | 0x218 =>
    let m := Xm.ofBits r.x
    check .badField (r.plain && r.b == 0#14 && m.rnd == 0#2 && !m.ftz && !m.ov && m.ty == 0#5 && m.sc == 0#3 && m.ty2 == 0#5 && m.per.extractLsb' 4 11 == 0#11) <|
    let cnt := m.per.extractLsb' 0 4
    need .badOperand (Opd.dec r.d) fun d =>
    need .badOperand (Opd.dec r.a) fun a =>
    finish (.push r.hdr cnt d a)
  | 0x219 =>
    let m := Xm.ofBits r.x
    check .badField (r.plain && r.b == 0#14 && m.rnd == 0#2 && !m.ftz && !m.ov && m.ty == 0#5 && m.sc == 0#3 && m.ty2 == 0#5 && m.per.extractLsb' 4 11 == 0#11) <|
    let cnt := m.per.extractLsb' 0 4
    need .badOperand (Opd.dec r.d) fun d =>
    need .badOperand (Opd.dec r.a) fun a =>
    finish (.pop r.hdr cnt d a)
  | 0x220 =>
    let m := Xm.ofBits r.x
    check .badField (r.plain && r.d == 0#14 && m.rnd == 0#2 && !m.ftz && !m.ov && m.ty == 0#5 && m.sc == 0#3 && m.ty2 == 0#5 && m.per.extractLsb' 1 14 == 0#14) <|
    let tr := m.per.getLsbD 0
    need .badOperand (Opd.dec r.a) fun a =>
    need .badOperand (Opd.dec r.b) fun b =>
    finish (.pfet r.hdr tr a b)
  | 0x228 =>
    let m := Xm.ofBits r.x
    check .badField (r.plain && r.d == 0#14 && r.a == 0#14 && r.b == 0#14 && m.rnd == 0#2 && !m.ftz && !m.ov && m.ty == 0#5 && m.ty2 == 0#5 && m.per.extractLsb' 2 13 == 0#13) <|
    need .badField (Scope.ofCode m.sc) fun sc =>
    need .badField (FenceKind.ofCode (m.per.extractLsb' 0 2)) fun fk =>
    finish (.fence r.hdr sc fk)
  | _ => .error .unassignedOpcode

/-- The words whose code lies in 0x240..0x2BF (R77); every code no entry names is refused (R78). -/
def decodeEngine (r : Raw) : Except DecErr Instr :=
  match r.op.toNat with
  | 0x240 =>
    let m := Xm.ofBits r.x
    check .badField (r.plain && r.b == 0#14 && m.rnd == 0#2 && !m.ftz && !m.ov && m.ty == 0#5 && m.sc == 0#3 && m.ty2 == 0#5 && m.per.extractLsb' 2 13 == 0#13) <|
    need .badField (CopySz.ofCode (m.per.extractLsb' 0 2)) fun sz =>
    need .badOperand (Opd.dec r.d) fun d =>
    need .badOperand (Opd.dec r.a) fun a =>
    finish (.copyl r.hdr sz d a)
  | 0x241 =>
    let m := Xm.ofBits r.x
    check .badField (r.plain && r.d == 0#14 && r.b == 0#14 && m.rnd == 0#2 && !m.ftz && !m.ov && m.ty == 0#5 && m.sc == 0#3 && m.ty2 == 0#5 && m.per.extractLsb' 0 15 == 0#15) <|
    need .badOperand (Opd.dec r.a) fun a =>
    finish (.copyt r.hdr a)
  | 0x242 =>
    let m := Xm.ofBits r.x
    check .badField (r.plain && r.d == 0#14 && r.b == 0#14 && m.rnd == 0#2 && !m.ftz && !m.ov && m.ty == 0#5 && m.sc == 0#3 && m.ty2 == 0#5 && m.per.extractLsb' 0 15 == 0#15) <|
    need .badOperand (Opd.dec r.a) fun a =>
    finish (.copyg r.hdr a)
  | 0x280 =>
    let m := Xc.ofBits r.x
    check .badField (r.plain && m.rnd == 0#2 && !m.ftz && !m.ov && m.sc == 0#3) <|
    need .badField (Ty.ofCode m.ty) fun ty =>
    need .badField (Ty.ofCode m.ty2) fun ty2 =>
    let scl := m.flag
    check .badField ((scl || m.c == 0#14)) <|
    need .badOperand (Opd.dec r.d) fun d =>
    need .badOperand (Opd.dec r.a) fun a =>
    need .badOperand (Opd.dec r.b) fun b =>
    need .badOperand (Opd.dec m.c) fun c =>
    finish (.mma r.hdr ty ty2 scl d a b c)
  | 0x281 =>
    let m := Xm.ofBits r.x
    check .badField (r.plain && r.b == 0#14 && m.rnd == 0#2 && !m.ftz && !m.ov && m.ty == 0#5 && m.sc == 0#3 && m.ty2 == 0#5 && m.per.extractLsb' 0 15 == 0#15) <|
    need .badOperand (Opd.dec r.d) fun d =>
    need .badOperand (Opd.dec r.a) fun a =>
    finish (.mchb r.hdr d a)
  | 0x282 =>
    let m := Xm.ofBits r.x
    check .badField (r.plain && r.a == 0#14 && r.b == 0#14 && m.rnd == 0#2 && !m.ftz && !m.ov && m.ty == 0#5 && m.sc == 0#3 && m.ty2 == 0#5 && m.per.extractLsb' 0 15 == 0#15) <|
    need .badOperand (Opd.dec r.d) fun d =>
    finish (.mche r.hdr d)
  | 0x283 =>
    let m := Xm.ofBits r.x
    check .badField (r.plain && r.a == 0#14 && r.b == 0#14 && m.rnd == 0#2 && !m.ftz && !m.ov && m.ty == 0#5 && m.sc == 0#3 && m.ty2 == 0#5 && m.per.extractLsb' 0 15 == 0#15) <|
    need .badOperand (Opd.dec r.d) fun d =>
    finish (.accz r.hdr d)
  | 0x284 =>
    let m := Xm.ofBits r.x
    check .badField (r.plain && r.b == 0#14 && m.rnd == 0#2 && !m.ftz && !m.ov && m.ty == 0#5 && m.sc == 0#3 && m.ty2 == 0#5 && m.per.extractLsb' 0 15 == 0#15) <|
    need .badOperand (Opd.dec r.d) fun d =>
    need .badOperand (Opd.dec r.a) fun a =>
    finish (.accsc r.hdr d a)
  | 0x285 =>
    let m := Xc.ofBits r.x
    check .badField (r.plain && r.d == 0#14 && m.rnd == 0#2 && !m.ftz && !m.ov && m.sc == 0#3 && m.ty2 == 0#5) <|
    need .badField (Ty.ofCode m.ty) fun ty =>
    let scl := m.flag
    check .badField ((scl || m.c == 0#14)) <|
    need .badOperand (Opd.dec r.a) fun a =>
    need .badOperand (Opd.dec r.b) fun b =>
    need .badOperand (Opd.dec m.c) fun c =>
    finish (.acccvt r.hdr ty scl a b c)
  | 0x286 =>
    let m := Xm.ofBits r.x
    check .badField (r.plain && m.rnd == 0#2 && !m.ftz && !m.ov && m.ty == 0#5 && m.sc == 0#3 && m.ty2 == 0#5 && m.per.extractLsb' 0 15 == 0#15) <|
    need .badOperand (Opd.dec r.d) fun d =>
    need .badOperand (Opd.dec r.a) fun a =>
    need .badOperand (Opd.dec r.b) fun b =>
    finish (.lda r.hdr d a b)
  | 0x287 =>
    let m := Xm.ofBits r.x
    check .badField (r.plain && m.rnd == 0#2 && !m.ftz && !m.ov && m.ty == 0#5 && m.sc == 0#3 && m.ty2 == 0#5 && m.per.extractLsb' 0 15 == 0#15) <|
    need .badOperand (Opd.dec r.d) fun d =>
    need .badOperand (Opd.dec r.a) fun a =>
    need .badOperand (Opd.dec r.b) fun b =>
    finish (.sta r.hdr d a b)
  | 0x288 =>
    let m := Xm.ofBits r.x
    check .badField (r.plain && m.rnd == 0#2 && !m.ftz && !m.ov && m.ty == 0#5 && m.sc == 0#3 && m.ty2 == 0#5 && m.per.extractLsb' 0 15 == 0#15) <|
    need .badOperand (Opd.dec r.d) fun d =>
    need .badOperand (Opd.dec r.a) fun a =>
    need .badOperand (Opd.dec r.b) fun b =>
    finish (.guide r.hdr d a b)
  | 0x289 =>
    let m := Xm.ofBits r.x
    check .badField (r.plain && r.d == 0#14 && r.a == 0#14 && r.b == 0#14 && m.rnd == 0#2 && !m.ftz && !m.ov && m.ty == 0#5 && m.sc == 0#3 && m.ty2 == 0#5 && m.per.extractLsb' 1 14 == 0#14) <|
    let rj := m.per.getLsbD 0
    finish (.pairx r.hdr rj)
  | _ => .error .unassignedOpcode

/-- The words whose code lies in 0x2C0..0x2FF (R77); every code no entry names is refused (R78). -/
def decodeQueue (r : Raw) : Except DecErr Instr :=
  match r.op.toNat with
  | 0x2C0 =>
    let m := Xm.ofBits r.x
    check .badField (r.plain && m.rnd == 0#2 && !m.ftz && !m.ov && m.ty == 0#5 && m.sc == 0#3 && m.ty2 == 0#5 && m.per.extractLsb' 1 14 == 0#14) <|
    let tr := m.per.getLsbD 0
    need .badOperand (Opd.dec r.d) fun d =>
    need .badOperand (Opd.dec r.a) fun a =>
    need .badOperand (Opd.dec r.b) fun b =>
    finish (.mbxtake r.hdr tr d a b)
  | 0x2C1 =>
    let m := Xm.ofBits r.x
    check .badField (r.plain && m.rnd == 0#2 && !m.ftz && !m.ov && m.ty == 0#5 && m.sc == 0#3 && m.ty2 == 0#5 && m.per.extractLsb' 1 14 == 0#14) <|
    let tr := m.per.getLsbD 0
    need .badOperand (Opd.dec r.d) fun d =>
    need .badOperand (Opd.dec r.a) fun a =>
    need .badOperand (Opd.dec r.b) fun b =>
    finish (.mbxpost r.hdr tr d a b)
  | 0x2C2 =>
    let m := Xm.ofBits r.x
    check .badField (r.plain && m.rnd == 0#2 && !m.ftz && !m.ov && m.ty == 0#5 && m.sc == 0#3 && m.ty2 == 0#5 && m.per.extractLsb' 0 15 == 0#15) <|
    need .badOperand (Opd.dec r.d) fun d =>
    need .badOperand (Opd.dec r.a) fun a =>
    need .badOperand (Opd.dec r.b) fun b =>
    finish (.mbxdone r.hdr d a b)
  | 0x2C8 =>
    let m := Xm.ofBits r.x
    check .badField (r.plain && r.b == 0#14 && m.rnd == 0#2 && !m.ftz && !m.ov && m.ty == 0#5 && m.sc == 0#3 && m.ty2 == 0#5 && m.per.extractLsb' 8 7 == 0#7) <|
    let gr := m.per.extractLsb' 0 8
    need .badOperand (Opd.dec r.d) fun d =>
    need .badOperand (Opd.dec r.a) fun a =>
    finish (.recEmit r.hdr gr d a)
  | 0x2C9 =>
    let m := Xm.ofBits r.x
    check .badField (r.plain && r.b == 0#14 && m.rnd == 0#2 && !m.ftz && !m.ov && m.ty == 0#5 && m.sc == 0#3 && m.ty2 == 0#5 && m.per.extractLsb' 0 15 == 0#15) <|
    need .badOperand (Opd.dec r.d) fun d =>
    need .badOperand (Opd.dec r.a) fun a =>
    finish (.recget r.hdr d a)
  | 0x2D0 =>
    let m := Xm.ofBits r.x
    check .badField (r.plain && m.rnd == 0#2 && !m.ftz && !m.ov && m.ty == 0#5 && m.sc == 0#3 && m.ty2 == 0#5 && m.per.extractLsb' 0 15 == 0#15) <|
    need .badOperand (Opd.dec r.d) fun d =>
    need .badOperand (Opd.dec r.a) fun a =>
    need .badOperand (Opd.dec r.b) fun b =>
    finish (.fork r.hdr d a b)
  | 0x2D1 =>
    let m := Xm.ofBits r.x
    check .badField (r.plain && r.d == 0#14 && r.a == 0#14 && r.b == 0#14 && m.rnd == 0#2 && !m.ftz && !m.ov && m.ty == 0#5 && m.sc == 0#3 && m.ty2 == 0#5 && m.per.extractLsb' 0 15 == 0#15) <|
    finish (.phase r.hdr)
  | 0x2D8 =>
    match ((Xm.ofBits r.x).per.extractLsb' 0 2).toNat with
    | 0 =>
      let m := Xm.ofBits r.x
      check .badField (r.plain && r.b == 0#14 && m.rnd == 0#2 && !m.ftz && !m.ov && m.ty == 0#5 && m.sc == 0#3 && m.ty2 == 0#5 && m.per.extractLsb' 2 13 == 0#13) <|
      need .badOperand (Opd.dec r.d) fun d =>
      need .badOperand (Opd.dec r.a) fun a =>
      finish (.roleqRes r.hdr d a)
    | 1 =>
      let m := Xm.ofBits r.x
      check .badField (r.plain && r.d == 0#14 && m.rnd == 0#2 && !m.ftz && !m.ov && m.ty == 0#5 && m.sc == 0#3 && m.ty2 == 0#5 && m.per.extractLsb' 2 13 == 0#13) <|
      need .badOperand (Opd.dec r.a) fun a =>
      need .badOperand (Opd.dec r.b) fun b =>
      finish (.roleqPub r.hdr a b)
    | 2 =>
      let m := Xm.ofBits r.x
      check .badField (r.plain && r.b == 0#14 && m.rnd == 0#2 && !m.ftz && !m.ov && m.ty == 0#5 && m.sc == 0#3 && m.ty2 == 0#5 && m.per.extractLsb' 2 13 == 0#13) <|
      need .badOperand (Opd.dec r.d) fun d =>
      need .badOperand (Opd.dec r.a) fun a =>
      finish (.roleqTake r.hdr d a)
    | _ =>
      let m := Xm.ofBits r.x
      check .badField (r.plain && r.d == 0#14 && m.rnd == 0#2 && !m.ftz && !m.ov && m.ty == 0#5 && m.sc == 0#3 && m.ty2 == 0#5 && m.per.extractLsb' 2 13 == 0#13) <|
      need .badOperand (Opd.dec r.a) fun a =>
      need .badOperand (Opd.dec r.b) fun b =>
      finish (.roleqFree r.hdr a b)
  | 0x2E0 =>
    let m := Xm.ofBits r.x
    check .badField (r.plain && r.d == 0#14 && r.b == 0#14 && m.rnd == 0#2 && !m.ftz && !m.ov && m.ty == 0#5 && m.sc == 0#3 && m.ty2 == 0#5 && m.per.extractLsb' 0 15 == 0#15) <|
    need .badOperand (Opd.dec r.a) fun a =>
    finish (.drain r.hdr a)
  | _ => .error .unassignedOpcode

/-- The words whose code lies in 0x300..0x33F (R77); every code no entry names is refused (R78). -/
def decodeTable (r : Raw) : Except DecErr Instr :=
  match r.op.toNat with
  | 0x300 =>
    let m := Xm.ofBits r.x
    check .badField (r.plain && r.a == 0#14 && r.b == 0#14 && m.rnd == 0#2 && !m.ftz && !m.ov && m.ty == 0#5 && m.sc == 0#3 && m.ty2 == 0#5 && m.per.extractLsb' 12 3 == 0#3) <|
    let slot := m.per.extractLsb' 0 12
    need .badOperand (Opd.dec r.d) fun d =>
    finish (.lref r.hdr slot d)
  | 0x301 =>
    let m := Xm.ofBits r.x
    check .badField (r.plain && m.rnd == 0#2 && !m.ftz && !m.ov && m.ty == 0#5 && m.sc == 0#3 && m.ty2 == 0#5 && m.per.extractLsb' 12 3 == 0#3) <|
    let slot := m.per.extractLsb' 0 12
    need .badOperand (Opd.dec r.d) fun d =>
    need .badOperand (Opd.decOpt r.a) fun a =>
    need .badOperand (Opd.dec r.b) fun b =>
    finish (.lbind r.hdr slot d a b)
  | 0x302 =>
    let m := Xm.ofBits r.x
    check .badField (r.plain && r.b == 0#14 && m.rnd == 0#2 && !m.ftz && !m.ov && m.ty == 0#5 && m.sc == 0#3 && m.ty2 == 0#5 && m.per.extractLsb' 12 3 == 0#3) <|
    let slot := m.per.extractLsb' 0 12
    need .badOperand (Opd.dec r.d) fun d =>
    need .badOperand (Opd.decOpt r.a) fun a =>
    finish (.lunb r.hdr slot d a)
  | 0x303 =>
    let m := Xm.ofBits r.x
    check .badField (r.plain && r.b == 0#14 && m.rnd == 0#2 && !m.ftz && !m.ov && m.ty == 0#5 && m.sc == 0#3 && m.ty2 == 0#5 && m.per.extractLsb' 12 3 == 0#3) <|
    let slot := m.per.extractLsb' 0 12
    need .badOperand (Opd.dec r.d) fun d =>
    need .badOperand (Opd.decOpt r.a) fun a =>
    finish (.lqry r.hdr slot d a)
  | 0x310 =>
    let m := Xm.ofBits r.x
    check .badField (r.plain && r.b == 0#14 && m.rnd == 0#2 && !m.ftz && !m.ov && m.ty == 0#5 && m.sc == 0#3 && m.ty2 == 0#5 && m.per.extractLsb' 0 15 == 0#15) <|
    need .badOperand (Opd.dec r.d) fun d =>
    need .badOperand (Opd.dec r.a) fun a =>
    finish (.sega r.hdr d a)
  | 0x311 =>
    let m := Xm.ofBits r.x
    check .badField (r.plain && r.d == 0#14 && r.b == 0#14 && m.rnd == 0#2 && !m.ftz && !m.ov && m.ty == 0#5 && m.sc == 0#3 && m.ty2 == 0#5 && m.per.extractLsb' 0 15 == 0#15) <|
    need .badOperand (Opd.dec r.a) fun a =>
    finish (.segf r.hdr a)
  | 0x312 =>
    let m := Xm.ofBits r.x
    check .badField (r.plain && r.b == 0#14 && m.rnd == 0#2 && !m.ftz && !m.ov && m.ty == 0#5 && m.sc == 0#3 && m.ty2 == 0#5 && m.per.extractLsb' 4 11 == 0#11) <|
    let wd := m.per.extractLsb' 0 4
    need .badOperand (Opd.dec r.d) fun d =>
    need .badOperand (Opd.dec r.a) fun a =>
    finish (.segq r.hdr wd d a)
  | 0x313 =>
    let m := Xm.ofBits r.x
    check .badField (r.plain && r.d == 0#14 && m.rnd == 0#2 && !m.ftz && !m.ov && m.ty == 0#5 && m.sc == 0#3 && m.ty2 == 0#5 && m.per.extractLsb' 0 15 == 0#15) <|
    need .badOperand (Opd.dec r.a) fun a =>
    need .badOperand (Opd.dec r.b) fun b =>
    finish (.segrt r.hdr a b)
  | _ => .error .unassignedOpcode

/-- The words whose code lies in 0x340..0x37F (R77); every code no entry names is refused (R78). -/
def decodeCounter (r : Raw) : Except DecErr Instr :=
  match r.op.toNat with
  | 0x340 =>
    let m := Xm.ofBits r.x
    check .badField (r.plain && r.d == 0#14 && r.a == 0#14 && r.b == 0#14 && m.rnd == 0#2 && !m.ftz && !m.ov && m.ty == 0#5 && m.sc == 0#3 && m.ty2 == 0#5 && m.per.extractLsb' 0 15 == 0#15) <|
    finish (.seal r.hdr)
  | 0x341 =>
    let m := Xm.ofBits r.x
    check .badField (r.plain && r.d == 0#14 && r.b == 0#14 && m.rnd == 0#2 && !m.ftz && !m.ov && m.ty == 0#5 && m.sc == 0#3 && m.ty2 == 0#5 && m.per.extractLsb' 0 15 == 0#15) <|
    need .badOperand (Opd.dec r.a) fun a =>
    finish (.waitb r.hdr a)
  | 0x348 =>
    let m := Xm.ofBits r.x
    check .badField (r.plain && r.d == 0#14 && r.a == 0#14 && r.b == 0#14 && m.rnd == 0#2 && !m.ftz && !m.ov && m.ty == 0#5 && m.sc == 0#3 && m.ty2 == 0#5 && m.per.extractLsb' 0 15 == 0#15) <|
    finish (.bar r.hdr)
  | 0x349 =>
    let m := Xm.ofBits r.x
    check .badField (r.plain && r.d == 0#14 && r.a == 0#14 && r.b == 0#14 && m.rnd == 0#2 && !m.ftz && !m.ov && m.ty == 0#5 && m.sc == 0#3 && m.ty2 == 0#5 && m.per.extractLsb' 0 15 == 0#15) <|
    finish (.cbar r.hdr)
  | 0x350 =>
    let m := Xc.ofBits r.x
    check .badField (r.plain && r.d == 0#14 && m.rnd == 0#2 && !m.ftz && !m.ov && m.ty == 0#5 && m.sc == 0#3 && m.ty2 == 0#5) <|
    let rm := m.flag
    check .badField ((rm || m.c == 0#14)) <|
    need .badOperand (Opd.dec r.a) fun a =>
    need .badOperand (Opd.dec r.b) fun b =>
    need .badOperand (Opd.dec m.c) fun c =>
    finish (.arrive r.hdr rm a b c)
  | 0x351 =>
    let m := Xm.ofBits r.x
    check .badField (r.plain && r.d == 0#14 && m.rnd == 0#2 && !m.ftz && !m.ov && m.ty == 0#5 && m.sc == 0#3 && m.ty2 == 0#5 && m.per.extractLsb' 0 15 == 0#15) <|
    need .badOperand (Opd.dec r.a) fun a =>
    need .badOperand (Opd.dec r.b) fun b =>
    finish (.await r.hdr a b)
  | 0x358 =>
    let m := Xm.ofBits r.x
    check .badField (r.plain && r.b == 0#14 && m.rnd == 0#2 && !m.ftz && !m.ov && m.ty == 0#5 && m.sc == 0#3 && m.ty2 == 0#5 && m.per.extractLsb' 1 14 == 0#14) <|
    let ac := m.per.getLsbD 0
    need .badOperand (Opd.dec r.d) fun d =>
    need .badOperand (Opd.dec r.a) fun a =>
    finish (.sread r.hdr ac d a)
  | 0x359 =>
    let m := Xm.ofBits r.x
    check .badField (r.plain && r.a == 0#14 && m.rnd == 0#2 && !m.ftz && !m.ov && m.ty == 0#5 && m.sc == 0#3 && m.ty2 == 0#5 && m.per.extractLsb' 0 15 == 0#15) <|
    need .badOperand (Opd.dec r.d) fun d =>
    need .badOperand (Opd.dec r.b) fun b =>
    finish (.swrite r.hdr d b)
  | _ => .error .unassignedOpcode

/-- The instruction an expanded word stands for, or the reason R67 gives for refusing it (rows 6 to 8). -/
def decodeRaw (r : Raw) : Except DecErr Instr :=
  let op := r.op.toNat
  if op ≤ 0x03F then decodeMove r else
  if op ≤ 0x07F then decodeLogic r else
  if op ≤ 0x0FF then decodeFloat r else
  if op ≤ 0x13F then decodeExchange r else
  if op ≤ 0x17F then decodeBand r else
  if op ≤ 0x1BF then decodeFlow r else
  if op ≤ 0x23F then decodeMemory r else
  if op ≤ 0x2BF then decodeEngine r else
  if op ≤ 0x2FF then decodeQueue r else
  if op ≤ 0x33F then decodeTable r else
  if op ≤ 0x37F then decodeCounter r else
  .error .unassignedOpcode

/-- The instruction a word stands for (R53). -/
def decodeWord (w : W96) : Except DecErr Instr := decodeRaw (Raw.ofWord w)

/-- The present bytes of a word, placed by its mask from byte i on (R70): the word's bytes so far above, and the bytes
that are left. -/
def unpackBytes : Nat → Nat → List Byte → Option (List Byte × List Byte)
  | 0, _, bs => some ([], bs)
  | k + 1, m, bs =>
    if m % 2 == 1 then
      match bs with
      | [] => none
      | b :: bs => (unpackBytes k (m / 2) bs).map fun p => (b :: p.1, p.2)
    else (unpackBytes k (m / 2) bs).map fun p => (0#8 :: p.1, p.2)
/-- A number from its bytes, the lowest first (R5). -/
def natOfBytes : List Byte → Nat
  | [] => 0
  | b :: bs => b.toNat + 256 * natOfBytes bs
/-- The k lowest bytes of a number, the lowest first (R5). -/
def bytesOfNat : Nat → Nat → List Byte
  | 0, _ => []
  | k + 1, n => BitVec.ofNat 8 n :: bytesOfNat k (n / 256)
/-- The set bits among the k lowest of a number. -/
def popNat : Nat → Nat → Nat
  | 0, _ => 0
  | k + 1, n => n % 2 + popNat k (n / 2)
/-- The length of an instruction from its mask (R71). -/
def packedLength (m : Nat) : Nat := 2 + popNat 12 (m % 4096)
/-- The word at the start of packed bytes, its length, and the bytes after it (R70, R71). -/
def unpack (bs : List Byte) : Except DecErr (W96 × Nat × List Byte) :=
  match bs with
  | m0 :: m1 :: rest =>
    let m := m0.toNat + 256 * m1.toNat
    if m ≥ 4096 then .error .packedCode else
      match unpackBytes 12 m rest with
      | none => .error .truncated
      | some p => .ok (BitVec.ofNat 96 (natOfBytes p.1), packedLength m, p.2)
  | _ => .error .truncated
/-- The instruction at the start of packed bytes, its length, and the bytes after it. -/
def decode (bs : List Byte) : Except DecErr (Instr × Nat × List Byte) :=
  match unpack bs with
  | .error e => .error e
  | .ok (w, n, rest) =>
    match decodeWord w with
    | .error e => .error e
    | .ok i => .ok (i, n, rest)

/-- The fields of an instruction's word, from the same encoding tables (R53, R55, R62, R63); an event has none. -/
def encodeRaw : Instr → Raw
  | .nop h => Raw.of h 0x000#10 (0#14) (0#14) (0#14) (Xm.bits { rnd := 0#2, ftz := false, ov := false, ty := 0#5, sc := 0#3, ty2 := 0#5, per := 0#15 })
  | .mov h ty d b => Raw.of h 0x001#10 (d.enc) (0#14) (b.enc) (Xm.bits { rnd := 0#2, ftz := false, ov := false, ty := ty.code, sc := 0#3, ty2 := 0#5, per := 0#15 })
  | .movLong h d imm => Raw.of h 0x002#10 (d.enc) (0#14) (0#14) (imm)
  | .sel h ty d a b c => Raw.of h 0x003#10 (d.enc) (a.enc) (b.enc) (Xc.bits { rnd := 0#2, ftz := false, ov := false, ty := ty.code, sc := 0#3, ty2 := 0#5, flag := false, c := c.enc })
  | .plog h op d a b => Raw.of h 0x004#10 (d.enc) (a.enc) (b.enc) (Xm.bits { rnd := 0#2, ftz := false, ov := false, ty := 0#5, sc := 0#3, ty2 := 0#5, per := 0#13 ++ op.code })
  | .iadd h ty sat d a b => Raw.of h 0x010#10 (d.enc) (a.enc) (b.enc) (Xm.bits { rnd := 0#2, ftz := false, ov := sat, ty := ty.code, sc := 0#3, ty2 := 0#5, per := 0#15 })
  | .iaddLong h d a imm => Raw.of h 0x011#10 (d.enc) (a.enc) (0#14) (imm)
  | .isub h ty sat d a b => Raw.of h 0x012#10 (d.enc) (a.enc) (b.enc) (Xm.bits { rnd := 0#2, ftz := false, ov := sat, ty := ty.code, sc := 0#3, ty2 := 0#5, per := 0#15 })
  | .isubLong h d a imm => Raw.of h 0x013#10 (d.enc) (a.enc) (0#14) (imm)
  | .imul h ty sat d a b => Raw.of h 0x014#10 (d.enc) (a.enc) (b.enc) (Xm.bits { rnd := 0#2, ftz := false, ov := sat, ty := ty.code, sc := 0#3, ty2 := 0#5, per := 0#15 })
  | .imulLong h d a imm => Raw.of h 0x015#10 (d.enc) (a.enc) (0#14) (imm)
  | .imulh h ty d a b => Raw.of h 0x016#10 (d.enc) (a.enc) (b.enc) (Xm.bits { rnd := 0#2, ftz := false, ov := false, ty := ty.code, sc := 0#3, ty2 := 0#5, per := 0#15 })
  | .imad h ty sat d a b c => Raw.of h 0x017#10 (d.enc) (a.enc) (b.enc) (Xc.bits { rnd := 0#2, ftz := false, ov := sat, ty := ty.code, sc := 0#3, ty2 := 0#5, flag := false, c := c.enc })
  | .idiv h ty sat d a b => Raw.of h 0x018#10 (d.enc) (a.enc) (b.enc) (Xm.bits { rnd := 0#2, ftz := false, ov := sat, ty := ty.code, sc := 0#3, ty2 := 0#5, per := 0#15 })
  | .irem h ty d a b => Raw.of h 0x019#10 (d.enc) (a.enc) (b.enc) (Xm.bits { rnd := 0#2, ftz := false, ov := false, ty := ty.code, sc := 0#3, ty2 := 0#5, per := 0#15 })
  | .imin h ty d a b => Raw.of h 0x01A#10 (d.enc) (a.enc) (b.enc) (Xm.bits { rnd := 0#2, ftz := false, ov := false, ty := ty.code, sc := 0#3, ty2 := 0#5, per := 0#15 })
  | .imax h ty d a b => Raw.of h 0x01B#10 (d.enc) (a.enc) (b.enc) (Xm.bits { rnd := 0#2, ftz := false, ov := false, ty := ty.code, sc := 0#3, ty2 := 0#5, per := 0#15 })
  | .iabs h ty sat d a => Raw.of h 0x01C#10 (d.enc) (a.enc) (0#14) (Xm.bits { rnd := 0#2, ftz := false, ov := sat, ty := ty.code, sc := 0#3, ty2 := 0#5, per := 0#15 })
  | .ineg h ty sat d a => Raw.of h 0x01D#10 (d.enc) (a.enc) (0#14) (Xm.bits { rnd := 0#2, ftz := false, ov := sat, ty := ty.code, sc := 0#3, ty2 := 0#5, per := 0#15 })
  | .icmp h ty cc d a b => Raw.of h 0x01E#10 (d.enc) (a.enc) (b.enc) (Xm.bits { rnd := 0#2, ftz := false, ov := false, ty := ty.code, sc := 0#3, ty2 := 0#5, per := 0#12 ++ cc.code })
  | .and h ty d a b => Raw.of h 0x040#10 (d.enc) (a.enc) (b.enc) (Xm.bits { rnd := 0#2, ftz := false, ov := false, ty := ty.code, sc := 0#3, ty2 := 0#5, per := 0#15 })
  | .andLong h d a imm => Raw.of h 0x041#10 (d.enc) (a.enc) (0#14) (imm)
  | .or h ty d a b => Raw.of h 0x042#10 (d.enc) (a.enc) (b.enc) (Xm.bits { rnd := 0#2, ftz := false, ov := false, ty := ty.code, sc := 0#3, ty2 := 0#5, per := 0#15 })
  | .orLong h d a imm => Raw.of h 0x043#10 (d.enc) (a.enc) (0#14) (imm)
  | .xor h ty d a b => Raw.of h 0x044#10 (d.enc) (a.enc) (b.enc) (Xm.bits { rnd := 0#2, ftz := false, ov := false, ty := ty.code, sc := 0#3, ty2 := 0#5, per := 0#15 })
  | .xorLong h d a imm => Raw.of h 0x045#10 (d.enc) (a.enc) (0#14) (imm)
  | .andn h ty d a b => Raw.of h 0x046#10 (d.enc) (a.enc) (b.enc) (Xm.bits { rnd := 0#2, ftz := false, ov := false, ty := ty.code, sc := 0#3, ty2 := 0#5, per := 0#15 })
  | .not h ty d a => Raw.of h 0x047#10 (d.enc) (a.enc) (0#14) (Xm.bits { rnd := 0#2, ftz := false, ov := false, ty := ty.code, sc := 0#3, ty2 := 0#5, per := 0#15 })
  | .shl h ty d a b => Raw.of h 0x048#10 (d.enc) (a.enc) (b.enc) (Xm.bits { rnd := 0#2, ftz := false, ov := false, ty := ty.code, sc := 0#3, ty2 := 0#5, per := 0#15 })
  | .shr h ty d a b => Raw.of h 0x049#10 (d.enc) (a.enc) (b.enc) (Xm.bits { rnd := 0#2, ftz := false, ov := false, ty := ty.code, sc := 0#3, ty2 := 0#5, per := 0#15 })
  | .sar h ty d a b => Raw.of h 0x04A#10 (d.enc) (a.enc) (b.enc) (Xm.bits { rnd := 0#2, ftz := false, ov := false, ty := ty.code, sc := 0#3, ty2 := 0#5, per := 0#15 })
  | .rol h ty d a b => Raw.of h 0x04B#10 (d.enc) (a.enc) (b.enc) (Xm.bits { rnd := 0#2, ftz := false, ov := false, ty := ty.code, sc := 0#3, ty2 := 0#5, per := 0#15 })
  | .popc h ty d a => Raw.of h 0x04C#10 (d.enc) (a.enc) (0#14) (Xm.bits { rnd := 0#2, ftz := false, ov := false, ty := ty.code, sc := 0#3, ty2 := 0#5, per := 0#15 })
  | .clz h ty d a => Raw.of h 0x04D#10 (d.enc) (a.enc) (0#14) (Xm.bits { rnd := 0#2, ftz := false, ov := false, ty := ty.code, sc := 0#3, ty2 := 0#5, per := 0#15 })
  | .ctz h ty d a => Raw.of h 0x04E#10 (d.enc) (a.enc) (0#14) (Xm.bits { rnd := 0#2, ftz := false, ov := false, ty := ty.code, sc := 0#3, ty2 := 0#5, per := 0#15 })
  | .brev h ty d a => Raw.of h 0x04F#10 (d.enc) (a.enc) (0#14) (Xm.bits { rnd := 0#2, ftz := false, ov := false, ty := ty.code, sc := 0#3, ty2 := 0#5, per := 0#15 })
  | .bfx h ty d a b => Raw.of h 0x050#10 (d.enc) (a.enc) (b.enc) (Xm.bits { rnd := 0#2, ftz := false, ov := false, ty := ty.code, sc := 0#3, ty2 := 0#5, per := 0#15 })
  | .bfxLong h d a imm => Raw.of h 0x051#10 (d.enc) (a.enc) (0#14) (imm)
  | .bfi h ty d a b c => Raw.of h 0x052#10 (d.enc) (a.enc) (b.enc) (Xc.bits { rnd := 0#2, ftz := false, ov := false, ty := ty.code, sc := 0#3, ty2 := 0#5, flag := false, c := c.enc })
  | .hadd h ty scl d a b => Raw.of h 0x060#10 (d.enc) (a.enc) (b.enc) (Xm.bits { rnd := 0#2, ftz := false, ov := false, ty := ty.code, sc := 0#3, ty2 := 0#5, per := 0#12 ++ scl })
  | .haddLong h d a imm => Raw.of h 0x061#10 (d.enc) (a.enc) (0#14) (imm)
  | .hsub h d a b => Raw.of h 0x062#10 (d.enc) (a.enc) (b.enc) (Xm.bits { rnd := 0#2, ftz := false, ov := false, ty := 0#5, sc := 0#3, ty2 := 0#5, per := 0#15 })
  | .hsel h d a => Raw.of h 0x063#10 (d.enc) (a.enc) (0#14) (Xm.bits { rnd := 0#2, ftz := false, ov := false, ty := 0#5, sc := 0#3, ty2 := 0#5, per := 0#15 })
  | .hoff h d a => Raw.of h 0x064#10 (d.enc) (a.enc) (0#14) (Xm.bits { rnd := 0#2, ftz := false, ov := false, ty := 0#5, sc := 0#3, ty2 := 0#5, per := 0#15 })
  | .hmake h d a b => Raw.of h 0x065#10 (d.enc) (a.enc) (b.enc) (Xm.bits { rnd := 0#2, ftz := false, ov := false, ty := 0#5, sc := 0#3, ty2 := 0#5, per := 0#15 })
  | .hcmp h cc d a b => Raw.of h 0x066#10 (d.enc) (a.enc) (b.enc) (Xm.bits { rnd := 0#2, ftz := false, ov := false, ty := 0#5, sc := 0#3, ty2 := 0#5, per := 0#12 ++ cc.code })
  | .badd h ty sat d a b => Raw.of h 0x140#10 (d.enc) (a.enc) (b.enc) (Xm.bits { rnd := 0#2, ftz := false, ov := sat, ty := ty.code, sc := 0#3, ty2 := 0#5, per := 0#15 })
  | .baddLong h d a imm => Raw.of h 0x141#10 (d.enc) (a.enc) (0#14) (imm)
  | .bsub h ty sat d a b => Raw.of h 0x142#10 (d.enc) (a.enc) (b.enc) (Xm.bits { rnd := 0#2, ftz := false, ov := sat, ty := ty.code, sc := 0#3, ty2 := 0#5, per := 0#15 })
  | .bmul h ty sat d a b => Raw.of h 0x143#10 (d.enc) (a.enc) (b.enc) (Xm.bits { rnd := 0#2, ftz := false, ov := sat, ty := ty.code, sc := 0#3, ty2 := 0#5, per := 0#15 })
  | .band h ty d a b => Raw.of h 0x144#10 (d.enc) (a.enc) (b.enc) (Xm.bits { rnd := 0#2, ftz := false, ov := false, ty := ty.code, sc := 0#3, ty2 := 0#5, per := 0#15 })
  | .bor h ty d a b => Raw.of h 0x145#10 (d.enc) (a.enc) (b.enc) (Xm.bits { rnd := 0#2, ftz := false, ov := false, ty := ty.code, sc := 0#3, ty2 := 0#5, per := 0#15 })
  | .bxor h ty d a b => Raw.of h 0x146#10 (d.enc) (a.enc) (b.enc) (Xm.bits { rnd := 0#2, ftz := false, ov := false, ty := ty.code, sc := 0#3, ty2 := 0#5, per := 0#15 })
  | .bshl h ty d a b => Raw.of h 0x147#10 (d.enc) (a.enc) (b.enc) (Xm.bits { rnd := 0#2, ftz := false, ov := false, ty := ty.code, sc := 0#3, ty2 := 0#5, per := 0#15 })
  | .bshr h ty d a b => Raw.of h 0x148#10 (d.enc) (a.enc) (b.enc) (Xm.bits { rnd := 0#2, ftz := false, ov := false, ty := ty.code, sc := 0#3, ty2 := 0#5, per := 0#15 })
  | .bsar h ty d a b => Raw.of h 0x149#10 (d.enc) (a.enc) (b.enc) (Xm.bits { rnd := 0#2, ftz := false, ov := false, ty := ty.code, sc := 0#3, ty2 := 0#5, per := 0#15 })
  | .bmin h ty d a b => Raw.of h 0x14A#10 (d.enc) (a.enc) (b.enc) (Xm.bits { rnd := 0#2, ftz := false, ov := false, ty := ty.code, sc := 0#3, ty2 := 0#5, per := 0#15 })
  | .bmax h ty d a b => Raw.of h 0x14B#10 (d.enc) (a.enc) (b.enc) (Xm.bits { rnd := 0#2, ftz := false, ov := false, ty := ty.code, sc := 0#3, ty2 := 0#5, per := 0#15 })
  | .bmov h ty d b => Raw.of h 0x14C#10 (d.enc) (0#14) (b.enc) (Xm.bits { rnd := 0#2, ftz := false, ov := false, ty := ty.code, sc := 0#3, ty2 := 0#5, per := 0#15 })
  | .bmovLong h d imm => Raw.of h 0x14D#10 (d.enc) (0#14) (0#14) (imm)
  | .bcmp h ty cc d a b => Raw.of h 0x14E#10 (d.enc) (a.enc) (b.enc) (Xm.bits { rnd := 0#2, ftz := false, ov := false, ty := ty.code, sc := 0#3, ty2 := 0#5, per := 0#12 ++ cc.code })
  | .bsel h ty d a b c => Raw.of h 0x14F#10 (d.enc) (a.enc) (b.enc) (Xc.bits { rnd := 0#2, ftz := false, ov := false, ty := ty.code, sc := 0#3, ty2 := 0#5, flag := false, c := c.enc })
  | .qlog h op d a b => Raw.of h 0x150#10 (d.enc) (a.enc) (b.enc) (Xm.bits { rnd := 0#2, ftz := false, ov := false, ty := 0#5, sc := 0#3, ty2 := 0#5, per := 0#13 ++ op.code })
  | .bget h ty d a => Raw.of h 0x151#10 (d.enc) (a.enc) (0#14) (Xm.bits { rnd := 0#2, ftz := false, ov := false, ty := ty.code, sc := 0#3, ty2 := 0#5, per := 0#15 })
  | .bred h ty sat red d a => Raw.of h 0x152#10 (d.enc) (a.enc) (0#14) (Xm.bits { rnd := 0#2, ftz := false, ov := sat, ty := ty.code, sc := 0#3, ty2 := 0#5, per := 0#12 ++ red.code })
  | .acq h tr d a => Raw.of h 0x153#10 (d.enc) (a.enc) (0#14) (Xm.bits { rnd := 0#2, ftz := false, ov := false, ty := 0#5, sc := 0#3, ty2 := 0#5, per := 0#14 ++ BitVec.ofBool tr })
  | .rel h a => Raw.of h 0x154#10 (0#14) (a.enc) (0#14) (Xm.bits { rnd := 0#2, ftz := false, ov := false, ty := 0#5, sc := 0#3, ty2 := 0#5, per := 0#15 })
  | .fadd h ty rnd ftz d a b => Raw.of h 0x080#10 (d.enc) (a.enc) (b.enc) (Xm.bits { rnd := rnd.code, ftz := ftz, ov := false, ty := ty.code, sc := 0#3, ty2 := 0#5, per := 0#15 })
  | .faddLong h d a imm => Raw.of h 0x081#10 (d.enc) (a.enc) (0#14) (imm)
  | .fsub h ty rnd ftz d a b => Raw.of h 0x082#10 (d.enc) (a.enc) (b.enc) (Xm.bits { rnd := rnd.code, ftz := ftz, ov := false, ty := ty.code, sc := 0#3, ty2 := 0#5, per := 0#15 })
  | .fmul h ty rnd ftz d a b => Raw.of h 0x083#10 (d.enc) (a.enc) (b.enc) (Xm.bits { rnd := rnd.code, ftz := ftz, ov := false, ty := ty.code, sc := 0#3, ty2 := 0#5, per := 0#15 })
  | .fmulLong h d a imm => Raw.of h 0x084#10 (d.enc) (a.enc) (0#14) (imm)
  | .ffma h ty rnd ftz d a b c => Raw.of h 0x085#10 (d.enc) (a.enc) (b.enc) (Xc.bits { rnd := rnd.code, ftz := ftz, ov := false, ty := ty.code, sc := 0#3, ty2 := 0#5, flag := false, c := c.enc })
  | .fmin h ty ftz d a b => Raw.of h 0x086#10 (d.enc) (a.enc) (b.enc) (Xm.bits { rnd := 0#2, ftz := ftz, ov := false, ty := ty.code, sc := 0#3, ty2 := 0#5, per := 0#15 })
  | .fmax h ty ftz d a b => Raw.of h 0x087#10 (d.enc) (a.enc) (b.enc) (Xm.bits { rnd := 0#2, ftz := ftz, ov := false, ty := ty.code, sc := 0#3, ty2 := 0#5, per := 0#15 })
  | .fabs h ty d a => Raw.of h 0x088#10 (d.enc) (a.enc) (0#14) (Xm.bits { rnd := 0#2, ftz := false, ov := false, ty := ty.code, sc := 0#3, ty2 := 0#5, per := 0#15 })
  | .fneg h ty d a => Raw.of h 0x089#10 (d.enc) (a.enc) (0#14) (Xm.bits { rnd := 0#2, ftz := false, ov := false, ty := ty.code, sc := 0#3, ty2 := 0#5, per := 0#15 })
  | .fcmp h ty ftz cc d a b => Raw.of h 0x08A#10 (d.enc) (a.enc) (b.enc) (Xm.bits { rnd := 0#2, ftz := ftz, ov := false, ty := ty.code, sc := 0#3, ty2 := 0#5, per := 0#12 ++ cc.code })
  | .fclass h ty d a => Raw.of h 0x08B#10 (d.enc) (a.enc) (0#14) (Xm.bits { rnd := 0#2, ftz := false, ov := false, ty := ty.code, sc := 0#3, ty2 := 0#5, per := 0#15 })
  | .frnd h ty rnd d a => Raw.of h 0x08C#10 (d.enc) (a.enc) (0#14) (Xm.bits { rnd := rnd.code, ftz := false, ov := false, ty := ty.code, sc := 0#3, ty2 := 0#5, per := 0#15 })
  | .fscl h ty rnd ftz d a b => Raw.of h 0x08D#10 (d.enc) (a.enc) (b.enc) (Xm.bits { rnd := rnd.code, ftz := ftz, ov := false, ty := ty.code, sc := 0#3, ty2 := 0#5, per := 0#15 })
  | .fadd2 h ty rnd ftz d a b => Raw.of h 0x0C0#10 (d.enc) (a.enc) (b.enc) (Xm.bits { rnd := rnd.code, ftz := ftz, ov := false, ty := ty.code, sc := 0#3, ty2 := 0#5, per := 0#15 })
  | .fsub2 h ty rnd ftz d a b => Raw.of h 0x0C1#10 (d.enc) (a.enc) (b.enc) (Xm.bits { rnd := rnd.code, ftz := ftz, ov := false, ty := ty.code, sc := 0#3, ty2 := 0#5, per := 0#15 })
  | .fmul2 h ty rnd ftz d a b => Raw.of h 0x0C2#10 (d.enc) (a.enc) (b.enc) (Xm.bits { rnd := rnd.code, ftz := ftz, ov := false, ty := ty.code, sc := 0#3, ty2 := 0#5, per := 0#15 })
  | .ffma2 h ty rnd ftz d a b c => Raw.of h 0x0C3#10 (d.enc) (a.enc) (b.enc) (Xc.bits { rnd := rnd.code, ftz := ftz, ov := false, ty := ty.code, sc := 0#3, ty2 := 0#5, flag := false, c := c.enc })
  | .fmin2 h ty ftz d a b => Raw.of h 0x0C4#10 (d.enc) (a.enc) (b.enc) (Xm.bits { rnd := 0#2, ftz := ftz, ov := false, ty := ty.code, sc := 0#3, ty2 := 0#5, per := 0#15 })
  | .fmax2 h ty ftz d a b => Raw.of h 0x0C5#10 (d.enc) (a.enc) (b.enc) (Xm.bits { rnd := 0#2, ftz := ftz, ov := false, ty := ty.code, sc := 0#3, ty2 := 0#5, per := 0#15 })
  | .fcmp2 h ty ftz cc d a b => Raw.of h 0x0C6#10 (d.enc) (a.enc) (b.enc) (Xm.bits { rnd := 0#2, ftz := ftz, ov := false, ty := ty.code, sc := 0#3, ty2 := 0#5, per := 0#12 ++ cc.code })
  | .fdot2 h ty rnd ftz d a b c => Raw.of h 0x0C7#10 (d.enc) (a.enc) (b.enc) (Xc.bits { rnd := rnd.code, ftz := ftz, ov := false, ty := ty.code, sc := 0#3, ty2 := 0#5, flag := false, c := c.enc })
  | .cvt h ty ty2 rnd ftz ovf rx d a => Raw.of h 0x0E0#10 (d.enc) (a.enc) (0#14) (Xm.bits { rnd := rnd.code, ftz := ftz, ov := ovf, ty := ty.code, sc := 0#3, ty2 := ty2.code, per := 0#14 ++ BitVec.ofBool rx })
  | .pack h ty rnd ftz ovf pos d a b => Raw.of h 0x0E1#10 (d.enc) (a.enc) (b.enc) (Xm.bits { rnd := rnd.code, ftz := ftz, ov := ovf, ty := ty.code, sc := 0#3, ty2 := 0#5, per := 0#12 ++ pos })
  | .unpk h ty pos scl d a b => Raw.of h 0x0E2#10 (d.enc) (a.enc) (b.enc) (Xm.bits { rnd := 0#2, ftz := false, ov := false, ty := ty.code, sc := 0#3, ty2 := 0#5, per := 0#11 ++ BitVec.ofBool scl ++ pos })
  | .fdiv h ty rnd ftz d a b => Raw.of h 0x0F0#10 (d.enc) (a.enc) (b.enc) (Xm.bits { rnd := rnd.code, ftz := ftz, ov := false, ty := ty.code, sc := 0#3, ty2 := 0#5, per := 0#15 })
  | .fsqrt h ty rnd ftz d a => Raw.of h 0x0F1#10 (d.enc) (a.enc) (0#14) (Xm.bits { rnd := rnd.code, ftz := ftz, ov := false, ty := ty.code, sc := 0#3, ty2 := 0#5, per := 0#15 })
  | .rcp h ty ftz d a => Raw.of h 0x0F2#10 (d.enc) (a.enc) (0#14) (Xm.bits { rnd := 0#2, ftz := ftz, ov := false, ty := ty.code, sc := 0#3, ty2 := 0#5, per := 0#15 })
  | .rsq h ty ftz d a => Raw.of h 0x0F3#10 (d.enc) (a.enc) (0#14) (Xm.bits { rnd := 0#2, ftz := ftz, ov := false, ty := ty.code, sc := 0#3, ty2 := 0#5, per := 0#15 })
  | .ex2 h ty ftz d a => Raw.of h 0x0F4#10 (d.enc) (a.enc) (0#14) (Xm.bits { rnd := 0#2, ftz := ftz, ov := false, ty := ty.code, sc := 0#3, ty2 := 0#5, per := 0#15 })
  | .lg2 h ty ftz d a => Raw.of h 0x0F5#10 (d.enc) (a.enc) (0#14) (Xm.bits { rnd := 0#2, ftz := ftz, ov := false, ty := ty.code, sc := 0#3, ty2 := 0#5, per := 0#15 })
  | .sinpi h ty ftz d a => Raw.of h 0x0F6#10 (d.enc) (a.enc) (0#14) (Xm.bits { rnd := 0#2, ftz := ftz, ov := false, ty := ty.code, sc := 0#3, ty2 := 0#5, per := 0#15 })
  | .cospi h ty ftz d a => Raw.of h 0x0F7#10 (d.enc) (a.enc) (0#14) (Xm.bits { rnd := 0#2, ftz := ftz, ov := false, ty := ty.code, sc := 0#3, ty2 := 0#5, per := 0#15 })
  | .tanh h ty ftz d a => Raw.of h 0x0F8#10 (d.enc) (a.enc) (0#14) (Xm.bits { rnd := 0#2, ftz := ftz, ov := false, ty := ty.code, sc := 0#3, ty2 := 0#5, per := 0#15 })
  | .shfl h ty mode seg d a b => Raw.of h 0x100#10 (d.enc) (a.enc) (b.enc) (Xm.bits { rnd := 0#2, ftz := false, ov := false, ty := ty.code, sc := 0#3, ty2 := 0#5, per := 0#10 ++ seg.code ++ mode.code })
  | .vote h vm d a => Raw.of h 0x104#10 (d.enc) (a.enc) (0#14) (Xm.bits { rnd := 0#2, ftz := false, ov := false, ty := 0#5, sc := 0#3, ty2 := 0#5, per := 0#13 ++ vm.code })
  | .lred h ty rnd ftz sat red d a => Raw.of h 0x108#10 (d.enc) (a.enc) (0#14) (Xm.bits { rnd := rnd.code, ftz := ftz, ov := sat, ty := ty.code, sc := 0#3, ty2 := 0#5, per := 0#12 ++ red.code })
  | .scan h ty rnd ftz sat red exc d a => Raw.of h 0x10C#10 (d.enc) (a.enc) (0#14) (Xm.bits { rnd := rnd.code, ftz := ftz, ov := sat, ty := ty.code, sc := 0#3, ty2 := 0#5, per := 0#11 ++ BitVec.ofBool exc ++ red.code })
  | .bra h off => Raw.of h 0x180#10 (0#14) (0#14) (0#14) (off)
  | .braq h off => Raw.of h 0x181#10 (0#14) (0#14) (0#14) (off)
  | .jmpi h a => Raw.of h 0x182#10 (0#14) (a.enc) (0#14) (Xm.bits { rnd := 0#2, ftz := false, ov := false, ty := 0#5, sc := 0#3, ty2 := 0#5, per := 0#15 })
  | .call h d off => Raw.of h 0x183#10 (d.enc) (0#14) (0#14) (off)
  | .callx h slot d => Raw.of h 0x184#10 (d.enc) (0#14) (0#14) (Xm.bits { rnd := 0#2, ftz := false, ov := false, ty := 0#5, sc := 0#3, ty2 := 0#5, per := 0#3 ++ slot })
  | .ret h a => Raw.of h 0x185#10 (0#14) (a.enc) (0#14) (Xm.bits { rnd := 0#2, ftz := false, ov := false, ty := 0#5, sc := 0#3, ty2 := 0#5, per := 0#15 })
  | .join h a => Raw.of h 0x186#10 (0#14) (a.enc) (0#14) (Xm.bits { rnd := 0#2, ftz := false, ov := false, ty := 0#5, sc := 0#3, ty2 := 0#5, per := 0#15 })
  | .exit h => Raw.of h 0x187#10 (0#14) (0#14) (0#14) (Xm.bits { rnd := 0#2, ftz := false, ov := false, ty := 0#5, sc := 0#3, ty2 := 0#5, per := 0#15 })
  | .nap h a => Raw.of h 0x188#10 (0#14) (a.enc) (0#14) (Xm.bits { rnd := 0#2, ftz := false, ov := false, ty := 0#5, sc := 0#3, ty2 := 0#5, per := 0#15 })
  | .brk h code => Raw.of h 0x189#10 (0#14) (0#14) (0#14) (Xm.bits { rnd := 0#2, ftz := false, ov := false, ty := 0#5, sc := 0#3, ty2 := 0#5, per := code })
  | .trapi h code d => Raw.of h 0x18A#10 (d.enc) (0#14) (0#14) (Xm.bits { rnd := 0#2, ftz := false, ov := false, ty := 0#5, sc := 0#3, ty2 := 0#5, per := code })
  | .ld h ty sc ord lk slot d a b => Raw.of h 0x1C0#10 (d.enc) (a.enc) (b.enc) (Xm.bits { rnd := 0#2, ftz := false, ov := false, ty := ty.code, sc := sc.code, ty2 := 0#5, per := slot ++ BitVec.ofBool lk ++ ord.code })
  | .ldLong h d a imm => Raw.of h 0x1C1#10 (d.enc) (a.enc) (0#14) (imm)
  | .st h ty sc ord lk slot d a b => Raw.of h 0x1C2#10 (d.enc) (a.enc) (b.enc) (Xm.bits { rnd := 0#2, ftz := false, ov := false, ty := ty.code, sc := sc.code, ty2 := 0#5, per := slot ++ BitVec.ofBool lk ++ ord.code })
  | .stLong h d a imm => Raw.of h 0x1C3#10 (d.enc) (a.enc) (0#14) (imm)
  | .aadd h ty sc ord d a b => Raw.of h 0x1D0#10 (d.enc) (a.enc) (b.enc) (Xm.bits { rnd := 0#2, ftz := false, ov := false, ty := ty.code, sc := sc.code, ty2 := 0#5, per := 0#13 ++ ord.code })
  | .amin h ty sc ord d a b => Raw.of h 0x1D1#10 (d.enc) (a.enc) (b.enc) (Xm.bits { rnd := 0#2, ftz := false, ov := false, ty := ty.code, sc := sc.code, ty2 := 0#5, per := 0#13 ++ ord.code })
  | .amax h ty sc ord d a b => Raw.of h 0x1D2#10 (d.enc) (a.enc) (b.enc) (Xm.bits { rnd := 0#2, ftz := false, ov := false, ty := ty.code, sc := sc.code, ty2 := 0#5, per := 0#13 ++ ord.code })
  | .aand h ty sc ord d a b => Raw.of h 0x1D3#10 (d.enc) (a.enc) (b.enc) (Xm.bits { rnd := 0#2, ftz := false, ov := false, ty := ty.code, sc := sc.code, ty2 := 0#5, per := 0#13 ++ ord.code })
  | .aor h ty sc ord d a b => Raw.of h 0x1D4#10 (d.enc) (a.enc) (b.enc) (Xm.bits { rnd := 0#2, ftz := false, ov := false, ty := ty.code, sc := sc.code, ty2 := 0#5, per := 0#13 ++ ord.code })
  | .axor h ty sc ord d a b => Raw.of h 0x1D5#10 (d.enc) (a.enc) (b.enc) (Xm.bits { rnd := 0#2, ftz := false, ov := false, ty := ty.code, sc := sc.code, ty2 := 0#5, per := 0#13 ++ ord.code })
  | .axch h ty sc ord d a b => Raw.of h 0x1D6#10 (d.enc) (a.enc) (b.enc) (Xm.bits { rnd := 0#2, ftz := false, ov := false, ty := ty.code, sc := sc.code, ty2 := 0#5, per := 0#13 ++ ord.code })
  | .acas h ty sc ar d a b c => Raw.of h 0x1D7#10 (d.enc) (a.enc) (b.enc) (Xc.bits { rnd := 0#2, ftz := false, ov := false, ty := ty.code, sc := sc.code, ty2 := 0#5, flag := ar, c := c.enc })
  | .afadd h ty sc ord d a b => Raw.of h 0x1D8#10 (d.enc) (a.enc) (b.enc) (Xm.bits { rnd := 0#2, ftz := false, ov := false, ty := ty.code, sc := sc.code, ty2 := 0#5, per := 0#13 ++ ord.code })
  | .ldsp h ty sc ord d a b => Raw.of h 0x200#10 (d.enc) (a.enc) (b.enc) (Xm.bits { rnd := 0#2, ftz := false, ov := false, ty := ty.code, sc := sc.code, ty2 := 0#5, per := 0#13 ++ ord.code })
  | .ldspLong h d a imm => Raw.of h 0x201#10 (d.enc) (a.enc) (0#14) (imm)
  | .stsp h ty sc ord d a b => Raw.of h 0x202#10 (d.enc) (a.enc) (b.enc) (Xm.bits { rnd := 0#2, ftz := false, ov := false, ty := ty.code, sc := sc.code, ty2 := 0#5, per := 0#13 ++ ord.code })
  | .stspLong h d a imm => Raw.of h 0x203#10 (d.enc) (a.enc) (0#14) (imm)
  | .ldsg h ty sc ord d a b => Raw.of h 0x204#10 (d.enc) (a.enc) (b.enc) (Xm.bits { rnd := 0#2, ftz := false, ov := false, ty := ty.code, sc := sc.code, ty2 := 0#5, per := 0#13 ++ ord.code })
  | .stsg h ty sc ord d a b => Raw.of h 0x205#10 (d.enc) (a.enc) (b.enc) (Xm.bits { rnd := 0#2, ftz := false, ov := false, ty := ty.code, sc := sc.code, ty2 := 0#5, per := 0#13 ++ ord.code })
  | .symst h ty cpx d a b => Raw.of h 0x210#10 (d.enc) (a.enc) (b.enc) (Xm.bits { rnd := 0#2, ftz := false, ov := false, ty := ty.code, sc := 0#3, ty2 := 0#5, per := 0#14 ++ BitVec.ofBool cpx })
  | .push h cnt d a => Raw.of h 0x218#10 (d.enc) (a.enc) (0#14) (Xm.bits { rnd := 0#2, ftz := false, ov := false, ty := 0#5, sc := 0#3, ty2 := 0#5, per := 0#11 ++ cnt })
  | .pop h cnt d a => Raw.of h 0x219#10 (d.enc) (a.enc) (0#14) (Xm.bits { rnd := 0#2, ftz := false, ov := false, ty := 0#5, sc := 0#3, ty2 := 0#5, per := 0#11 ++ cnt })
  | .pfet h tr a b => Raw.of h 0x220#10 (0#14) (a.enc) (b.enc) (Xm.bits { rnd := 0#2, ftz := false, ov := false, ty := 0#5, sc := 0#3, ty2 := 0#5, per := 0#14 ++ BitVec.ofBool tr })
  | .fence h sc fk => Raw.of h 0x228#10 (0#14) (0#14) (0#14) (Xm.bits { rnd := 0#2, ftz := false, ov := false, ty := 0#5, sc := sc.code, ty2 := 0#5, per := 0#13 ++ fk.code })
  | .copyl h sz d a => Raw.of h 0x240#10 (d.enc) (a.enc) (0#14) (Xm.bits { rnd := 0#2, ftz := false, ov := false, ty := 0#5, sc := 0#3, ty2 := 0#5, per := 0#13 ++ sz.code })
  | .copyt h a => Raw.of h 0x241#10 (0#14) (a.enc) (0#14) (Xm.bits { rnd := 0#2, ftz := false, ov := false, ty := 0#5, sc := 0#3, ty2 := 0#5, per := 0#15 })
  | .copyg h a => Raw.of h 0x242#10 (0#14) (a.enc) (0#14) (Xm.bits { rnd := 0#2, ftz := false, ov := false, ty := 0#5, sc := 0#3, ty2 := 0#5, per := 0#15 })
  | .mma h ty ty2 scl d a b c => Raw.of h 0x280#10 (d.enc) (a.enc) (b.enc) (Xc.bits { rnd := 0#2, ftz := false, ov := false, ty := ty.code, sc := 0#3, ty2 := ty2.code, flag := scl, c := c.enc })
  | .mchb h d a => Raw.of h 0x281#10 (d.enc) (a.enc) (0#14) (Xm.bits { rnd := 0#2, ftz := false, ov := false, ty := 0#5, sc := 0#3, ty2 := 0#5, per := 0#15 })
  | .mche h d => Raw.of h 0x282#10 (d.enc) (0#14) (0#14) (Xm.bits { rnd := 0#2, ftz := false, ov := false, ty := 0#5, sc := 0#3, ty2 := 0#5, per := 0#15 })
  | .accz h d => Raw.of h 0x283#10 (d.enc) (0#14) (0#14) (Xm.bits { rnd := 0#2, ftz := false, ov := false, ty := 0#5, sc := 0#3, ty2 := 0#5, per := 0#15 })
  | .accsc h d a => Raw.of h 0x284#10 (d.enc) (a.enc) (0#14) (Xm.bits { rnd := 0#2, ftz := false, ov := false, ty := 0#5, sc := 0#3, ty2 := 0#5, per := 0#15 })
  | .acccvt h ty scl a b c => Raw.of h 0x285#10 (0#14) (a.enc) (b.enc) (Xc.bits { rnd := 0#2, ftz := false, ov := false, ty := ty.code, sc := 0#3, ty2 := 0#5, flag := scl, c := c.enc })
  | .lda h d a b => Raw.of h 0x286#10 (d.enc) (a.enc) (b.enc) (Xm.bits { rnd := 0#2, ftz := false, ov := false, ty := 0#5, sc := 0#3, ty2 := 0#5, per := 0#15 })
  | .sta h d a b => Raw.of h 0x287#10 (d.enc) (a.enc) (b.enc) (Xm.bits { rnd := 0#2, ftz := false, ov := false, ty := 0#5, sc := 0#3, ty2 := 0#5, per := 0#15 })
  | .guide h d a b => Raw.of h 0x288#10 (d.enc) (a.enc) (b.enc) (Xm.bits { rnd := 0#2, ftz := false, ov := false, ty := 0#5, sc := 0#3, ty2 := 0#5, per := 0#15 })
  | .pairx h rj => Raw.of h 0x289#10 (0#14) (0#14) (0#14) (Xm.bits { rnd := 0#2, ftz := false, ov := false, ty := 0#5, sc := 0#3, ty2 := 0#5, per := 0#14 ++ BitVec.ofBool rj })
  | .mbxtake h tr d a b => Raw.of h 0x2C0#10 (d.enc) (a.enc) (b.enc) (Xm.bits { rnd := 0#2, ftz := false, ov := false, ty := 0#5, sc := 0#3, ty2 := 0#5, per := 0#14 ++ BitVec.ofBool tr })
  | .mbxpost h tr d a b => Raw.of h 0x2C1#10 (d.enc) (a.enc) (b.enc) (Xm.bits { rnd := 0#2, ftz := false, ov := false, ty := 0#5, sc := 0#3, ty2 := 0#5, per := 0#14 ++ BitVec.ofBool tr })
  | .mbxdone h d a b => Raw.of h 0x2C2#10 (d.enc) (a.enc) (b.enc) (Xm.bits { rnd := 0#2, ftz := false, ov := false, ty := 0#5, sc := 0#3, ty2 := 0#5, per := 0#15 })
  | .recEmit h gr d a => Raw.of h 0x2C8#10 (d.enc) (a.enc) (0#14) (Xm.bits { rnd := 0#2, ftz := false, ov := false, ty := 0#5, sc := 0#3, ty2 := 0#5, per := 0#7 ++ gr })
  | .recget h d a => Raw.of h 0x2C9#10 (d.enc) (a.enc) (0#14) (Xm.bits { rnd := 0#2, ftz := false, ov := false, ty := 0#5, sc := 0#3, ty2 := 0#5, per := 0#15 })
  | .fork h d a b => Raw.of h 0x2D0#10 (d.enc) (a.enc) (b.enc) (Xm.bits { rnd := 0#2, ftz := false, ov := false, ty := 0#5, sc := 0#3, ty2 := 0#5, per := 0#15 })
  | .phase h => Raw.of h 0x2D1#10 (0#14) (0#14) (0#14) (Xm.bits { rnd := 0#2, ftz := false, ov := false, ty := 0#5, sc := 0#3, ty2 := 0#5, per := 0#15 })
  | .roleqRes h d a => Raw.of h 0x2D8#10 (d.enc) (a.enc) (0#14) (Xm.bits { rnd := 0#2, ftz := false, ov := false, ty := 0#5, sc := 0#3, ty2 := 0#5, per := 0#13 ++ 0#2 })
  | .roleqPub h a b => Raw.of h 0x2D8#10 (0#14) (a.enc) (b.enc) (Xm.bits { rnd := 0#2, ftz := false, ov := false, ty := 0#5, sc := 0#3, ty2 := 0#5, per := 0#13 ++ 1#2 })
  | .roleqTake h d a => Raw.of h 0x2D8#10 (d.enc) (a.enc) (0#14) (Xm.bits { rnd := 0#2, ftz := false, ov := false, ty := 0#5, sc := 0#3, ty2 := 0#5, per := 0#13 ++ 2#2 })
  | .roleqFree h a b => Raw.of h 0x2D8#10 (0#14) (a.enc) (b.enc) (Xm.bits { rnd := 0#2, ftz := false, ov := false, ty := 0#5, sc := 0#3, ty2 := 0#5, per := 0#13 ++ 3#2 })
  | .drain h a => Raw.of h 0x2E0#10 (0#14) (a.enc) (0#14) (Xm.bits { rnd := 0#2, ftz := false, ov := false, ty := 0#5, sc := 0#3, ty2 := 0#5, per := 0#15 })
  | .lref h slot d => Raw.of h 0x300#10 (d.enc) (0#14) (0#14) (Xm.bits { rnd := 0#2, ftz := false, ov := false, ty := 0#5, sc := 0#3, ty2 := 0#5, per := 0#3 ++ slot })
  | .lbind h slot d a b => Raw.of h 0x301#10 (d.enc) (Opd.encOpt a) (b.enc) (Xm.bits { rnd := 0#2, ftz := false, ov := false, ty := 0#5, sc := 0#3, ty2 := 0#5, per := 0#3 ++ slot })
  | .lunb h slot d a => Raw.of h 0x302#10 (d.enc) (Opd.encOpt a) (0#14) (Xm.bits { rnd := 0#2, ftz := false, ov := false, ty := 0#5, sc := 0#3, ty2 := 0#5, per := 0#3 ++ slot })
  | .lqry h slot d a => Raw.of h 0x303#10 (d.enc) (Opd.encOpt a) (0#14) (Xm.bits { rnd := 0#2, ftz := false, ov := false, ty := 0#5, sc := 0#3, ty2 := 0#5, per := 0#3 ++ slot })
  | .sega h d a => Raw.of h 0x310#10 (d.enc) (a.enc) (0#14) (Xm.bits { rnd := 0#2, ftz := false, ov := false, ty := 0#5, sc := 0#3, ty2 := 0#5, per := 0#15 })
  | .segf h a => Raw.of h 0x311#10 (0#14) (a.enc) (0#14) (Xm.bits { rnd := 0#2, ftz := false, ov := false, ty := 0#5, sc := 0#3, ty2 := 0#5, per := 0#15 })
  | .segq h wd d a => Raw.of h 0x312#10 (d.enc) (a.enc) (0#14) (Xm.bits { rnd := 0#2, ftz := false, ov := false, ty := 0#5, sc := 0#3, ty2 := 0#5, per := 0#11 ++ wd })
  | .segrt h a b => Raw.of h 0x313#10 (0#14) (a.enc) (b.enc) (Xm.bits { rnd := 0#2, ftz := false, ov := false, ty := 0#5, sc := 0#3, ty2 := 0#5, per := 0#15 })
  | .seal h => Raw.of h 0x340#10 (0#14) (0#14) (0#14) (Xm.bits { rnd := 0#2, ftz := false, ov := false, ty := 0#5, sc := 0#3, ty2 := 0#5, per := 0#15 })
  | .waitb h a => Raw.of h 0x341#10 (0#14) (a.enc) (0#14) (Xm.bits { rnd := 0#2, ftz := false, ov := false, ty := 0#5, sc := 0#3, ty2 := 0#5, per := 0#15 })
  | .bar h => Raw.of h 0x348#10 (0#14) (0#14) (0#14) (Xm.bits { rnd := 0#2, ftz := false, ov := false, ty := 0#5, sc := 0#3, ty2 := 0#5, per := 0#15 })
  | .cbar h => Raw.of h 0x349#10 (0#14) (0#14) (0#14) (Xm.bits { rnd := 0#2, ftz := false, ov := false, ty := 0#5, sc := 0#3, ty2 := 0#5, per := 0#15 })
  | .arrive h rm a b c => Raw.of h 0x350#10 (0#14) (a.enc) (b.enc) (Xc.bits { rnd := 0#2, ftz := false, ov := false, ty := 0#5, sc := 0#3, ty2 := 0#5, flag := rm, c := c.enc })
  | .await h a b => Raw.of h 0x351#10 (0#14) (a.enc) (b.enc) (Xm.bits { rnd := 0#2, ftz := false, ov := false, ty := 0#5, sc := 0#3, ty2 := 0#5, per := 0#15 })
  | .sread h ac d a => Raw.of h 0x358#10 (d.enc) (a.enc) (0#14) (Xm.bits { rnd := 0#2, ftz := false, ov := false, ty := 0#5, sc := 0#3, ty2 := 0#5, per := 0#14 ++ BitVec.ofBool ac })
  | .swrite h d b => Raw.of h 0x359#10 (d.enc) (0#14) (b.enc) (Xm.bits { rnd := 0#2, ftz := false, ov := false, ty := 0#5, sc := 0#3, ty2 := 0#5, per := 0#15 })
  | .acqGrant _ _ _ => Raw.zero
  | .acqDenial _ _ _ => Raw.zero
  | .joinRelease _ _ => Raw.zero
  | .collectiveExecute _ _ => Raw.zero
  | .napExpiry _ _ _ => Raw.zero
  | .loadReturn _ _ _ => Raw.zero
  | .atomicReturn _ => Raw.zero
  | .remoteWriteApply _ _ => Raw.zero
  | .fenceComplete _ _ _ => Raw.zero
  | .pageMigration _ _ _ _ => Raw.zero
  | .patrolScrub _ _ _ => Raw.zero
  | .demandPageService _ _ _ _ => Raw.zero
  | .privateGrowthService _ _ _ => Raw.zero
  | .twinWaitResolve _ _ => Raw.zero
  | .copyLanding _ _ => Raw.zero
  | .copyFault _ _ => Raw.zero
  | .mmaStep _ _ => Raw.zero
  | .mchbApply _ _ => Raw.zero
  | .mcheApply _ _ => Raw.zero
  | .acczApply _ _ => Raw.zero
  | .accscApply _ _ => Raw.zero
  | .acccvtApply _ _ => Raw.zero
  | .staApply _ _ => Raw.zero
  | .guideApply _ _ => Raw.zero
  | .mbxtakeWake _ _ => Raw.zero
  | .mbxpostWake _ _ => Raw.zero
  | .nodeCountdownExpiry _ _ _ => Raw.zero
  | .childAdmit _ _ => Raw.zero
  | .spillRefill _ _ => Raw.zero
  | .forkResume _ _ _ => Raw.zero
  | .inlineChildEnd _ => Raw.zero
  | .phaseReseat _ => Raw.zero
  | .roleqWake _ _ => Raw.zero
  | .pennantPass _ _ => Raw.zero
  | .nameResolution _ _ _ => Raw.zero
  | .sealRelease _ _ _ => Raw.zero
  | .waitbRelease _ _ _ => Raw.zero
  | .barRelease _ => Raw.zero
  | .cbarRelease _ => Raw.zero
  | .arriveApply _ => Raw.zero
  | .awaitRelease _ _ => Raw.zero
  | .bandSelect _ => Raw.zero
  | .admissionCommit _ => Raw.zero
  | .seating _ => Raw.zero
  | .groupRestore _ => Raw.zero
  | .groupPreempt _ => Raw.zero
  | .partitionSave _ _ => Raw.zero
  | .partitionRestore _ _ => Raw.zero
  | .partitionExchange _ _ => Raw.zero
  | .haltLineArrival _ _ => Raw.zero
  | .haltSettled _ => Raw.zero
  | .unbindComplete _ _ _ => Raw.zero
  | .moveComplete _ => Raw.zero
  | .scrubComplete => Raw.zero
  | .serviceWindowAccess _ _ _ => Raw.zero
  | .mailboxSubmit _ _ _ => Raw.zero
  | .recordAccept _ _ => Raw.zero
  | .launchRecord _ _ _ => Raw.zero
  | .ctxCreate _ _ => Raw.zero
  | .ctxDestroy _ => Raw.zero
  | .segCreate _ _ => Raw.zero
  | .segFree _ _ => Raw.zero
  | .codeInstall _ _ => Raw.zero
  | .codeRemove _ _ => Raw.zero
  | .mailboxSet _ _ _ => Raw.zero
  | .unbind _ _ => Raw.zero
  | .stop _ => Raw.zero
  | .resumeCtx _ => Raw.zero
  | .teardown _ => Raw.zero
  | .readHalt _ _ => Raw.zero
  | .reply _ _ _ => Raw.zero
  | .eventRing _ _ _ _ => Raw.zero
  | .eventRingConsumed _ _ => Raw.zero
  | .leaseRenew _ _ => Raw.zero
  | .leaseTake _ _ => Raw.zero
  | .leaseCountdown => Raw.zero
  | .setMode _ _ => Raw.zero
  | .powerCap _ _ => Raw.zero
  | .sealKey _ _ _ _ _ => Raw.zero
  | .aperture _ _ => Raw.zero
  | .bind _ _ => Raw.zero
  | .bar2Access _ _ _ _ _ => Raw.zero
  | .bar0WriteOther _ _ => Raw.zero
  | .peerTimeout _ => Raw.zero
  | .fabricPortFail _ => Raw.zero
  | .lockstepMismatch _ => Raw.zero
  | .heartbeat => Raw.zero
  | .ensignTakeover => Raw.zero
  | .coldBoot _ => Raw.zero
  | .warmReset _ => Raw.zero
  | .dieReset _ => Raw.zero
  | .levelRaise => Raw.zero
  | .spdmRequest _ _ => Raw.zero
  | .tdiConfigChange _ => Raw.zero
  | .pageSeal _ _ _ => Raw.zero
  | .powerThrottle _ _ => Raw.zero
  | .powerRestore _ => Raw.zero
  | .peerRequest _ => Raw.zero
  | .peerGrant _ _ _ _ => Raw.zero
  | .tdispRequest _ _ => Raw.zero
  | .fabricPortRetrained _ => Raw.zero

/-- The word of an instruction. -/
def encodeWord (i : Instr) : W96 := (encodeRaw i).toWord
/-- The mask of a list of bytes: bit i is set when byte i is not zero (R72). -/
def maskOf : List Byte → Nat
  | [] => 0
  | b :: bs => (if b == 0#8 then 0 else 1) + 2 * maskOf bs
/-- The canonical packed form of a word: its mask and its non-zero bytes (R70, R72). -/
def pack (w : W96) : List Byte :=
  let bs := bytesOfNat 12 w.toNat
  bytesOfNat 2 (maskOf bs) ++ bs.filter (· != 0#8)
/-- The canonical packed bytes of an instruction. -/
def encode (i : Instr) : List Byte := pack (encodeWord i)

/-- The instruction the decoder reads from the word w of a row of the opcode table, whose bits are those of W (R53);
every bit above nbits is 0. -/
def decodeTableWord (nbits w : Nat) : Option Instr :=
  match decode (pack (BitVec.ofNat 96 (w % 2 ^ nbits))) with
  | .ok (i, _, _) => some i
  | .error _ => none

end Sys2Proof
end

