-- ==== Sys2Proof/Machine/Tab.lean ====
section
/-! DEFINITION. Sparse tables by number, and bytes of memory in one canonical form. -/

namespace Sys2Proof

/-- A sparse table: pairs of a key and a value, written with the keys rising. -/
abbrev Tab (α : Type) := List (Nat × α)

/-- The value under a key, if one is listed. -/
def tabGet {α : Type} : Tab α → Nat → Option α
  | [], _ => none
  | (k, v) :: t, i => if k == i then some v else tabGet t i
/-- The value under a key, or the default. -/
def tabGetD {α : Type} (t : Tab α) (i : Nat) (d : α) : α := (tabGet t i).getD d
/-- The table with a value under a key. -/
def tabSet {α : Type} : Tab α → Nat → α → Tab α
  | [], i, x => [(i, x)]
  | (k, v) :: t, i, x =>
    if k == i then (i, x) :: t
    else if i < k then (i, x) :: (k, v) :: t
    else (k, v) :: tabSet t i x
/-- The table without a key. -/
def tabDel {α : Type} (t : Tab α) (i : Nat) : Tab α := t.filter fun p => p.1 != i
/-- The table with the value under a key changed, where one is listed. -/
def tabMod {α : Type} : Tab α → Nat → (α → α) → Tab α
  | [], _, _ => []
  | (k, v) :: t, i, f => if k == i then (k, f v) :: t else (k, v) :: tabMod t i f

end Sys2Proof
end

