-- ==== Sys2Proof/Machine/State.lean ====
section
/-! DEFINITION. The state of the device as plain data: everything the spec gives it (R11, R103, R161, R179, R205, R230,
R255, R283, R299, R320, R341), the model's own schedule, and the state after reset. -/

namespace Sys2Proof.Machine

/-- A program counter: a code selector and a header offset (R161). -/
structure PC where
  sel : BitVec 16
  off : Word
  deriving DecidableEq, Repr

/-- What a queue wait waits for (R336, kind 12). -/
inductive QWait where
  | take (mbx : Nat)
  | post (mbx : Nat)
  | roleq (q : Nat) (k : Word) (take : Bool) (dst : BitVec 6)
  | recs
  | phase
  | drain (graph : Nat)
  | engine
  deriving DecidableEq, Repr

/-- The waits of a thread (R161, R336). A page wait of a fetch names the lowest byte that met it (R76); a fence names the first write that it
does not wait for. -/
inductive Wait where
  | none
  | join (mask : Word) (at_ : PC)
  | ijoin (at_ : PC) (group : Bool)
  | bar (ordered : Bool)
  | cbar (ordered : Bool) (arrived : Bool)
  | waitb (n : Word)
  | acq (n : Nat) (q : BitVec 3) (tr : Bool)
  | twin
  | bind (sel : BitVec 16) (slot : BitVec 12)
  | page (handle : W64) (fetch : Bool)
  | growth (handle : W64)
  | trap (event : Word) (dst : Opd) (code : BitVec 15) (ans : Option Word)
  | seal
  | await (index : Nat) (target : Word)
  | queue (q : QWait)
  | fence (sc : Scope) (upTo : Nat)
  | unbind (sel : BitVec 16) (slot : BitVec 12) (q : BitVec 3) (applied : Bool)
  | guide
  | inl
  deriving DecidableEq, Repr

/-- One entry of the last-result queue: its value, the access it is still pending on (R105), and whether its word holds an uncorrectable
error (R189). -/
structure LEntry where
  val : Word
  pend : Option Nat
  bad : Bool
  deriving DecidableEq, Repr

/-- The last-result queue L0 to L3 (R103). -/
structure LQueue where
  l0 : LEntry
  l1 : LEntry
  l2 : LEntry
  l3 : LEntry
  deriving DecidableEq, Repr

/-- A thread (R11, R103, R161, R283). vUnder keeps the held registers of the programs outside the inline child it runs (R246); woken
says that a wait of a frozen band is to be retried when its context resumes (R324, R330); fences are its release fences, the latest at each
scope, with the names of the writes that each publishes with the stores that follow (R303). -/
structure Thread where
  pc : PC
  live : Bool
  stopped : Bool
  breakPassed : Bool
  demoted : Bool
  yielded : Bool
  depth : Nat
  xstack : List (BitVec 16 × BitVec 12)
  wait : Wait
  next : PC
  nap : Nat
  spin : Option (PC × PC)
  v : Tab Word
  vUnder : List (Tab Word)
  o : Tab Word
  lq : LQueue
  pend : Tab Nat
  p : BitVec 7
  fflags : Word
  batch : Word
  bdone : Word
  openOps : Nat
  sealed : List Nat
  ix : Word
  iy : Word
  iz : Word
  canon : Bool
  record : Option (List Byte)
  pcChanged : Bool
  woken : Bool
  fences : List (Scope × List Nat)
  deriving DecidableEq, Repr

/-- What a stop record says of its band's or engine's own fault (R326, R327); pc is that of an engine's. -/
structure FaultInfo where
  reason : Nat
  active : Word
  word : W96
  byteOff : Word
  arg : W64
  primary : Bool
  late : Bool
  second : Bool
  pc : Option PC
  deriving DecidableEq, Repr

/-- A band's GUIDE that waits for its twin's (R228). -/
structure GuidePend where
  d : Nat
  a : Nat
  w : Word
  pc : PC
  count : Word
  deriving DecidableEq, Repr

/-- The BRK stop whose code a band's record carries (R177): its code, the cycle it happened in, and its lowest lane. -/
structure BrkStop where
  code : BitVec 15
  cyc : Nat
  lane : Nat
  deriving DecidableEq, Repr

/-- What a program outside the inline child that its band runs keeps (R103, R246): its held chunks, and its B registers, of which the frames
save those of lanes that have a thread. -/
structure Under where
  held : Nat
  chunks : List Nat
  b : Tab Word
  deriving DecidableEq, Repr

/-- A band (R11, R103, R179, R205). under keeps what the programs outside the inline child it runs hold (R246), the innermost first. -/
structure Band where
  slice : Nat
  seat : Nat
  cls : Nat
  threads : List Thread
  b : Tab Word
  q : BitVec 7
  held : Nat
  paired : Bool
  mmaCount : Word
  guideCount : Word
  hwm : Nat
  cbase : W64
  row0 : Nat
  chunks : List Nat
  under : List Under
  brk : Option BrkStop
  guide : Option GuidePend
  fault : Option FaultInfo
  deriving DecidableEq, Repr

/-- Where a group is (R271): on its core, in the core's phase queue, swapped out by FORK, pre-empted alone, held with its
partition in a shadow slot, or ended; moving is the save or restore under way (R220). -/
inductive GPlace where
  | seated
  | phase
  | forked
  | preempted
  | shadow (slot : Nat) (seated : Bool)
  | ended
  deriving DecidableEq, Repr

/-- One generator of a launch's symmetry (R100). -/
structure Gen where
  kind : Nat
  axis1 : Nat
  axis2 : Nat
  shift : Nat
  deriving DecidableEq, Repr

/-- One stage of a launch block (R99). -/
structure Stage where
  entry : Word
  regs : Nat
  groups : Nat
  scratch : Nat
  deriving DecidableEq, Repr

/-- A launch block (R99), parsed. -/
structure Block where
  gang : Bool
  twin : Bool
  sym : Bool
  node : Bool
  shape : Nat × Nat × Nat
  cluster : Nat × Nat × Nat
  box : Nat × Nat × Nat
  gens : List Gen
  recBytes : Nat
  perGroup : Nat
  countdown : Nat
  stages : List Stage
  code : BitVec 16
  deriving DecidableEq, Repr

/-- A launch under way (R12, R201). bound lists its clusters whose bind records the policy or a host has begun to write (R17). -/
structure Launch where
  ctx : Nat
  block : Block
  handle : W64
  arg : W64
  fixed : Word
  parent : Option Nat
  mbx : Option (Nat × Nat)
  graph : Option Nat
  records : List (List Byte)
  toCommit : Nat
  groupsLeft : Nat
  bound : List Nat
  deriving DecidableEq, Repr

/-- An admitted cluster: its partition, cluster number, the groups of the launch, and its barrier record (R271, R283). -/
structure Cluster where
  lid : Nat
  part : Nat
  number : Nat
  arrivals : Nat
  generation : Word
  deriving DecidableEq, Repr

/-- A thread's part in an engine operation: the band, the lane and the batch it joined (R209). -/
structure Join where
  gid : Nat
  band : Nat
  lane : Nat
  batch : Word
  deriving DecidableEq, Repr

/-- What a matrix command does (R221 to R228). -/
inductive MKind where
  | mma (tile : Nat) (a b : Nat) (fa fb : Ty) (scl : Bool) (sw : Word)
  | mchb (tile : Nat) (anchor : Int)
  | mche (tile : Nat)
  | accz (tile : Nat)
  | accsc (tile : Nat) (off : Nat)
  | acccvt (tile : Nat) (fmt : Ty) (scl : Bool) (out sout : Nat)
  | sta (tile row : Nat) (vals : List (Nat × Word × Word))
  | guide (d c u : Nat) (w : Word)
  deriving DecidableEq, Repr

/-- A command of the matrix command queue (R205); got holds the words of its scratchpad operands that it has read so far (R221, R310). -/
structure MCmd where
  id : Nat
  ctx : Nat
  gid : Nat
  band : Nat
  pc : PC
  kind : MKind
  joins : List Join
  copy : Option Nat
  got : Tab Nat
  deriving DecidableEq, Repr

/-- The chain of a tile (R49, R51): its anchor, the tile's values at MCHB, and for each element the sum of the products so far as a
multiple of the window's least bit, and the NaN, +∞ and −∞ bits in bits 0 to 2. -/
structure Chain where
  anchor : Int
  acc0 : Tab Word
  sums : Tab Int
  spec : Tab Nat
  deriving DecidableEq, Repr

/-- An accumulator tile (R34, R179): its elements by 64 i + j, its overflow flag, its chain, and whether a chain is
open in the order of the commands already issued (R223). -/
structure Tile where
  acc : Tab Word
  ovf : Bool
  chain : Option Chain
  openIssued : Bool
  deriving DecidableEq, Repr

/-- What a core holds for the record at the head of its slot table as it becomes free (R19): seats and register counts of each slice, and
scratchpad bytes. -/
structure Hold where
  seats0 : Nat
  seats1 : Nat
  regs0 : Nat
  regs1 : Nat
  scratch : Nat
  deriving DecidableEq, Repr

/-- A bind record (R270), with what its core holds for it while it waits for its reservation, and the seats that it has reserved for each
band of each group (R19). -/
structure BindRec where
  kind : Nat
  cls : Nat
  gang : Bool
  rsv : Bool
  ctx : Nat
  tag : Word
  handle : W64
  cluster : Nat
  position : Nat
  arg : W64
  lid : Option Nat
  gid : Option Nat
  reserved : Bool
  hold : Hold
  places : List (List (Nat × Nat))
  deriving DecidableEq, Repr

/-- An entry of a link cache (R266). -/
structure LinkEnt where
  ctx : Nat
  sel : BitVec 16
  slot : BitVec 12
  gen : Word
  target : W64
  kind : Nat
  rights : BitVec 5
  deriving DecidableEq, Repr

/-- What a core's engines held for a context as its halt line arrived (R327): whether the copy engine held work, its line operations in
flight, its tile and gather operations, and the PC of its last completed copy; and whether the matrix engine held work. -/
structure EngineStop where
  copy : Bool
  lines : Nat
  tiled : Nat
  copyPc : Option PC
  matrix : Bool
  deriving DecidableEq, Repr

/-- A core (R11, R179, R205, R230, R255, R283). Its seats and pools are held as the places and chunks of its groups'
bands. stop is what its engines held when a halt line arrived (R327); vacant and blank are the storage that no
group holds: the words the service window has written or read there, and whether the rest reads zero (R332). -/
structure Core where
  cyc : W64
  rr : Tab Nat
  slots : List BindRec
  phaseQ : List Nat
  tiles : Tab Tile
  mq : List MCmd
  links : List LinkEnt
  pages : List Nat
  lastTile : Option Nat
  lastPc : Option PC
  mFault : Option FaultInfo
  copyPc : Option PC
  cFault : Option FaultInfo
  stop : Option EngineStop
  teamNext : Nat
  vacant : Tab Word
  blank : Bool
  deriving DecidableEq, Repr

/-- A child-queue or spill-queue entry (R245, R247). -/
structure Child where
  lid : Nat
  ctx : Nat
  handle : W64
  arg : W64
  count : Nat
  parent : Nat
  graph : Option Nat
  deriving DecidableEq, Repr

/-- A node's gather buffer in a cluster (R243), with its countdown. -/
structure Gather where
  ctx : Nat
  handle : W64
  graph : Nat
  running : Bool
  count : Word
  records : List (List Byte)
  deriving DecidableEq, Repr

/-- A partition (R11, R230). -/
structure Partition where
  owner : Option Nat
  tag : Word
  nextTag : Word
  children : List Child
  gathers : List Gather
  deriving DecidableEq, Repr

/-- A segment descriptor (R260, R261). kind 0 is free. -/
structure Desc where
  kind : Nat
  limit : Nat
  rights : BitVec 5
  affinity : Nat
  gen : BitVec 16
  viewGen : BitVec 16
  base : Nat
  under : BitVec 16
  elem : Nat
  nx : Nat
  ny : Nat
  nz : Nat
  sx : Int
  sy : Int
  sz : Int
  slots : Nat
  carries : Nat
  syms : Nat
  launchSel : BitVec 16
  launches : Nat
  device : Nat
  peerSel : BitVec 16
  keySlot : Nat
  port : Nat
  deriving DecidableEq, Repr

/-- A carry record (R100); bad says that a reserved bit of it is set (R8). -/
structure Carry where
  site : Word
  v : List Nat
  b : List Nat
  o : List Nat
  l : List Nat
  p : List Nat
  q : List Nat
  bad : Bool
  deriving DecidableEq, Repr

/-- An import kept with a code segment (R98, R262). -/
structure Import where
  kind : Nat
  rights : BitVec 5
  name : List Byte
  deriving DecidableEq, Repr

/-- What a code segment holds besides its bytes, in device-private storage (R262), with the generations of its data segment and its
launch-block segment as they were made. -/
structure CodeInfo where
  imports : List Import
  carry : List Carry
  syms : List (Option (List Gen))
  dataSel : BitVec 16
  dataGen : BitVec 16
  launchGen : BitVec 16
  deriving DecidableEq, Repr

/-- The states of a binding entry (R265). -/
inductive BState where
  | unbound | resolving | bound | failed | revoked
  deriving DecidableEq, Repr

/-- A binding entry (R265); parked splits are the threads whose wait names it. -/
structure Binding where
  state : BState
  kind : Nat
  rights : BitVec 5
  position : Nat
  target : W64
  gen : Word
  inflight : Nat
  parked : Nat
  order : List (BitVec 16)
  event : Option Word
  pendingUnbind : List (Bool × Req)
  deriving DecidableEq, Repr

/-- A mailbox (R230, R233): its descriptor, its sequences, the mirrored records not yet complete, and the records of submissions
that are still to be accepted, each with whether it is its submission's last and its inline bytes. -/
structure Mailbox where
  toHost : Bool
  enabled : Bool
  launcher : Bool
  slots : Nat
  ring : W64
  ack : W64
  compl : W64
  accepted : Nat
  watermark : Nat
  taken : Nat
  consumed : Nat
  done : List Nat
  recs : Tab (List Byte)
  incoming : List (Nat × Bool × Option (List Byte))
  port : Nat
  deriving DecidableEq, Repr

/-- A claim event (R259), with the party that handles it, whether its reply is still awaited, and what a fault report
carries beyond the fields of R259: the lane and the kind of access or the stage (R191, R219). -/
structure Claim where
  cls : Nat
  handled : Bool
  reply : Bool
  ctx : Nat
  seq : Word
  pc : W64
  arg : W64
  group : Word
  word : Word
  owner : BitVec 3
  answered : Bool
  gid : Nat
  band : Nat
  detail : List Nat
  deriving DecidableEq, Repr

/-- The halt states of a context (R329). -/
inductive HaltState where
  | running | halting | halted
  deriving DecidableEq, Repr

/-- A white or black pennant at a member of a graph's ring (R253, R254). -/
structure Pennant where
  graph : Nat
  gid : Nat
  band : Nat
  start : Nat
  at_ : Nat
  black : Bool
  moved : Bool
  deriving DecidableEq, Repr

/-- A grant between contexts of two devices (R348). -/
structure Grant where
  ctx : Nat
  dev : Nat
  peerCtx : Nat
  outgoing : Bool
  deriving DecidableEq, Repr

/-- A context (R255, R256, R230, R320). -/
structure Context where
  number : Nat
  pool : Nat
  laneDebug : Bool
  escalate : Bool
  confidential : Bool
  privMax : Nat
  spill : W64
  spillCap : Nat
  spillQ : List Child
  lookup : List (BitVec 16)
  unclaimed : Word
  claimMap : List Byte
  segs : Tab Desc
  codes : Tab CodeInfo
  bindings : Tab Binding
  mailboxes : Tab Mailbox
  eventSeq : Word
  line : Bool
  arrived : List Nat
  halt : HaltState
  haltSeq : Word
  haltReason : Nat
  haltPc : W64
  haltBy : Option (Nat × Nat)
  area : List (List Byte)
  heldTeardown : List (Bool × Req)
  pennants : List Pennant
  blacks : List (Nat × Nat)
  deriving DecidableEq, Repr

/-- A memory key: one byte of one memory of the device or beyond it (see Ops). -/
abbrev Key := Nat

/-- What a write publishes by a release (R303, R304): the scope of the release, the party that made it, and the names of the writes that
happen before it. -/
structure Rel where
  sc : Scope
  gid : Nat
  band : Nat
  lane : Nat
  die : Nat
  hb : List Nat
  deriving DecidableEq, Repr

/-- A write to device memory that is not yet settled on every die (R299, R306): who made it, the die it was made on, the
bytes, its stamp once it has left, and the dies that have applied it, its own among them once others there may see it (R308). rels are the
releases that it makes or carries: its own, those of its thread's fences before it, and those of a write that an atomic replaced (R303); sym
says that it is an image of a SYMST (R311), and hb names the writes of the chain before it; rmw that it is an atomic's. -/
structure WriteRec where
  id : Nat
  gid : Nat
  band : Nat
  lane : Nat
  die : Nat
  bytes : List (Key × Byte)
  stamp : Option (List Nat)
  applied : List Nat
  rels : List Rel
  sym : Bool
  hb : List Nat
  rmw : Bool
  deriving DecidableEq, Repr

/-- A plain store to host memory that the host has not seen yet (R312), or, with port 2 or 3, a store or an atomic to scratchpad or to a peer
that only its thread sees yet (R308): the instruction it belongs to, its bytes, the groups that an order has made it visible to (R304),
whether that is every group, whether it follows the other stores of its instruction (R201), and whether it is an atomic's. -/
structure Posted where
  id : Nat
  ins : Nat
  gid : Nat
  band : Nat
  lane : Nat
  port : Nat
  bytes : List (Key × Byte)
  vis : List Nat
  dev : Bool
  seq : Bool
  rmw : Bool
  deriving DecidableEq, Repr

/-- A load, an atomic or a store to a peer that has not returned, and where its result goes (R105, R194, R195, R349); an acquire load keeps
its scope, and the bytes that later loads of its thread have sampled; cyc is the cycle it issued in. -/
structure LoadRec where
  id : Nat
  gid : Nat
  band : Nat
  lane : Nat
  dst : Opd
  ty : Ty
  atomic : Bool
  keys : List Key
  val : W64
  frozen : Bool
  peer : Bool
  pc : PC
  handle : W64
  active : Word
  acq : Option Scope
  sampled : List Key
  cyc : Nat
  deriving DecidableEq, Repr

/-- An end of a copy (R208): its selector and exact offset, the lane of a COPYL, none for a copy of a band, where
an 0xFFFC offset is a region offset, and the group whose allotment a scratchpad or window end lies in. -/
structure CEnd where
  sel : BitVec 16
  off : Int
  lane : Option Nat
  gid : Option Nat
  deriving DecidableEq, Repr

/-- One part of a copy: a row, an element, a plane tile or a scale tile (R213, R216, R217). A plane tile has
64 source rows of n bytes. Its bytes are kept here when they were read for an earlier receiver (R214); got and out are source bytes read
and destination bytes written ahead of the rest (R310), and started says that its line operations are in flight (R324). -/
structure Piece where
  src : List CEnd
  dst : CEnd
  n : Nat
  planes : Option Ty
  bound : Option (BitVec 16)
  buf : Option (List Byte)
  got : Tab Byte
  out : List Nat
  started : Bool
  landed : Bool
  deriving DecidableEq, Repr

/-- A copy accepted by a copy engine (R205): its descriptor snapshot, its pieces, its arrival counter with the groups it
arrives in, its follow-on MMA until that is issued, its joins, whether all has landed, and whether it has gone into a save image with its
group (R205, R335). -/
structure Copy where
  id : Nat
  ctx : Nat
  gid : Nat
  band : Nat
  core : Nat
  pc : PC
  tiled : Bool
  desc : List Byte
  pieces : List Piece
  arrv : Option (Nat × List Nat)
  follow : Option MKind
  joins : List Join
  landed : Bool
  away : Bool
  deriving DecidableEq, Repr

/-- An arrival on its way (R290, R291). -/
structure Arrival where
  id : Nat
  src : Nat
  band : Nat
  lanes : Word
  gid : Nat
  index : Nat
  n : Word
  deriving DecidableEq, Repr

/-- An image in a shadow slot (R338, R339): the cores, the partition, its groups, whether its context's line was high, the context's halt
state and sequence with the partition's stop records, and the colours and pennants of its members. -/
structure Shadow where
  part : Nat
  cores : Tab Core
  partition : Partition
  gids : List Nat
  halted : Bool
  halt : HaltState
  haltSeq : Word
  records : List (List Byte)
  blacks : List (Nat × Nat)
  pennants : List Pennant
  deriving DecidableEq, Repr

/-- A die (R299, R341, R350). -/
structure Die where
  clock : List Nat
  corrected : Tab Word
  uncorrected : Tab Word
  heartbeat : Word
  lapsed : Bool
  pairLive : Bool
  deriving DecidableEq, Repr

/-- The states of a port's TDI (R358). -/
inductive Tdi where
  | unlocked | locked | run | error
  deriving DecidableEq, Repr

/-- A host port (R341 to R346, R358). -/
structure Port where
  ringHandle : W64
  ringIndex : W64
  ringCtx : Nat
  ringSize : Nat
  produced : Nat
  consumed : Word
  acked : Nat
  delivered : List Claim
  held : List Claim
  aperture : Option (Nat × BitVec 16 × BitVec 16)
  tdi : Tdi
  readData : List Byte
  unsupported : Bool
  msiEvents : Nat
  msiResps : Nat
  notices : Nat
  deriving DecidableEq, Repr

/-- A response to a request (R344). -/
structure Resp where
  party : Party
  tag : BitVec 16
  status : Nat
  value : W64
  deriving DecidableEq, Repr

/-- A page-key slot (R361): the context and segment it serves, the wrapped key, the tag array, and the last status word. -/
structure KeySlot where
  ctx : Nat
  sel : BitVec 16
  key : List Byte
  tags : W64
  status : Nat
  deriving DecidableEq, Repr

/-- One running inline child group (R246): the child's launch and group number so far, the threads of the parent by band,
the cross-call entries their frames hold, and where FORK goes on. -/
structure Inline where
  block : Block
  handle : W64
  arg : W64
  count : Nat
  index : Nat
  lid : Nat
  masks : List Word
  held : List (BitVec 16 × BitVec 12)
  next : PC
  deriving DecidableEq, Repr

/-- A group (R12, R14, R179, R205, R230, R283). known names the writes to device memory that happen before what it does next (R304). -/
structure Group where
  ctx : Nat
  lid : Nat
  cid : Nat
  number : Nat
  unit : Nat
  stage : Nat
  position : Nat
  n : Nat
  budget : Nat
  scratch : Nat
  scratchBase : Nat
  entry : PC
  core : Nat
  place : GPlace
  moving : Bool
  teamOrder : Nat
  bands : List Band
  accMask : BitVec 16
  inlmax : Word
  inl : List Inline
  arrive : Tab Word
  cbarCount : Word
  graph : Option Nat
  node : Bool
  halted : Bool
  tiles : Tab Tile
  saveQ : List MCmd
  follows : List MCmd
  known : List Nat
  deriving DecidableEq, Repr

/-- The split that is issuing (R27): its group and band, its mask, its PC, the sequential successor, and its word. -/
structure Slot where
  gid : Nat
  band : Nat
  active : Word
  pc : PC
  next : PC
  word : W96
  second : Bool
  deriving DecidableEq, Repr

/-- The device. cycleId is the first name that the cycle now issuing has given (R194). The requests of a port behind a CTX_CREATE of its that
waits for a scrub are kept in late, in their order (R344, R362). retired names the pages of device memory that error recovery has retired
(R353); versions are those of sealed pages, by name (R361); shut says that the scrub a reset repeats keeps everything out (R362). -/
structure State where
  cur : Option Slot
  issueQ : List Slot
  schedule : List Instr
  turn : Nat
  cycle : Nat
  cycleId : Nat
  nextId : Nat
  free : Nat
  groups : Tab Group
  launches : Tab Launch
  clusters : Tab Cluster
  cores : Tab Core
  parts : Tab Partition
  shadows : Tab Shadow
  dies : Tab Die
  ctxs : Tab Context
  mem : List Host.Cell
  writes : List WriteRec
  posted : List Posted
  loads : List LoadRec
  copies : List Copy
  arrivals : List Arrival
  claims : List Claim
  grants : List Grant
  absent : List Key
  homes : Tab Nat
  eccBad : List Key
  retired : List Nat
  versions : Tab Nat
  shut : Bool
  ports : Tab Port
  resps : List Resp
  svcData : W64
  unheld : List Claim
  creates : List (Req × List Byte)
  late : List Instr
  peerAns : Option (List Byte)
  leaseHolder : BitVec 2
  leaseCounter : Word
  mode : BitVec 6
  ensign : Option Nat
  level : Nat
  conf : Bool
  scrubOwed : Bool
  scrubbing : Bool
  entropyFails : Nat
  meas : Tab (List Byte)
  measDone : List Nat
  keys : Tab KeySlot
  powerCap : Nat
  clockSteps : Nat
  lms : W64
  fabricUp : BitVec 24
  device : BitVec 8
  attested : List Nat
  deriving DecidableEq, Repr

/-- Why the machine stops. -/
inductive Fault where
  /-- Raised by every program instruction when no seated split is issuing; step never asks for it (it sets the split
  first). The spec knows no such execution: safe. -/
  | noSplit
  deriving DecidableEq, Repr

/-- Why the machine has no meaning for an instruction. -/
inductive Refusal where
  /-- Raised by an arm of exec that has no meaning yet: safe. -/
  | notModelled (mnemonic : String)
  deriving DecidableEq, Repr

/-- An empty entry of the last-result queue. -/
def LEntry.zero : LEntry := ⟨0, none, false⟩
/-- An empty last-result queue (R103). -/
def LQueue.zero : LQueue := ⟨.zero, .zero, .zero, .zero⟩
/-- A core as it leaves reset (R11, R179, R205, R230, R255, R283). -/
def Core.zero : Core := ⟨0, [], [], [], [], [], [], [], none, none, none, none, none, none, 0, [], false⟩
/-- An unused tile (R179, R205). -/
def Tile.zero : Tile := ⟨[], false, none, false⟩
/-- A partition after reset (R11, R230). -/
def Partition.zero : Partition := ⟨none, 0, 0, [], []⟩
/-- A die after reset (R299, R341). -/
def Die.zero : Die := ⟨[0, 0, 0, 0], [], [], 0, false, true⟩
/-- A host port after reset (R341 to R346). -/
def Port.zero : Port := ⟨0, 0, 0, 0, 0, 0, 0, [], [], none, .unlocked, [], false, 0, 0, 0⟩
/-- Nothing held (R19). -/
def Hold.zero : Hold := ⟨0, 0, 0, 0, 0⟩
/-- A free descriptor (R260). -/
def Desc.zero : Desc := ⟨0, 0, 0, 0, 0, 0, 0, 0, 0, 0, 0, 0, 0, 0, 0, 0, 0, 0, 0, 0, 0, 0, 0, 0⟩

/-- The machine after reset: nothing seated, no context, S.LEVEL 0, the registers of R341 at their reset values; the values
the spec leaves to the boot configuration or 'as left' are those of log entry 9. -/
def State.reset : State where
  cur := none
  issueQ := []
  schedule := []
  turn := 0
  cycle := 0
  cycleId := 0
  nextId := 0
  free := 0
  groups := []
  launches := []
  clusters := []
  cores := []
  parts := []
  shadows := []
  dies := []
  ctxs := []
  mem := []
  writes := []
  posted := []
  loads := []
  copies := []
  arrivals := []
  claims := []
  grants := []
  absent := []
  homes := []
  eccBad := []
  retired := []
  versions := []
  shut := false
  ports := []
  resps := []
  svcData := 0
  unheld := []
  creates := []
  late := []
  peerAns := none
  leaseHolder := 0
  leaseCounter := 0
  mode := 0b111111
  ensign := none
  level := 0
  conf := false
  scrubOwed := false
  scrubbing := false
  entropyFails := 0
  meas := []
  measDone := []
  keys := []
  powerCap := 2400
  clockSteps := 20
  lms := 0
  fabricUp := BitVec.allOnes 24
  device := 0
  attested := []

end Sys2Proof.Machine
end

