-- ==== Sys2Proof/Machine/Ops.lean ====
section
/-! DEFINITION. The named operations over the state: its parts, a thread's registers and last-result queue, the waits,
taking a halt and resuming from one (R321 to R331), claim events (R257 to R259) and responses (R344). -/

namespace Sys2Proof.Machine

/-- The outcome of every meaning. -/
abbrev Out := Host.Outcome State Fault Refusal

/-- A list with the element at a place changed. -/
def listMod {α : Type} : List α → Nat → (α → α) → List α
  | [], _, _ => []
  | x :: t, 0, f => f x :: t
  | x :: t, i + 1, f => x :: listMod t i f

/-- A list with every element changed by its place. -/
def mapIdx {α β : Type} (f : Nat → α → β) : List α → Nat → List β
  | [], _ => []
  | x :: t, i => f i x :: mapIdx f t (i + 1)

/-! ### Parts of the state -/

/-- A group by its name. -/
def State.group? (s : State) (gid : Nat) : Option Group := tabGet s.groups gid
/-- A band of a group. -/
def State.band? (s : State) (gid band : Nat) : Option Band := (s.group? gid).bind fun g => g.bands[band]?
/-- A thread of a band. -/
def State.thread? (s : State) (gid band lane : Nat) : Option Thread := (s.band? gid band).bind fun b => b.threads[lane]?
/-- The state with a group changed. -/
def State.modGroup (s : State) (gid : Nat) (f : Group → Group) : State := { s with groups := tabMod s.groups gid f }
/-- A group with a band changed. -/
def Group.modBand (g : Group) (band : Nat) (f : Band → Band) : Group := { g with bands := listMod g.bands band f }
/-- The state with a band changed. -/
def State.modBand (s : State) (gid band : Nat) (f : Band → Band) : State := s.modGroup gid fun g => g.modBand band f
/-- A band with a thread changed. -/
def Band.modThread (b : Band) (lane : Nat) (f : Thread → Thread) : Band := { b with threads := listMod b.threads lane f }
/-- The state with a thread changed. -/
def State.modThread (s : State) (gid band lane : Nat) (f : Thread → Thread) : State :=
  s.modBand gid band fun b => b.modThread lane f
/-- A core; one not written since reset is as it leaves reset. -/
def State.core (s : State) (c : Nat) : Core := tabGetD s.cores c .zero
/-- The state with a core changed. -/
def State.modCore (s : State) (c : Nat) (f : Core → Core) : State := { s with cores := tabSet s.cores c (f (s.core c)) }
/-- A partition. -/
def State.part (s : State) (p : Nat) : Partition := tabGetD s.parts p .zero
/-- The state with a partition changed. -/
def State.modPart (s : State) (p : Nat) (f : Partition → Partition) : State :=
  { s with parts := tabSet s.parts p (f (s.part p)) }
/-- A die. -/
def State.die (s : State) (d : Nat) : Die := tabGetD s.dies d .zero
/-- The state with a die changed. -/
def State.modDie (s : State) (d : Nat) (f : Die → Die) : State := { s with dies := tabSet s.dies d (f (s.die d)) }
/-- A host port. -/
def State.port (s : State) (p : Nat) : Port := tabGetD s.ports p .zero
/-- The state with a port changed. -/
def State.modPort (s : State) (p : Nat) (f : Port → Port) : State := { s with ports := tabSet s.ports p (f (s.port p)) }
/-- A context by its number. -/
def State.ctx? (s : State) (n : Nat) : Option Context := tabGet s.ctxs n
/-- The state with a context changed. -/
def State.modCtx (s : State) (n : Nat) (f : Context → Context) : State := { s with ctxs := tabMod s.ctxs n f }
/-- A launch. -/
def State.launch? (s : State) (l : Nat) : Option Launch := tabGet s.launches l
/-- The state with a launch changed. -/
def State.modLaunch (s : State) (l : Nat) (f : Launch → Launch) : State := { s with launches := tabMod s.launches l f }
/-- The state with an admitted cluster changed. -/
def State.modCluster (s : State) (c : Nat) (f : Cluster → Cluster) : State :=
  { s with clusters := tabMod s.clusters c f }
/-- A new name, and the state that has given it. -/
def State.fresh (s : State) : Nat × State := (s.nextId, { s with nextId := s.nextId + 1 })
/-- The next free value, and the state that has given it (log entry 5). -/
def State.freeWord (s : State) : BitVec 64 × State := (Config.freeValue s.free, { s with free := s.free + 1 })
/-- k free bytes, and the state that has given them (log entry 5). -/
def State.freeBytes (s : State) (k : Nat) : List Byte × State :=
  ((List.range k).map fun i => Config.freeByte (s.free + i), { s with free := s.free + k })

/-- The partition of a core, by its number in the device (R1, R4). -/
def partOf (core : Nat) : Nat := core / Config.coresPerCluster
/-- The die of a core (R1): two clusters a die. -/
def dieOf (core : Nat) : Nat := core / (2 * Config.coresPerCluster)

/-! ### Program counters and masks -/

/-- The 64-bit value of a PC, by which PCs are ordered (R162). -/
def PC.val (p : PC) : W64 := p.sel ++ 0#16 ++ p.off
/-- A PC from its 64-bit form. -/
def PC.ofVal (v : W64) : PC := ⟨v.extractLsb' 48 16, v.extractLsb' 0 32⟩
/-- Whether one PC is below another (R162). -/
def PC.lt (p q : PC) : Bool := p.val.toNat < q.val.toNat
/-- The mask of the lanes for which a test holds, lane 0 in bit 0. -/
def maskOfLanes (f : Thread → Bool) (ts : List Thread) : Word :=
  (mapIdx (fun i t => if f t then BitVec.twoPow 32 i else 0#32) ts 0).foldl (· ||| ·) 0#32
/-- Whether a thread takes part in its group's program now: it is live, and not outside or done with an inline child that
runs (R246). -/
def Thread.here (t : Thread) : Bool := t.live && t.wait != Wait.inl
/-- S.LIVE (R104). -/
def Band.sLive (b : Band) : Word := maskOfLanes (·.live) b.threads
/-- The live threads that a band's gathers and votes count: those of S.LIVE, but for the ones an inline child leaves waiting
(R246, log entry 17). -/
def Band.live (b : Band) : Word := maskOfLanes Thread.here b.threads
/-- The lanes of a mask, lowest first. -/
def lanesOf (m : Word) : List Nat := (List.range 32).filter fun i => m.getLsbD i

/-! ### Registers of a thread and a band (R103, R105) -/

/-- A V register. -/
def Thread.getV (t : Thread) (i : Nat) : Word := tabGetD t.v i 0
/-- An O register. -/
def Thread.getO (t : Thread) (i : Nat) : Word := tabGetD t.o i 0
/-- A P register; P7 reads true (R55). -/
def Thread.getP (t : Thread) (i : BitVec 3) : Bool := i == 7#3 || t.p.getLsbD i.toNat
/-- A B register. -/
def Band.getB (b : Band) (i : Nat) : Word := tabGetD b.b i 0
/-- A Q register; Q7 reads true (R55). -/
def Band.getQ (b : Band) (i : BitVec 3) : Bool := i == 7#3 || b.q.getLsbD i.toNat
/-- An entry of the last-result queue. -/
def LQueue.get (q : LQueue) (i : BitVec 2) : LEntry :=
  if i == 0#2 then q.l0 else if i == 1#2 then q.l1 else if i == 2#2 then q.l2 else q.l3
/-- A push (R105): L2 to L3, L1 to L2, L0 to L1, and the result to L0. -/
def LQueue.push (q : LQueue) (e : LEntry) : LQueue := ⟨e, q.l0, q.l1, q.l2⟩
/-- A bit field with one bit written. -/
def setBit7 (m : BitVec 7) (i : BitVec 3) (v : Bool) : BitVec 7 :=
  if v then m ||| BitVec.twoPow 7 i.toNat else m &&& ~~~(BitVec.twoPow 7 i.toNat)
/-- The thread with a V register written. -/
def Thread.setV (t : Thread) (i : Nat) (x : Word) : Thread := { t with v := tabSet t.v i x }
/-- The thread with an O register written. -/
def Thread.setO (t : Thread) (i : Nat) (x : Word) : Thread := { t with o := tabSet t.o i x }
/-- The thread with a result pushed (R105). -/
def Thread.push (t : Thread) (x : Word) : Thread := { t with lq := t.lq.push ⟨x, none, false⟩ }
/-- The thread with a P register written and the result pushed; a write to P7 is discarded and still pushes (R55, R105). -/
def Thread.setP (t : Thread) (i : BitVec 3) (x : Bool) : Thread :=
  ({ t with p := if i == 7#3 then t.p else setBit7 t.p i x }).push (if x then 1 else 0)
/-- The band with a B register written. -/
def Band.setB (b : Band) (i : Nat) (x : Word) : Band := { b with b := tabSet b.b i x }
/-- The band with a Q register written; a write to Q7 is discarded (R55). -/
def Band.setQ (b : Band) (i : BitVec 3) (x : Bool) : Band := { b with q := if i == 7#3 then b.q else setBit7 b.q i x }
/-- The band with a B pair written, bits [31:0] in the even register (R231). -/
def Band.setBPair (b : Band) (i : Nat) (x : W64) : Band :=
  (b.setB i (x.extractLsb' 0 32)).setB (i + 1) (x.extractLsb' 32 32)
/-- A B pair. -/
def Band.getBPair (b : Band) (i : Nat) : W64 := b.getB (i + 1) ++ b.getB i
/-- A V pair. -/
def Thread.getVPair (t : Thread) (i : Nat) : W64 := t.getV (i + 1) ++ t.getV i
/-- The thread with a 32-bit result written to V, O or L and pushed (R105). -/
def Thread.put32 (t : Thread) (d : Opd) (x : Word) : Thread :=
  (match d with
    | .v i => t.setV i.toNat x
    | .o i => t.setO i.toNat x
    | _ => t).push x
/-- The thread with a 64-bit result written to a V pair and pushed twice, the low word first (R105). -/
def Thread.put64 (t : Thread) (d : Opd) (x : W64) : Thread :=
  let lo := x.extractLsb' 0 32
  let hi := x.extractLsb' 32 32
  ((match d with
    | .v i => (t.setV i.toNat lo).setV (i.toNat + 1) hi
    | _ => t).push lo).push hi
/-- The thread with a result of either width written and pushed. -/
def Thread.put (t : Thread) (wide : Bool) (d : Opd) (x : W64) : Thread :=
  if wide then t.put64 d x else t.put32 d (x.extractLsb' 0 32)

/-- A register's number among those a load can leave pending: V, then O. -/
def regKey : Opd → Option Nat
  | .v i => some i.toNat
  | .o i => some (256 + i.toNat)
  | _ => none
/-- Whether an operand is free of pending loads (R111): V and O by register, L by queue entry. -/
def Thread.ready (t : Thread) (o : Opd) (wide : Bool) : Bool :=
  match o with
  | .v i => (tabGet t.pend i.toNat).isNone && (!wide || (tabGet t.pend (i.toNat + 1)).isNone)
  | .o i => (tabGet t.pend (256 + i.toNat)).isNone
  | .l i => (t.lq.get i).pend.isNone
  | _ => true

/-! ### Waiting and advancing -/

/-- A change to every thread of a band whose lane is in a mask. -/
def Band.onLanes (b : Band) (m : Word) (f : Nat → Thread → Thread) : Band :=
  { b with threads := mapIdx (fun i t => if m.getLsbD i then f i t else t) b.threads 0 }
/-- Where a lane meets a condition, a change to every thread of its band that meets it in the same cycle. -/
def Band.releaseAll (b : Band) (lane : Nat) (ok : Thread → Bool) (f : Thread → Thread) : Band :=
  if ((b.threads[lane]?).map ok).getD false then { b with threads := b.threads.map fun t => if ok t then f t else t } else b
/-- A thread gone on to the successor of its instruction, which it reaches by falling through (R75). -/
def Thread.advance (t : Thread) (to_ : PC) : Thread := { t with pc := to_, wait := .none, pcChanged := false }
/-- A thread that waits at its instruction; it will go on to next when the wait completes. -/
def Thread.hold (t : Thread) (w : Wait) (next : PC) : Thread := { t with wait := w, next := next }
/-- A thread whose wait is over: it goes on to the successor it held. -/
def Thread.release (t : Thread) : Thread := { t with pc := t.next, wait := .none, pcChanged := false }
/-- A thread whose wait is over and that retries its instruction (R322). -/
def Thread.retry (t : Thread) : Thread := { t with wait := .none }

/-! ### Claim events (R257 to R259) and responses (R344) -/

/-- The claim classes (R258). -/
abbrev clPlacement : Nat := 0
/-- Claim class (R258). -/
abbrev clMailbox : Nat := 1
/-- Claim class (R258). -/
abbrev clBreak : Nat := 2
/-- Claim class (R258). -/
abbrev clSoftware : Nat := 3
/-- Claim class (R258). -/
abbrev clMemerr : Nat := 4
/-- Claim class (R258). -/
abbrev clCopyerr : Nat := 5
/-- Claim class (R258). -/
abbrev clResolve : Nat := 6
/-- Claim class (R258). -/
abbrev clPage : Nat := 7
/-- Claim class (R258). -/
abbrev clGrowth : Nat := 8
/-- Claim class (R258). -/
abbrev clHalt : Nat := 9

/-- The 32 bytes of a claim event (R259); handled is set in a host's copy of an event the service pair handles. -/
def Claim.bytes (c : Claim) (handled : Bool) : List Byte :=
  [BitVec.ofNat 8 c.cls, (if handled then 1 else 0) ||| (if c.reply then 2 else 0)] ++ bytesOfNat 2 c.ctx
    ++ bytesOfNat 4 c.seq.toNat ++ bytesOfNat 8 c.pc.toNat ++ bytesOfNat 8 c.arg.toNat ++ bytesOfNat 4 c.group.toNat
    ++ bytesOfNat 4 c.word.toNat

/-- The owner bits of a class in a context's claim map (R257). -/
def Context.owners (x : Context) (cls : Nat) : BitVec 3 := (x.claimMap.getD cls 0).extractLsb' 0 3
/-- Saturating increment of 32 bits. -/
def satInc (w : Word) : Word := if w == BitVec.allOnes 32 then w else w + 1

/-- An event put in a port's queue; R346 moves it into the ring in order, when there is room. -/
def State.toPort (s : State) (p : Nat) (c : Claim) : State := s.modPort p fun q => { q with held := q.held ++ [c] }

/-- The port of the host that holds the lease, if one does (R347). -/
def State.holderPort (s : State) : Option Nat :=
  if s.leaseHolder == 1#2 then some 0 else if s.leaseHolder == 2#2 then some 1 else none

/-- Posts one claim event of a context (R257, R259): its sequence, whether some party owns its class, and the new state.
The event waits in the queues of the hosts that receive it; one that both hosts own waits, while none holds the lease, for the
first that takes it. -/
def State.postWith (s : State) (ctx cls : Nat) (gid band : Nat) (pc arg : W64) (word : Word) (reply : Bool)
    (detail : List Nat) : Word × Bool × State :=
  match s.ctx? ctx with
  | none => (0, false, s)
  | some x =>
    let seq := x.eventSeq + 1
    let own := x.owners cls
    let grp : Word :=
      match s.group? gid with
      | some g => BitVec.ofNat 32 ((((tabGet s.clusters g.cid).map (·.number)).getD 0) * 65536 + g.number)
      | none => 0
    let svc := own.getLsbD 2
    let both := own == 3#3
    let c : Claim :=
      { cls := cls, handled := svc, reply := reply && own != 0#3, ctx := ctx, seq := seq, pc := pc, arg := arg,
        group := grp, word := word, owner := own, answered := false, gid := gid, band := band, detail := detail }
    let s := s.modCtx ctx fun x =>
      { x with eventSeq := seq, unclaimed := if own == 0#3 then satInc x.unclaimed else x.unclaimed }
    if own == 0#3 then (seq, false, s)
    else
      let s := { s with claims := s.claims ++ [c] }
      let s :=
        if both then
          match s.holderPort with
          | some p => s.toPort p c
          | none => { s with unheld := s.unheld ++ [c] }
        else
          let s := if own.getLsbD 0 then s.toPort 0 c else s
          if own.getLsbD 1 then s.toPort 1 c else s
      (seq, true, s)
/-- A claim event with no more than the fields of R259. -/
def State.post (s : State) (ctx cls : Nat) (gid band : Nat) (pc arg : W64) (word : Word) (reply : Bool) :
    Word × Bool × State :=
  s.postWith ctx cls gid band pc arg word reply []

/-- A claim event whose class-specific word, and its argument where none is given, the spec does not state: they are free
values (log entry 5). -/
def State.postOpen (s : State) (ctx cls : Nat) (gid band : Nat) (pc : W64) (arg : Option W64) (reply : Bool) : Word × Bool × State :=
  let (w, s) := s.freeWord
  let (a, s) := match arg with
    | some a => (a, s)
    | none => s.freeWord
  s.post ctx cls gid band pc a (w.extractLsb' 0 32) reply

/-- Whether a party handles an event of a class (R257). -/
def State.handles (s : State) (own : BitVec 3) (p : Party) : Bool :=
  if own.getLsbD 2 then p == .service
  else if own == 3#3 then
    (p == .hostA && s.leaseHolder == 1#2) || (p == .hostB && s.leaseHolder == 2#2)
  else (own == 1#3 && p == .hostA) || (own == 2#3 && p == .hostB)

/-! ### Taking a halt (R321 to R325) -/

/-- The reason codes of R321. -/
abbrev rIllegalInstruction : Nat := 1
/-- Reason code (R321). -/
abbrev rIllegalOperand : Nat := 2
/-- Reason code (R321). -/
abbrev rPackedCode : Nat := 3
/-- Reason code (R321). -/
abbrev rMisaligned : Nat := 4
/-- Reason code (R321). -/
abbrev rLimit : Nat := 5
/-- Reason code (R321). -/
abbrev rNull : Nat := 6
/-- Reason code (R321). -/
abbrev rFreed : Nat := 7
/-- Reason code (R321). -/
abbrev rPrivate : Nat := 8
/-- Reason code (R321). -/
abbrev rPage : Nat := 9
/-- Reason code (R321). -/
abbrev rRights : Nat := 10
/-- Reason code (R321). -/
abbrev rCollective : Nat := 11
/-- Reason code (R321). -/
abbrev rTwin : Nat := 12
/-- Reason code (R321). -/
abbrev rScaleLayout : Nat := 13
/-- Reason code (R321). -/
abbrev rUnresolved : Nat := 14
/-- Reason code (R321). -/
abbrev rSealCheck : Nat := 15
/-- Reason code (R321). -/
abbrev rWorkOverflow : Nat := 16
/-- Reason code (R321). -/
abbrev rBreak : Nat := 17
/-- Reason code (R321). -/
abbrev rMemerr : Nat := 18
/-- Reason code (R321). -/
abbrev rCopyerr : Nat := 19
/-- Reason code (R321). -/
abbrev rStopped : Nat := 20

/-- The halt line of a context rises (R323, R329): the sequence goes up by one, the halt area empties (R320), and the
state becomes HALTING. A line already high stays. -/
def State.raiseLine (s : State) (ctx reason : Nat) (pc : W64) : State :=
  s.modCtx ctx fun x =>
    if x.line then x
    else
      { x with
        line := true, arrived := [], halt := .halting, haltSeq := x.haltSeq + 1, haltReason := reason, haltPc := pc, haltBy := none, area := [] }
/-- The state with no fault of a context marked PRIMARY. -/
def State.noPrimary (s : State) (ctx : Nat) : State :=
  { s with
    groups := s.groups.map fun p => if p.2.ctx == ctx then
        (p.1, { p.2 with bands := p.2.bands.map fun b => { b with fault := b.fault.map fun f => { f with primary := false } } }) else p
    cores := s.cores.map fun p => if (s.part (partOf p.1)).owner == some ctx then
        (p.1, { p.2 with
          mFault := p.2.mFault.map fun f => { f with primary := false }
          cFault := p.2.cFault.map fun f => { f with primary := false } }) else p }
/-- The rank of a fault among those of one cycle (R323): by core, and in it by slice and seat, engines last. -/
def bandRank (g : Group) (b : Band) : Nat := 64 * g.core + 16 * b.slice + b.seat
/-- The rank of an engine's fault (R323): the matrix engine's before the copy engine's, which the rule does not order. -/
def engineRank (core : Nat) (copy : Bool) : Nat := 64 * core + (if copy then 33 else 32)
/-- A fault raises its context's line (R323): whether it is the primary, whether it is LATE, and the state. Of the faults of one cycle the
one of the lowest rank is the primary, and none of them is LATE. -/
def State.raiseFault (s : State) (ctx rank reason : Nat) (pc : W64) : Bool × Bool × State :=
  match s.ctx? ctx with
  | none => (false, false, s)
  | some x =>
    if !x.line then (true, false, (s.raiseLine ctx reason pc).modCtx ctx fun x => { x with haltBy := some (s.cycle, rank) })
    else
      match x.haltBy with
      | some (cycle, r) =>
        if cycle != s.cycle then (false, true, s)
        else if rank < r then
          (true, false, (s.noPrimary ctx).modCtx ctx fun x => { x with haltReason := reason, haltPc := pc, haltBy := some (cycle, rank) })
        else (false, false, s)
      | none => (false, true, s)

/-- A halting fault of a band (R323 to R325): the band keeps what its stop record will say, and the context's line rises. A band whose two
splits both fail keeps the first and marks SECOND (R69). The lanes stay where they are. -/
def State.takeHalt (s : State) (gid band reason : Nat) (active : Word) (pc : PC) (word : W96) (byteOff : Word) (arg : W64) :
    State :=
  match s.group? gid, s.band? gid band with
  | some g, some b =>
    match b.fault with
    | some _ => s.modBand gid band fun b => { b with fault := b.fault.map fun f => { f with second := true } }
    | none =>
      let r := s.raiseFault g.ctx (bandRank g b) reason pc.val
      r.2.2.modBand gid band fun b => { b with fault := some ⟨reason, active, word, byteOff, arg, r.1, r.2.1, false, none⟩ }
  | _, _ => s

/-- Whether a context's line has reached a core (R324). -/
def State.lineAt (s : State) (ctx core : Nat) : Bool := ((s.ctx? ctx).map fun x => x.line && x.arrived.contains core).getD false
/-- Whether a group's waits are frozen (R324): its context's line has reached its core, or is high while it is swapped out. -/
def State.frozen (s : State) (gid : Nat) : Bool :=
  match s.group? gid with
  | some g => ((s.ctx? g.ctx).map fun x => x.line && (x.arrived.contains g.core || g.place != GPlace.seated)).getD false
  | none => false
/-- A change by a release of waits, which a frozen group does not see (R324, R330). -/
def State.thaw (s : State) (gid : Nat) (s' : State) : State := if s.frozen gid then s else s'
/-- A band whose waits are not frozen. -/
def State.thawedBand? (s : State) (gid band : Nat) : Option Band := if s.frozen gid then none else s.band? gid band

/-- A halt of the issuing split (R321): its word and PC go into the stop record. A band whose two splits fail in one cycle keeps the
condition of the split at the lower PC (R69), whichever of the two this model runs first. -/
def State.haltSplit (s : State) (c : Slot) (reason : Nat) (arg : W64) : State :=
  match s.group? c.gid, (s.band? c.gid c.band).bind (·.fault) with
  | some g, some f =>
    if c.second then s.takeHalt c.gid c.band reason c.active c.pc c.word 0 arg
    else
      (s.modBand c.gid c.band fun b => { b with
        fault := some ⟨reason, c.active, c.word, 0, arg, f.primary, f.late, true, none⟩ }).modCtx g.ctx fun x =>
          if f.primary then { x with haltReason := reason, haltPc := c.pc.val } else x
  | _, _ => s.takeHalt c.gid c.band reason c.active c.pc c.word 0 arg

/-- The port a party's requests arrive on (R343); the service pair has an internal one. -/
def partyPort : Party → Option Nat
  | .hostA => some 0
  | .hostB => some 1
  | .service => none

end Sys2Proof.Machine
end

