-- ==== Sys2Proof/Machine/Flags.lean ====
section
/-! DEFINITION. Flags and conditions: S.FFLAGS (R34, R35, R140), the integer conditions (R118, R124, R130) and the
floating-point conditions (R145). -/

namespace Sys2Proof.Machine

/-- The six defined bits of S.FFLAGS; the others read zero (R8, R34). -/
abbrev fflagsMask : Word := 0x3F
/-- Flags are only set, never cleared, by an operation (R35), and setting them pushes nothing (R140). -/
def Thread.setFlags (t : Thread) (f : Word) : Thread := { t with fflags := t.fflags ||| f }
/-- SWRITE to S.FFLAGS (R297): reserved bits stay zero, and the write pushes. -/
def Thread.writeFlags (t : Thread) (w : Word) : Thread := ({ t with fflags := w &&& fflagsMask }).push (w &&& fflagsMask)

/-- An integer condition (R118). -/
def ccHolds (c : Cc) (a b : Int) : Bool :=
  match c with
  | .eq => a == b
  | .ne => a != b
  | .lt => a < b
  | .le => a ≤ b
  | .gt => b < a
  | .ge => b ≤ a
/-- HCMP (R130): equality on all 64 bits; order on the offsets, where the selectors are equal. -/
def ccHandles (c : Cc) (a b : W64) : Bool :=
  match c with
  | .eq => a == b
  | .ne => a != b
  | _ => a.extractLsb' 48 16 == b.extractLsb' 48 16 &&
      ccHolds c ((a.extractLsb' 0 48).toNat : Int) ((b.extractLsb' 0 48).toNat : Int)
/-- A floating-point condition (R145). -/
def fccHolds (c : Fcc) (o : Option Ordering) : Bool :=
  match o with
  | none =>
    match c with
    | .ne | .un => true
    | .eq | .lt | .le | .gt | .ge | .ord => false
  | some o =>
    match c with
    | .eq => o == .eq
    | .ne => o != .eq
    | .lt => o == .lt
    | .le => o != .gt
    | .gt => o == .gt
    | .ge => o != .lt
    | .un => false
    | .ord => true
/-- The flag of a comparison (R145): NV for a signalling NaN, and for a quiet one under the four orders. -/
def fccFlags (c : Fcc) (a b : FV) : Word :=
  let order : Bool :=
    match c with
    | .lt | .le | .gt | .ge => true
    | .eq | .ne | .un | .ord => false
  if a.isSnan || b.isSnan || (order && (a.isNan || b.isNan)) then fNV else 0
/-- A predicate operation (R118, R121). -/
def oplEval (o : Opl) (a b : Bool) : Bool :=
  match o with
  | .and => a && b
  | .or => a || b
  | .xor => a != b
  | .andn => a && !b

end Sys2Proof.Machine
end

