-- ==== Sys2Proof/Machine/Mem.lean ====
section
/-! DEFINITION. Memory: bytes in one canonical form, the keys that name them, the four die views of device memory
(R299, R306), and the checks that turn a handle into bytes (R180 to R190). -/

namespace Sys2Proof.Machine

/-! ### Bytes -/

/-- The byte at a key; a key that is not listed reads as 0 (log entry 6). -/
def memGet : List Host.Cell → Key → Byte
  | [], _ => 0
  | (j, c) :: t, k => if j == k then c else memGet t k
/-- The memory with a byte written; writing 0 removes the entry. -/
def memSet : List Host.Cell → Key → Byte → List Host.Cell
  | [], k, b => if b == 0 then [] else [(k, b)]
  | (j, c) :: t, k, b =>
    if k < j then (if b == 0 then (j, c) :: t else (k, b) :: (j, c) :: t)
    else if k == j then (if b == 0 then t else (k, b) :: t)
    else (j, c) :: memSet t k b
/-- The memory with a list of bytes written, the first first. -/
def memPut : List Host.Cell → List (Key × Byte) → List Host.Cell
  | m, [] => m
  | m, (k, b) :: t => memPut (memSet m k b) t
/-- Keys strictly rising from a bound on, and no entry 0. -/
def Memory.wfFrom : Nat → List Host.Cell → Bool
  | _, [] => true
  | n, (k, b) :: t => n ≤ k && b != 0 && Memory.wfFrom (k + 1) t
/-- The canonical form of memory. -/
def Memory.wf (m : List Host.Cell) : Bool := Memory.wfFrom 0 m

/-! ### Keys -/

/-- The key of a byte: the kind of memory, whose it is, and the byte's place in it. -/
def keyOf (tag id off : Nat) : Key := (id * 2 ^ 64 + off) * 8 + tag
/-- A byte of a described segment's own storage. -/
def segKey (ctx : Nat) (sel : BitVec 16) (off : Nat) : Key := keyOf 0 (ctx * 65536 + sel.toNat) off
/-- A byte of a group's scratchpad allotment (R183), wherever the group is (R184). -/
def scratchKey (gid off : Nat) : Key := keyOf 1 gid off
/-- A byte of a band's private region by its region offset (R185). -/
def regionKey (gid band off : Nat) : Key := keyOf 2 (gid * 32 + band) off
/-- A byte of a lane's private memory: word w of lane l lies at region offset 128 w + 4 l (R185). -/
def privKey (gid band lane off : Nat) : Key := regionKey gid band (128 * (off / 4) + 4 * lane + off % 4)
/-- A byte of the memory of the host on a port. -/
def hostKey (port addr : Nat) : Key := keyOf 3 port addr
/-- A byte of a sealed-host segment's evicted pages in host memory (R361); where a host keeps them the spec does not say (log entry 95). -/
def sealedKey (ctx : Nat) (sel : BitVec 16) (off : Nat) : Key := keyOf 3 (2 + ctx * 65536 + sel.toNat) off
/-- A byte of an element of a core's accumulator memory (R179, R189). -/
def accKey (core tile elem : Nat) : Key := keyOf 5 core (4 * (4096 * tile + elem))
/-- A byte of a word of a lane's register files (R103, R189): V registers from 0 on, O registers from 256 on, L0 to L3 from 272 on, and the
word of P0 to P6 at 276. A band's own files stand as those of lane 32: B registers from 0 on, and the word of Q0 to Q6 at 64. -/
def vKey (gid band lane reg : Nat) : Key := keyOf 6 (gid * 32 + band) (4 * (512 * lane + reg))
/-- A byte of a shadow slot's words (R189), of the word that stands for those of a group's image (log entry 91). -/
def shadowKey (slot gid : Nat) : Key := keyOf 7 slot (4 * gid)
/-- A byte of another device's segment (R348). -/
def peerKey (dev : Nat) (sel : BitVec 16) (off : Nat) : Key := keyOf 4 (dev * 65536 + sel.toNat) off
/-- The name of a page of a segment, for residence and home (R188). -/
def pageKey (ctx : Nat) (sel : BitVec 16) (page : Nat) : Key := (ctx * 65536 + sel.toNat) * 2 ^ 27 + page

/-! ### Die views (R306) -/

/-- Entrywise order of stamps. -/
def stampLe : List Nat → List Nat → Bool
  | x :: xs, y :: ys => x ≤ y && stampLe xs ys
  | _, _ => true
/-- Entrywise maximum. -/
def stampMax : List Nat → List Nat → List Nat
  | x :: xs, y :: ys => max x y :: stampMax xs ys
  | [], ys => ys
  | xs, [] => xs
/-- Whether a write precedes another (R306): its stamp is entrywise at most, one entry smaller. A write that has not left
its die follows every stamped write there, and follows those made before it. -/
def WriteRec.precedes (a b : WriteRec) : Bool :=
  match a.stamp, b.stamp with
  | some x, some y => stampLe x y && x != y
  | some _, none => true
  | none, some _ => false
  | none, none => a.id < b.id
/-- The byte a write puts at a key. -/
def WriteRec.byte? (w : WriteRec) (k : Key) : Option Byte := tabGet w.bytes k
/-- Whether two writes have a byte in common. -/
def WriteRec.overlaps (a b : WriteRec) : Bool := a.bytes.any fun p => (b.byte? p.1).isSome
/-- Of the writes no other applied write follows, the one from the die with the highest number (R306). -/
def pickWrite : List WriteRec → Option WriteRec
  | [] => none
  | w :: t =>
    match pickWrite t with
    | some u => if w.die ≤ u.die then some u else some w
    | none => some w
/-- The write whose byte a die shows (R306); none where it shows memory itself. -/
def State.viewWrite (s : State) (die : Nat) (k : Key) : Option WriteRec :=
  let cs := s.writes.filter fun w => w.applied.contains die && (w.byte? k).isSome
  pickWrite (cs.filter fun w => !(cs.any fun u => w.precedes u))
/-- A byte of device memory in the view of a die (R306). -/
def State.viewByte (s : State) (die : Nat) (k : Key) : Byte :=
  match s.viewWrite die k with
  | some w => (w.byte? k).getD 0
  | none => memGet s.mem k

/-- The writes with one record changed. -/
def modWrite (ws : List WriteRec) (id : Nat) (f : WriteRec → WriteRec) : List WriteRec :=
  ws.map fun w => if w.id == id then f w else w
/-- A write that a die has applied. -/
def WriteRec.appliedOn (w : WriteRec) (die : Nat) : WriteRec :=
  { w with applied := if w.applied.contains die then w.applied else die :: w.applied }
/-- A write enters the view of its own die, so that others there see it (R308). -/
def State.showOwn (s : State) (w : WriteRec) : State := { s with writes := modWrite s.writes w.id fun w => w.appliedOn w.die }
/-- A write leaves its die (R299): the die's own clock entry rises by one and the write takes the clock as its stamp. It is then in the
view of its own die. -/
def State.stampOne (s : State) (w : WriteRec) : State :=
  match w.stamp with
  | some _ => s
  | none =>
    let c := listMod (s.die w.die).clock w.die fun k => (k + 1) % 2 ^ 64
    { s.modDie w.die (fun d => { d with clock := c }) with
      writes := modWrite s.writes w.id fun w => { w.appliedOn w.die with stamp := some c } }
/-- Writes leave their die in the order of the list. -/
def State.stampList (s : State) (ws : List WriteRec) : State := ws.foldl State.stampOne s
/-- Every write still on a die leaves it: what a release or a release fence does before anything that follows it
(R307, log entry 13). -/
def State.stampDie (s : State) (die : Nat) : State := s.stampList (s.writes.filter fun w => w.die == die && w.stamp.isNone)
/-- The writes of a list, oldest first, that have a byte in common with the last or with one of them that follows. -/
def chainOf : List WriteRec → List WriteRec
  | [] => []
  | [w] => [w]
  | u :: t => if (chainOf t).any u.overlaps then u :: chainOf t else chainOf t
/-- A plain write leaves its die after the earlier writes of that die to a byte of its own, and after those that these in turn follow
(R306, R308). -/
def State.leave (s : State) (w : WriteRec) : State :=
  s.stampList (chainOf ((s.writes.filter fun u => u.die == w.die && u.stamp.isNone && u.id < w.id) ++
    s.writes.filter fun u => u.id == w.id))
/-- A die has applied a write: its clock becomes the entrywise maximum with the stamp (R299). -/
def State.markApplied (s : State) (die : Nat) (w : WriteRec) : State :=
  match w.stamp with
  | none => s
  | some st =>
    { s.modDie die (fun d => { d with clock := stampMax d.clock st }) with
      writes := modWrite s.writes w.id fun w => w.appliedOn die }
/-- Whether an acquire load that has not returned may still turn on a write: it reads a byte of it, or a later load of its thread does. -/
def State.acquiring (s : State) (w : WriteRec) : Bool :=
  s.loads.any fun l => l.acq.isSome && ((l.keys.any fun k => (w.byte? k).isSome) || l.sampled.any fun k => (w.byte? k).isSome)
/-- Whether a write is settled: applied everywhere and, for every other write to one of its bytes, followed by it or
losing to it on every die. A settled write moves into memory; one that a pending acquire may turn on stays a write. -/
def State.settledWrite (s : State) (w : WriteRec) : Bool :=
  (List.range 4).all (w.applied.contains ·) && !(s.acquiring w) &&
    s.writes.all fun u => u.id == w.id || !(u.overlaps w) || w.precedes u ||
      ((List.range 4).all (u.applied.contains ·) && !(u.precedes w) && w.die < u.die)
/-- One settled write moved into memory. -/
def State.settleOne (s : State) (w : WriteRec) : State :=
  if s.writes.contains w && s.settledWrite w then
    { s with mem := memPut s.mem w.bytes, writes := s.writes.filter fun u => u.id != w.id }
  else s
/-- The settled writes moved into memory. -/
def State.settle (s : State) : State := s.writes.foldl State.settleOne s
/-- A write by name. -/
def State.write? (s : State) (id : Nat) : Option WriteRec := s.writes.find? fun w => w.id == id
/-- Applies a write on a die, with every write that precedes it (R306, R309). -/
def State.forceApply (s : State) (die id : Nat) : State :=
  match s.write? id with
  | none => s
  | some w0 =>
    let s := s.leave w0
    match s.write? id with
    | none => s
    | some w =>
      ((s.writes.filter fun u => u.id == w.id || u.precedes w).foldl (fun s u => s.markApplied die u) s).settle

/-! ### Handles and their targets (R180 to R190) -/

/-- How an access to a byte is carried: device memory in its die views, scratchpad, other memory held once, host memory behind a port, or
another device. -/
inductive Space where
  | device
  | scratch
  | single
  | host (port : Nat)
  | peer
  deriving DecidableEq, Repr

/-- What an access needs of a descriptor: its rights (R181), and whether it is barred on host memory (R198) or is a
copy (R207). -/
structure Need where
  rights : BitVec 5
  hostBar : Bool
  copy : Bool
  deriving DecidableEq, Repr

/-- Rights r, w, x, a and e (R260). -/
abbrev rtR : BitVec 5 := 1
/-- Right w (R260). -/
abbrev rtW : BitVec 5 := 2
/-- Right x (R260). -/
abbrev rtX : BitVec 5 := 4
/-- Right a (R260). -/
abbrev rtA : BitVec 5 := 8
/-- Right e (R260). -/
abbrev rtE : BitVec 5 := 16
/-- The need of a load (R181). -/
abbrev Need.load : Need := ⟨rtR, false, false⟩
/-- The need of a store (R181). -/
abbrev Need.store : Need := ⟨rtW, false, false⟩
/-- The need of a copy's source and of its destination (R181). -/
abbrev Need.copyFrom : Need := ⟨rtR ||| rtE, false, true⟩
/-- The need of a copy's destination (R181). -/
abbrev Need.copyTo : Need := ⟨rtW ||| rtE, false, true⟩

/-- What a handle comes to (R190): a row of the table with its reason, or the bytes of the access. -/
inductive Res where
  | halt (row reason : Nat)
  | page (handle : W64)
  | growth (handle : W64)
  | wait
  | ok (space : Space) (keys : List Key)
  deriving DecidableEq, Repr

/-- The row of R190 a result belongs to; 8 when the access is performed, and 7 for one that waits for a move. -/
def Res.row : Res → Nat
  | .halt r _ => r
  | .page _ => 5
  | .growth _ => 6
  | .wait => 7
  | .ok _ _ => 8

/-- A handle from a selector and an offset. -/
def handleOf (sel : BitVec 16) (off : Int) : W64 := sel ++ BitVec.ofInt 48 off
/-- The selector of a handle. -/
def hsel (h : W64) : BitVec 16 := h.extractLsb' 48 16
/-- The offset of a handle. -/
def hoff (h : W64) : Nat := (h.extractLsb' 0 48).toNat

/-- A descriptor of a context; one not listed is free. -/
def Context.desc (x : Context) (sel : BitVec 16) : Desc := tabGetD x.segs sel.toNat .zero
/-- Whether rights include a need. -/
def hasRights (have_ need : BitVec 5) : Bool := have_ &&& need == need
/-- Reserved and fixed selectors, which the segment table never describes (R180, R260). -/
def selFixed (sel : BitVec 16) : Bool := sel == 0#16 || 0xFF00 ≤ sel.toNat

/-- Whether a page touched by an access of n bytes is not resident (R190 row 5). -/
def State.absentPage (s : State) (ctx : Nat) (sel : BitVec 16) (off n : Nat) : Option Nat :=
  let p := off / Config.pageBytes
  let q := (off + n - 1) / Config.pageBytes
  if s.absent.contains (pageKey ctx sel p) then some p
  else if s.absent.contains (pageKey ctx sel q) then some q else none

/-- Whether this context may reach a peer (R348, R357): a grant from that device, and in confidential mode one of a device that this one
has attested. -/
def State.peerOk (s : State) (ctx dev : Nat) : Bool :=
  (s.grants.any fun g => g.outgoing && g.ctx == ctx && g.dev == dev) && (!s.conf || s.attested.contains dev)

/-- Whether a described segment that is no view bars an access (R190 row 2): a right is missing, the access is barred on host memory, or
the peer has granted none. -/
def State.barred (s : State) (ctx : Nat) (d : Desc) (nd : Need) : Bool :=
  !hasRights d.rights nd.rights || (nd.hostBar && (d.kind == 2 || d.kind == 7)) || (d.kind == 3 && !s.peerOk ctx d.device)
/-- The bytes of an access to a described segment that is no view (R180, R181, R188). -/
def State.plainSeg (s : State) (x : Context) (sel : BitVec 16) (d : Desc) (off : Int) (n : Nat) (nd : Need) (h : W64) : Res :=
  if s.barred x.number d nd then .halt 2 rRights
  else if off < 0 || (d.limit : Int) < off + n then .halt 3 rLimit
  else
    let o := off.toNat
    match s.absentPage x.number sel o n with
    | some _ => .page h
    | none =>
      if d.kind == 2 then .ok (.host d.port) ((List.range n).map fun i => hostKey d.port (d.base + o + i))
      else if d.kind == 3 then .ok .peer ((List.range n).map fun i => peerKey d.device d.peerSel (o + i))
      else .ok .device ((List.range n).map fun i => segKey x.number sel (o + i))

/-- The bytes of an access through a selector of the segment table (R180 to R182, R261): a view's rights and the rights of the segment it
names are both asked for, before its own limit. -/
def State.descSeg (s : State) (x : Context) (sel : BitVec 16) (off : Int) (n : Nat) (nd : Need) : Res :=
  let d := x.desc sel
  let h := handleOf sel off
  if d.kind == 0 then .halt 1 rFreed
  else if d.kind == 6 then
    let u := x.desc d.under
    if u.kind == 0 || u.gen != d.viewGen then .halt 1 rFreed
    else if u.kind == 6 then .halt 1 rLimit
    else if !hasRights d.rights nd.rights || s.barred x.number u nd then .halt 2 rRights
    else if off < 0 || (d.limit : Int) < off + n then .halt 3 rLimit
    else s.plainSeg x d.under u ((d.base : Int) + off) n nd h
  else s.plainSeg x sel d off n nd h

/-- The seated, waiting or saved group of a cluster with a number (R184). -/
def State.inCluster (s : State) (cid number : Nat) : Option (Nat × Group) :=
  s.groups.find? fun p => p.2.cid == cid && p.2.number == number && p.2.place != .ended
/-- The scratchpad bytes a group's program may address: its allotment, or those of the inline child it runs (R246). -/
def Group.scratchLimit (g : Group) : Nat :=
  match g.inl with
  | f :: _ => ((f.block.stages.head?).map (·.scratch)).getD 0
  | [] => g.scratch
/-- Bytes of a group's allotment (R183). -/
def scratchRes (gid limit : Nat) (off : Int) (n : Nat) : Res :=
  if off < 0 || (limit : Int) < off + n then .halt 3 rLimit
  else .ok .scratch ((List.range n).map fun i => scratchKey gid (off.toNat + i))
/-- Bytes of the cluster window (R184). -/
def State.windowRes (s : State) (cid : Nat) (off : Int) (n : Nat) : Res :=
  if off < 0 then .halt 3 rLimit
  else
    match s.inCluster cid (off.toNat / 0x80000) with
    | none => .halt 3 rLimit
    | some (gid, g) => if g.moving then .wait else scratchRes gid g.scratch ((off.toNat % 0x80000 : Nat) : Int) n

/-- The bytes a handle of a lane comes to (R180 to R190 rows 1 to 3, 5 and 6). A constant window whose argument handle names a fixed or a
reserved selector is like one of a null handle (R187; DESIGN CHOICE, log entries 56 and 97). -/
def State.resolve (s : State) (gid band lane : Nat) (sel : BitVec 16) (off : Int) (n : Nat) (nd : Need) : Res :=
  match s.group? gid, s.band? gid band with
  | some g, some b =>
    match s.ctx? g.ctx with
    | none => .halt 1 rNull
    | some x =>
      if sel == 0xFFFE#16 then scratchRes gid g.scratchLimit off n
      else if sel == 0xFFFD#16 then s.windowRes g.cid off n
      else if sel == 0xFFFC#16 then
        if off < 0 || ((x.privMax * 65536 : Nat) : Int) < off + n then .halt 3 rLimit
        else if (b.hwm : Int) < off + n then .growth (handleOf sel off)
        else .ok .single ((List.range n).map fun i => privKey gid band lane (off.toNat + i))
      else if sel == 0xFFFB#16 then
        if hsel b.cbase == 0#16 then .halt 1 rNull
        else if nd.rights != rtR || nd.copy then .halt 2 rRights
        else
          let u := x.desc (hsel b.cbase)
          let lim : Int := min 65536 ((u.limit : Int) - hoff b.cbase)
          if selFixed (hsel b.cbase) then .halt 1 rNull
          else
            let r := s.descSeg x (hsel b.cbase) ((hoff b.cbase : Int) + off) n nd
            if r.row ≤ 2 then r else if off < 0 || lim < off + n then .halt 3 rLimit else r
      else if selFixed sel then .halt 1 rNull
      else s.descSeg x sel off n nd
  | _, _ => .halt 1 rNull

/-! ### Performing accesses -/

/-- The lane number of a write that an engine or a service core makes. -/
abbrev engineLane : Nat := 32
/-- The lane number of a write that a host makes through BAR2; its band is the port. -/
abbrev hostLane : Nat := 33
/-- The lane number of a write that a party of another device makes; its band is the device. -/
abbrev peerLane : Nat := 34
/-- Whether a scope reaches beyond a die (R301): parties on one die share its view. -/
def wideScope : Scope → Bool
  | .bd | .gr | .cl | .di => false
  | .dv | .dm | .sy => true

/-- Whether a posted write that has not landed happens before what a thread does next: its own, and those that an order has made visible to its
group (R194, R304). -/
def Posted.seenBy (p : Posted) (gid band lane : Nat) : Bool :=
  (p.gid == gid && p.band == band && p.lane == lane) || p.dev || p.vis.contains gid
/-- The port number of a posted write that waits for scratchpad and for no host. -/
abbrev scratchPort : Nat := 2
/-- The port number of a posted write that waits for another device. -/
abbrev peerPort : Nat := 3
/-- Whether a posted write is a thread's own. -/
def Posted.isOf (p : Posted) (gid band lane : Nat) : Bool := p.gid == gid && p.band == band && p.lane == lane
/-- Whether a posted write has some byte of a list. -/
def Posted.hits (p : Posted) (ks : List Key) : Bool := ks.any fun k => (tabGet p.bytes k).isSome
/-- The latest write of a thread to a byte, where its die does not show it yet (R194, R308). -/
def State.ownWrite (s : State) (die gid band lane : Nat) (k : Key) : Option WriteRec :=
  (s.writes.reverse.find? fun w =>
    w.gid == gid && w.band == band && w.lane == lane && w.die == die && (w.byte? k).isSome).filter fun w => !w.applied.contains die
/-- A byte of memory with the latest posted store that a test picks before it. -/
def State.postedByte (s : State) (seen : Posted → Bool) (k : Key) : Byte :=
  match s.posted.reverse.find? fun p => seen p && (tabGet p.bytes k).isSome with
  | some p => (tabGet p.bytes k).getD 0
  | none => memGet s.mem k
/-- A byte of scratchpad as an instruction of a whole split reads it: with its own lanes' stores on their way to it (R194), and no other
thread's, which scratchpad does not hold yet (R305). -/
def State.scratchByte (s : State) (c : Slot) (k : Key) : Byte :=
  s.postedByte (fun p => p.port == scratchPort && p.gid == c.gid && p.band == c.band && c.active.getLsbD p.lane) k
/-- A byte as a thread reads it now: its own latest store, its die's view of device memory, and otherwise the one copy (R194, R305, R306,
R308). -/
def State.readByte (s : State) (die gid band lane : Nat) (space : Space) (k : Key) : Byte :=
  match space with
  | .device =>
    match s.ownWrite die gid band lane k with
    | some w => (w.byte? k).getD 0
    | none => s.viewByte die k
  | .host _ | .scratch | .peer => s.postedByte (fun p => p.isOf gid band lane && lane < engineLane) k
  | .single => memGet s.mem k
/-- A number read from bytes, the lowest address first (R5). -/
def State.readNat (s : State) (die gid band lane : Nat) (space : Space) (ks : List Key) : Nat :=
  natOfBytes (ks.map fun k => s.readByte die gid band lane space k)

/-- The bytes of a write as a table by key; a later byte at one key stands. -/
def bytesAt (ks : List Key) (bs : List Byte) : List (Key × Byte) := (ks.zip bs).foldl (fun t p => tabSet t p.1 p.2) []

/-- The writes that happen before what a group does next (R304): those it knows of and its own. -/
def State.before (s : State) (gid : Nat) : List Nat :=
  ((s.group? gid).map (·.known)).getD [] ++ (s.writes.filter fun w => w.gid == gid).map (·.id)
/-- What a thread's write with a name publishes: by a release of its own, and by its fences before it (R303). -/
def State.relsOf (s : State) (id gid band lane die : Nat) (rel : Option Scope) : List Rel :=
  (rel.map fun sc => (⟨sc, gid, band, lane, die, id :: s.before gid⟩ : Rel)).toList ++
    (((s.thread? gid band lane).map (·.fences)).getD []).map fun f => ⟨f.1, gid, band, lane, die, f.2⟩
/-- A release fence of a thread at a scope stands before its later stores: what happens before it (R303). -/
def Thread.fenced (t : Thread) (sc : Scope) (hb : List Nat) : Thread := { t with fences := (sc, hb) :: t.fences.filter fun f => f.1 != sc }
/-- A write of an instruction, which is named by the first name its writes take (R194, R299, R308, R312): a new record on the thread's die
for device memory, which others on the die need not see yet where a thread makes it; a posted write for host memory, scratchpad and a peer;
the bytes themselves otherwise. A release whose scope reaches beyond the die leaves it at once, after every earlier write of the die
(R307). -/
def State.writeFrom (s : State) (ins die gid band lane : Nat) (space : Space) (rel : Option Scope) (bs : List (Key × Byte)) : State :=
  match space with
  | .device =>
    let wide := (rel.map wideScope).getD false
    let s := if wide then s.stampDie die else s
    let (id, s) := s.fresh
    let w : WriteRec :=
      ⟨id, gid, band, lane, die, bs, none, if lane < engineLane then [] else [die], s.relsOf id gid band lane die rel, false, [], false⟩
    let s := { s with writes := s.writes ++ [w] }
    if wide then s.stampOne w else s
  | .host p =>
    let (id, s) := s.fresh
    { s with posted := s.posted ++ [⟨id, ins, gid, band, lane, p, bs, [], false, false, false⟩] }
  | .scratch =>
    let (id, s) := s.fresh
    { s with posted := s.posted ++ [⟨id, ins, gid, band, lane, scratchPort, bs, [], false, false, false⟩] }
  | .peer =>
    let (id, s) := s.fresh
    { s with posted := s.posted ++ [⟨id, ins, gid, band, lane, peerPort, bs, [], false, false, false⟩] }
  | .single => { s with mem := memPut s.mem bs }
/-- A write of an instruction of its own. -/
def State.writeBytes (s : State) (die gid band lane : Nat) (space : Space) (bs : List (Key × Byte)) : State :=
  s.writeFrom s.nextId die gid band lane space none bs

/-- A posted write reaches the host, the scratchpad, or the peer (R312, R308). -/
def State.landPosted (s : State) (p : Posted) : State :=
  { s with mem := memPut s.mem p.bytes, posted := s.posted.filter fun q => q.id != p.id }
/-- Whether of two posted writes the one issued later must follow the other: they have a byte in common and belong to one thread or to one
instruction (R194, R198), or some party sees both (R305), or the earlier is an atomic's, which leaves no room between its read and its
write (R309); or they belong to one SYMST, whose lanes write in their order (R201). -/
def Posted.before (q p : Posted) : Bool :=
  (q.ins == p.ins && q.seq) || (q.bytes.any fun x => (tabGet p.bytes x.1).isSome) &&
    (q.rmw || q.ins == p.ins || (q.gid == p.gid && q.band == p.band && q.lane == p.lane) || q.dev || q.vis.contains p.gid || p.vis.contains q.gid ||
      q.vis.any p.vis.contains)
/-- Whether a posted write has to wait for an earlier one. -/
def State.heldBack (s : State) (p : Posted) : Bool := (s.posted.takeWhile fun q => q.id != p.id).any fun q => q.before p
/-- The posted writes of a list, oldest first, that a test picks, with those that must reach the host before one of them. -/
def postedChain (want : Posted → Bool) : List Posted → List Posted
  | [] => []
  | q :: t => if want q || (postedChain want t).any q.before then q :: postedChain want t else postedChain want t
/-- Posted writes that a test picks reach the host, in order (R198, R307). -/
def State.landWanted (s : State) (want : Posted → Bool) : State := (postedChain want s.posted).foldl State.landPosted s

/-- The posted writes to some bytes that happen before what a party does next, and are not its own, have landed: it reads what memory holds
(R304, R305). -/
def State.landSeen (s : State) (gid band lane : Nat) (ks : List Key) : State :=
  if s.posted.isEmpty then s else s.landWanted fun p => !p.isOf gid band lane && p.seenBy gid band lane && p.hits ks
/-- The same for the bytes that an access comes to. -/
def State.landAt (s : State) (gid band lane : Nat) (r : Res) : State :=
  match r with
  | .ok _ ks => s.landSeen gid band lane ks
  | _ => s
/-- The stores of a split's lanes on their way to scratchpad have landed. -/
def State.landLanes (s : State) (c : Slot) : State :=
  if s.posted.isEmpty then s
  else s.landWanted fun p => p.port == scratchPort && p.gid == c.gid && p.band == c.band && c.active.getLsbD p.lane
/-- Bytes put in memory that is held once, after the posted writes on their way to them (R194). -/
def State.putBytes (s : State) (bs : List (Key × Byte)) : State :=
  let s := s.landWanted fun p => p.hits (bs.map (·.1))
  { s with mem := memPut s.mem bs }

/-! ### Scopes (R301) -/

/-- The die of a group's core (R1, R301). -/
def Group.die (g : Group) : Nat := dieOf g.core
/-- Whether the party of a release lies inside a scope of a thread (R301). -/
def State.inScope (s : State) (gid band : Nat) (sc : Scope) (w : Rel) : Bool :=
  match sc with
  | .bd => w.gid == gid && w.band == band && w.lane < engineLane
  | .gr => w.gid == gid
  | .cl => match s.group? gid, s.group? w.gid with
    | some g, some u => g.cid == u.cid
    | _, _ => false
  | .di => match s.group? gid, s.group? w.gid with
    | some g, some u => g.die == u.die
    | some g, none => w.lane == engineLane && w.die == g.die
    | _, _ => false
  | .dv => w.lane ≤ engineLane
  | .dm => w.lane != hostLane
  | .sy => true
/-- The groups that lie inside a scope of a group's threads that stays on its die (R301). -/
def State.scopeGroups (s : State) (gid : Nat) (sc : Scope) : List Nat :=
  (s.groups.filter fun p =>
    match sc, s.group? gid with
    | .bd, _ | .gr, _ => p.1 == gid
    | .cl, some g => p.2.cid == g.cid
    | .di, some g => p.2.die == g.die
    | _, _ => false).map (·.1)
/-- A release by a group passes on what happens before it to the groups in its scope (R304): the stores of its threads enter the view of
their die and the scratchpad, and the posted host writes, its own and those it has been passed, are seen by the groups. -/
def State.expose (s : State) (gid : Nat) (sc : Scope) : State :=
  let s := (s.writes.filter fun w => w.gid == gid && !w.applied.contains w.die).foldl State.showOwn s
  if s.posted.isEmpty then s
  else
    let s := s.landWanted fun p => p.port == scratchPort && p.gid == gid
    { s with posted := s.posted.map fun p =>
        if p.port != scratchPort && (p.gid == gid || p.dev || p.vis.contains gid) then
          { p with vis := p.vis ++ (s.scopeGroups gid sc).filter (fun g => !p.vis.contains g), dev := p.dev || wideScope sc }
        else p }
/-- The atomics of the groups of a die that the die itself does not show yet are applied there (R305, R309): what follows them in program
order sees them. -/
def State.pullAtomics (s : State) (die : Nat) : State :=
  (s.writes.filter fun w => w.die != die && !w.applied.contains die && ((s.group? w.gid).map fun g => g.die == die).getD false).foldl
    (fun s w => s.forceApply die w.id) s
/-- The same for the atomics of one thread to some bytes. -/
def State.pullOwn (s : State) (die gid band lane : Nat) (ks : List Key) : State :=
  (s.writes.filter fun w => w.gid == gid && w.band == band && w.lane == lane && w.die != die && !w.applied.contains die &&
    ks.any fun k => (w.byte? k).isSome).foldl (fun s w => s.forceApply die w.id) s
/-- The group's part in the order of what follows: what a release of device scope passes on (R304, R307). Its die shows the atomics of its
groups, every write of the die leaves it, and posted writes are passed on. -/
def State.passOn (s : State) (gid die : Nat) (sc : Scope) : State := (((s.pullAtomics die).stampDie die).expose gid sc)
/-- A group knows of some writes that happen before what it does next; those that are settled need no mention. -/
def State.learn (s : State) (gid : Nat) (ids : List Nat) : State :=
  s.modGroup gid fun g =>
    { g with known := (s.writes.filter fun w => g.known.contains w.id || ids.contains w.id).map (·.id) }
/-- What an acquire does first (R303 to R306): the die's writes that its reads have ordered before it leave the die before what follows, and
the atomics of the die's groups show in its view. -/
def State.catchUp (s : State) (die : Nat) : State := (s.pullAtomics die).stampDie die
/-- An acquire that gains some writes: they happen before what the group does next. -/
def State.acquireOf (s : State) (gid die : Nat) (ids : List Nat) : State := (s.catchUp die).learn gid ids
/-- An acquire whose read the model does not tie to a write: every write that the die shows may happen before what follows. -/
def State.acquire (s : State) (gid die : Nat) : State :=
  (s.catchUp die).learn gid (((s.catchUp die).writes.filter fun w => w.applied.contains die).map (·.id))
/-- The writes that an acquire load at a scope gains by reading some bytes of device memory (R303, R311): what each release publishes whose
scope holds the reader, and whose party the reader's scope holds; the earlier writes of a SYMST at any scope. -/
def State.gained (s : State) (gid band : Nat) (sc : Scope) (die : Nat) (ks : List Key) : List Nat :=
  ks.flatMap fun k =>
    match s.viewWrite die k with
    | some w =>
      (if w.sym then w.id :: w.hb else []) ++
        (w.rels.filter fun r => s.inScope gid band sc r && s.inScope gid band r.sc r).flatMap (·.hb)
    | none => []

/-- The home die of a page of a described segment (R188, log entry 8). -/
def State.homeDie (s : State) (ctx : Nat) (sel : BitVec 16) (off : Nat) : Nat :=
  let page := off / Config.pageBytes
  match tabGet s.homes (pageKey ctx sel page) with
  | some d => d
  | none =>
    match (s.ctx? ctx).map fun x => (x.desc sel).affinity with
    | some 1 => 0
    | some 2 => 1
    | some 3 => 2
    | some 4 => 3
    | some 5 => page % 4
    | _ => 0
/-- The home die of a device byte by its key. -/
def State.homeOfKey (s : State) (k : Key) : Nat :=
  let id := k / 8 / 2 ^ 64
  s.homeDie (id / 65536) (BitVec.ofNat 16 id) (k / 8 % 2 ^ 64)

/-- The stores, made before a given one, that a thread's earlier instructions left unacknowledged at a scope (R307). What the thread has
acquired it passes on, also to locations whose writes carry no stamp (R304, R312): at `.DV` and above it waits for every write its die knows. -/
def State.unacked (s : State) (die gid band lane : Nat) (sc : Scope) (upTo : Nat) : Bool :=
  let mine (w : WriteRec) : Bool := w.gid == gid && w.band == band && w.lane == lane
  let scratch := s.posted.any fun p => p.port == scratchPort && p.id < upTo && p.seenBy gid band lane
  let known := s.writes.any fun w => w.id < upTo && (mine w || w.applied.contains die) && !((List.range 4).all (w.applied.contains ·))
  let peer := (s.loads.any fun l => l.peer && l.id < upTo && l.gid == gid && l.band == band && l.lane == lane) ||
    s.posted.any fun p => p.port == peerPort && p.id < upTo && p.seenBy gid band lane
  let host := s.posted.any fun p => p.port != scratchPort && p.port != peerPort && p.id < upTo && p.seenBy gid band lane
  match sc with
  | .bd | .gr | .cl | .di => scratch || s.writes.any fun w => w.id < upTo && mine w && !w.applied.contains die
  | .dv => scratch || known
  | .dm => scratch || known || peer
  | .sy => scratch || known || peer || host
/-- A thread's pending acknowledgements (R299): its writes that not every die has applied, its posted writes, and its stores and atomics on
a peer. -/
def State.pendingAcks (s : State) (gid band lane : Nat) : Nat :=
  (s.writes.filter fun w => w.gid == gid && w.band == band && w.lane == lane && !((List.range 4).all (w.applied.contains ·))).length +
    (s.posted.filter fun p => p.isOf gid band lane && p.port != peerPort).length +
    (s.loads.filter fun l => l.peer && l.gid == gid && l.band == band && l.lane == lane && (l.atomic || l.dst == .imm 0)).length
/-- Whether each lane of a list has room for n more pending acknowledgements, of which a thread has at most 256 (R299). -/
def State.ackRoom (s : State) (gid band n : Nat) (lanes : List Nat) : Bool := lanes.all fun l => s.pendingAcks gid band l + n ≤ 256

/-- A thread's loads that have not returned keep the value they have sampled: what follows them in program order may not
be overtaken by a later sample (R305, R308; log entry 4). -/
def State.freezeLoads (s : State) (gid band lane : Nat) : State :=
  { s with loads := s.loads.map fun l => if l.gid == gid && l.band == band && l.lane == lane then { l with frozen := true } else l }

/-- A thread's loads of some bytes that have not returned keep the value they have sampled: a later load of those bytes may not return an
older value than they do (R194, R308). -/
def State.freezeKeys (s : State) (gid band lane : Nat) (ks : List Key) : State :=
  { s with loads := s.loads.map fun l =>
      if l.gid == gid && l.band == band && l.lane == lane && l.keys.any ks.contains then { l with frozen := true } else l }
/-- The loads of some lanes of a band that have not returned become acquires of a scope, by the fence that follows them (R303). -/
def State.fenceLoads (s : State) (gid band : Nat) (m : Word) (sc : Scope) : State :=
  { s with loads := s.loads.map fun l =>
      if l.gid == gid && l.band == band && m.getLsbD l.lane && !l.atomic then
        { l with acq := match l.acq with
            | some a => if a.code ≤ sc.code then some sc else some a
            | none => some sc }
      else l }
/-- Every load of a band keeps what it has sampled. -/
def State.freezeBand (s : State) (gid band : Nat) (m : Word) : State := (lanesOf m).foldl (fun s i => s.freezeLoads gid band i) s

/-! ### Uncorrectable errors (R189) -/

/-- Whether a key lies in a memory whose code reaches one word: scratchpad, accumulator memory, register files and the shadow layer (R189). -/
def wordCode (k : Key) : Bool := k % 8 == 1 || k % 8 == 5 || k % 8 == 6 || k % 8 == 7
/-- The unit an error is held in: a 32-byte half-line of HBM, and a 32-bit word of the other memories (R189). -/
def errUnit (k : Key) : Key :=
  let u := if wordCode k then 4 else 32
  k / 8 / u * u * 8 + k % 8
/-- The reach of the code: a 64-byte line of HBM, a word of the other memories (R189). -/
def errReach (k : Key) : Key :=
  let u := if wordCode k then 4 else 64
  k / 8 / u * u * 8 + k % 8
/-- Bytes of an error's unit. -/
def errBytes (k : Key) : List Key := (List.range (if wordCode k then 4 else 32)).map fun i => errUnit k + 8 * i
/-- Whether an access meets an uncorrectable error (R189, R191). -/
def State.ecc (s : State) (ks : List Key) : Bool :=
  !s.eccBad.isEmpty && ks.any fun k => s.eccBad.any fun e => errReach e == errReach k
/-- Whether a store to some of an instruction's bytes meets an uncorrectable error that the instruction's full stores
do not replace (R189); all are the bytes of the whole instruction. -/
def State.eccStore (s : State) (all ks : List Key) : Bool :=
  !s.eccBad.isEmpty &&
    ks.any fun k => !((errBytes k).all (all.contains ·)) && s.eccBad.any fun e => errReach e == errReach k
/-- The bytes of registers of a lane and of its band, each given with how many from it on; L's words keep their errors with them. -/
def fileBytes (gid band lane : Nat) (us : List (Opd × Nat)) : List Key :=
  let words (l r n : Nat) : List Key := (List.range (4 * n)).map fun i => vKey gid band l r + 8 * i
  us.flatMap fun u =>
    match u.1 with
    | .v i => words lane i.toNat u.2
    | .o i => words lane (256 + i.toNat) u.2
    | .p i => if i == 7#3 then [] else words lane 276 1
    | .b i => words 32 i.toNat u.2
    | .q i => if i == 7#3 then [] else words 32 64 1
    | _ => []
/-- Bytes of what an inline child's frame holds of a lane with a number of V registers (R246): its files, and its part of its band's. -/
def fileKeys (gid band lane n : Nat) : List Key :=
  fileBytes gid band lane [(.v 0, n), (.o 0, 16), (.p 0, 1), (.b (BitVec.ofNat 6 (2 * lane)), 2), (.q 0, 1)]
/-- Whether a word of a thread's last-result queue holds an uncorrectable error (R189). -/
def Thread.lBad (t : Thread) : Bool := t.lq.l0.bad || t.lq.l1.bad || t.lq.l2.bad || t.lq.l3.bad
/-- An uncorrectable error stands in the unit of a byte (R189); that of an L register goes where the queue takes its value. -/
def State.spoil (s : State) (k : Key) : State :=
  let id := k / 8 / 2 ^ 64
  let w := k / 8 % 2 ^ 64 / 4
  let r := w % 512
  if k % 8 == 6 && 272 ≤ r && r < 276 && w < 512 * 32 then
    s.modThread (id / 32) (id % 32) (w / 512) fun t =>
      if r == 272 then { t with lq := { t.lq with l0 := { t.lq.l0 with bad := true } } }
      else if r == 273 then { t with lq := { t.lq with l1 := { t.lq.l1 with bad := true } } }
      else if r == 274 then { t with lq := { t.lq with l2 := { t.lq.l2 with bad := true } } }
      else { t with lq := { t.lq with l3 := { t.lq.l3 with bad := true } } }
  else if s.ecc [k] then s else { s with eccBad := errUnit k :: s.eccBad }
/-- A full store of a unit clears the error it held (R189). -/
def State.clearErrors (s : State) (all : List Key) : State :=
  if s.eccBad.isEmpty then s else { s with eccBad := s.eccBad.filter fun e => !((errBytes e).all (all.contains ·)) }

end Sys2Proof.Machine
end

