-- ==== Sys2Proof/Machine/Operands.lean ====
section
/-! DEFINITION. Operands: reading every operand class (R55, R104, R114, R131), the guard (R58), the allotment (R106), and the
forms in which an instruction runs over the lanes of a split or once for it (R57 to R59, R173). -/

namespace Sys2Proof.Machine

/-! ### Where a thread is (R15, R16, R246) -/

/-- The launch whose program a group runs now: its own, or the inline child's (R246). -/
def Group.curLid (g : Group) : Nat :=
  match g.inl with
  | f :: _ => f.lid
  | [] => g.lid
/-- Groups of one gang position in an inline child's single stage. -/
def Inline.units (f : Inline) : Nat := max 1 (((f.block.stages.head?).map (·.groups)).getD 1)
/-- S.UNIT (R15, R246). -/
def Group.curUnit (g : Group) : Nat :=
  match g.inl with
  | f :: _ => f.index % f.units
  | [] => g.unit
/-- S.STAGE (R15, R246). -/
def Group.curStage (g : Group) : Nat :=
  match g.inl with
  | _ :: _ => 0
  | [] => g.stage
/-- S.GROUP (R15, R246). -/
def Group.curNumber (g : Group) : Nat :=
  match g.inl with
  | f :: _ => f.index % f.units
  | [] => g.number
/-- S.CLUSTER (R15, R246). -/
def State.curCluster (s : State) (g : Group) : Nat :=
  match g.inl with
  | f :: _ => f.index / f.units
  | [] => ((tabGet s.clusters g.cid).map (·.number)).getD 0
/-- Whether a group's launch has sleeves (R12). -/
def State.sleeves (s : State) (g : Group) : Bool := ((s.launch? g.lid).map (·.block.twin)).getD false
/-- S.TWIN (R15): 1 for band 2k, 2 for band 2k + 1 of a launch with sleeves; 0 without, and in an inline child. -/
def State.twinOf (s : State) (g : Group) (band : Nat) : Nat :=
  if g.inl.isEmpty && s.sleeves g then (if band % 2 == 0 then 1 else 2) else 0
/-- A base budget: the group's, or that of the inline child it runs (R246). -/
def Group.curBudget (g : Group) : Nat :=
  match g.inl with
  | f :: _ => ((f.block.stages.head?).map (·.regs)).getD g.budget
  | [] => g.budget
/-- Registers of a band's allotment (R106): the chunks that the program it runs holds; an inline child sees none of its parents' (R246). -/
def allotment (g : Group) (b : Band) : Nat := g.curBudget + 16 * b.held
/-- Chunks that a band holds, those of the programs outside its inline child among them (R107, R246). -/
def Band.allHeld (b : Band) : Nat := b.held + (b.under.map (·.held)).sum
/-- The rows of a band's chunks, likewise. -/
def Band.allChunks (b : Band) : List Nat := b.chunks ++ b.under.flatMap (·.chunks)
/-- Chunks that a team's bands hold on a slice of a core (R107). -/
def State.teamHeld (s : State) (core lid slice : Nat) : Nat :=
  (s.groups.map fun p =>
    if p.2.core == core && p.2.lid == lid && p.2.place == .seated then
      ((p.2.bands.filter fun b => b.slice == slice).map Band.allHeld).sum
    else 0).sum
/-- S.POOL of a group's context (R104, R256). -/
def State.poolOf (s : State) (g : Group) : Nat := ((s.ctx? g.ctx).map (·.pool)).getD 0
/-- S.POOLFREE (R104, R107). -/
def State.poolFree (s : State) (g : Group) (slice : Nat) : Nat := s.poolOf g - s.teamHeld g.core g.lid slice
/-- S.ACCOVF (R104): the overflow flags of the core's tiles. -/
def Core.ovfBits (c : Core) : Word :=
  (List.range 16).foldl (fun m t => if (tabGetD c.tiles t .zero).ovf then m ||| BitVec.twoPow 32 t else m) 0#32

/-- What an instruction reads from: the state, the issuing split, its group, band and one thread. -/
structure Env where
  s : State
  c : Slot
  g : Group
  b : Band
  t : Thread
  lane : Nat

/-- A system register (R15, R104), zero-extended to 64 bits. -/
def Env.sreg (e : Env) (r : SReg) : W64 :=
  let n (x : Nat) : W64 := BitVec.ofNat 64 x
  let w (x : Word) : W64 := x.setWidth 64
  match r with
  | .thread => n (e.c.band * 32 + e.lane)
  | .lane => n e.lane
  | .band => n e.c.band
  | .slice => n e.b.slice
  | .group => n e.g.curNumber
  | .unit => n e.g.curUnit
  | .stage => n e.g.curStage
  | .cluster => n (e.s.curCluster e.g)
  | .idxX => w e.t.ix
  | .idxY => w e.t.iy
  | .idxZ => w e.t.iz
  | .twin => n (e.s.twinOf e.g e.c.band)
  | .ctx => n e.g.ctx
  | .live => w e.b.sLive
  | .active => w e.c.active
  | .canon => if e.t.canon then 1 else 0
  | .fflags => w e.t.fflags
  | .pool => n (e.s.poolOf e.g)
  | .held => n e.b.held
  | .poolfree => n (e.s.poolFree e.g e.b.slice)
  | .batch => w e.t.batch
  | .bdone => w e.t.bdone
  | .inlmax => w e.g.inlmax
  | .fixed => w (((e.s.launch? e.g.curLid).map (·.fixed)).getD 0)
  | .accovf => w (e.s.core e.g.core).ovfBits
  | .cyc => (e.s.core e.g.core).cyc
  | .level => n e.s.level

/-- An operand as 64 bits (R55, R114): a register pair where wide, a 32-bit register zero-extended otherwise, and a short
immediate sign-extended. -/
def Env.read (e : Env) (wide : Bool) (o : Opd) : W64 :=
  match o with
  | .v i => if wide then e.t.getVPair i.toNat else (e.t.getV i.toNat).setWidth 64
  | .o i => (e.t.getO i.toNat).setWidth 64
  | .l i => (e.t.lq.get i).val.setWidth 64
  | .b i => (e.b.getB i.toNat).setWidth 64
  | .p i => if e.t.getP i then 1 else 0
  | .q i => if e.b.getQ i then 1 else 0
  | .acc _ => 0
  | .s r => e.sreg r
  | .imm i => i.signExtend 64
/-- A 32-bit operand (R114). -/
def Env.read32 (e : Env) (o : Opd) : Word := (e.read false o).extractLsb' 0 32
/-- A predicate source: P of the lane or Q of the band (R120). -/
def Env.pred (e : Env) (o : Opd) : Bool :=
  match o with
  | .p i => e.t.getP i
  | .q i => e.b.getQ i
  | _ => false
/-- A floating-point operand's bits (R139): a short immediate stands for its integer, converted to the format, RN. -/
def Env.fread (e : Env) (f : Fmt) (wide : Bool) (o : Opd) : Nat :=
  match o with
  | .imm i => (f.result .rn false (FV.ofInt i.toInt)).1
  | o => (e.read wide o).toNat

/-- The guard of a lane-guarded instruction in a lane (R58). -/
def laneGuard (h : Hdr) (t : Thread) : Bool := t.getP h.gp != h.gn
/-- The guard of a band-guarded instruction (R58). -/
def bandGuard (h : Hdr) (b : Band) : Bool := b.getQ h.gp != h.gn

/-- Whether the V registers an operand names lie in the allotment (R106). -/
def fits (n : Nat) (o : Opd) (count : Nat) : Bool :=
  match o with
  | .v i => i.toNat + count ≤ n
  | _ => true
/-- Registers of an operand by width. -/
def width (wide : Bool) : Nat := if wide then 2 else 1

/-- Runs a meaning for the issuing split (R27); a program instruction has none without one. -/
def withSplit (s : State) (f : Slot → Group → Band → State) : Out :=
  match s.cur with
  | none => .fault .noSplit
  | some c =>
    match s.group? c.gid, s.band? c.gid c.band with
    | some g, some b => .next (f c g b)
    | _, _ => .fault .noSplit

/-- Every lane of the split gone on to the successor (R58). -/
def State.advanceSplit (s : State) (c : Slot) : State :=
  s.modBand c.gid c.band fun b => b.onLanes c.active fun _ t => t.advance c.next

/-- Runs a meaning whose V registers lie in the allotment; one outside it is an illegal-operand halt whatever the guard
(R67, R68, R106). -/
def withRegs (s : State) (uses : List (Opd × Nat)) (f : Slot → Group → Band → State) : Out :=
  withSplit s fun c g b =>
    if uses.all fun u => fits (allotment g b) u.1 u.2 then f c g b else s.haltSplit c rIllegalOperand 0

/-- The active lanes whose guard is true (R58). -/
def guarded (h : Hdr) (c : Slot) (b : Band) : Word := c.active &&& maskOfLanes (laneGuard h) b.threads

/-- A lane-guarded instruction on registers (R58, R59, R117): each lane of the split whose guard is true computes from the
state as it stands, and every lane goes on. -/
def laneOp (s : State) (h : Hdr) (uses : List (Opd × Nat)) (f : Env → Thread) : Out :=
  withRegs s uses fun c g b =>
    s.modBand c.gid c.band fun _ =>
      b.onLanes c.active fun i t => (if laneGuard h t then f ⟨s, c, g, b, t, i⟩ else t).advance c.next

/-- The first lane's environment, for operands that are one value for the band. -/
def bandEnv (s : State) (c : Slot) (g : Group) (b : Band) : Env :=
  ⟨s, c, g, b, (b.threads.head?).getD ⟨⟨0, 0⟩, false, false, false, false, false, 0, [], .none, ⟨0, 0⟩, 0, none, [], [], [], .zero, [], 0, 0, 0, 0, 0,
    [], 0, 0, 0, false, none, false, false, []⟩, 0⟩

/-- A band-scalar instruction (R58, R117, R132): once for the split when its guard is true, and every lane goes on. -/
def bandOp (s : State) (h : Hdr) (uses : List (Opd × Nat)) (f : Env → Band) : Out :=
  withRegs s uses fun c g b =>
    s.modBand c.gid c.band fun _ =>
      (if bandGuard h b then f (bandEnv s c g b) else b).onLanes c.active fun _ t => t.advance c.next

/-- An instruction executed once for the split, under its Q guard, that changes more than its band (R58). -/
def splitOp (s : State) (h : Hdr) (uses : List (Opd × Nat)) (f : Env → State) : Out :=
  withRegs s uses fun c g b => if bandGuard h b then f (bandEnv s c g b) else s.advanceSplit c

/-- Lanes that wait at their instruction. -/
def State.holdLanes (s : State) (c : Slot) (m : Word) (w : Wait) : State :=
  s.modBand c.gid c.band fun b => b.onLanes m fun _ t => t.hold w c.next

/-- A band-collective instruction (R173): the lanes of a split that is not the whole live band wait at its PC; the whole
band executes it once, and then its guard is evaluated. -/
def collOp (s : State) (h : Hdr) (uses : List (Opd × Nat)) (f : Env → State) : Out :=
  withRegs s uses fun c g b =>
    if c.active != b.live then s.holdLanes c c.active (.ijoin c.pc false)
    else if bandGuard h b then f (bandEnv s c g b) else s.advanceSplit c

/-- Whether a band of a group other than the one that executes is gathered at a group collective's PC, or has no live
thread (R173, R232). -/
def gatheredAt (b : Band) (pc : PC) : Bool := b.threads.all fun t => !t.here || t.wait == .ijoin pc true
/-- Bands that have a live thread. -/
def Group.liveBands (g : Group) : List Nat :=
  (mapIdx (fun i b => (i, b.live)) g.bands 0).filterMap fun p => if p.2 == 0#32 then none else some p.1

/-- A group-collective instruction (R232, R286): each band gathers; when every band that has a live thread stands gathered
at the PC, the group executes it once. -/
def groupOp (s : State) (f : Slot → Group → State) : Out :=
  withSplit s fun c g b =>
    let held := s.holdLanes c c.active (.ijoin c.pc true)
    if c.active != b.live then held
    else if (mapIdx (fun i b => i == c.band || gatheredAt b c.pc) g.bands 0).all id then f c g
    else held

/-- What the bands of a group that have a live thread make of something, when they all agree (R232). -/
def Group.agree {α : Type} [DecidableEq α] (g : Group) (f : Band → α) : Option α :=
  match (g.bands.filter fun b => b.live != 0#32).map f with
  | x :: t => if t.all fun y => decide (y = x) then some x else none
  | [] => none
/-- The same for something that a band's number goes into. -/
def Group.agreeAt {α : Type} [DecidableEq α] (g : Group) (f : Nat → Band → α) : Option α :=
  match (mapIdx (fun i b => (i, b)) g.bands 0).filterMap fun p => if p.2.live != 0#32 then some (f p.1 p.2) else none with
  | x :: t => if t.all fun y => decide (y = x) then some x else none
  | [] => none
/-- Every live thread of a group waits, to go on to the successor the collective held (R173). -/
def State.holdGroup (s : State) (gid : Nat) (w : Wait) (next : PC) : State :=
  s.modGroup gid fun g => { g with
    bands := g.bands.map fun b => { b with threads := b.threads.map fun t => if t.here then t.hold w next else t } }
/-- Every live thread of a group goes on past a collective. -/
def State.advanceGroup (s : State) (gid : Nat) (next : PC) : State :=
  s.modGroup gid fun g => { g with
    bands := g.bands.map fun b => { b with threads := b.threads.map fun t => if t.here then t.advance next else t } }

end Sys2Proof.Machine
end

