-- ==== Sys2Proof/Machine/Links.lean ====
section
/-! DEFINITION. Binding entries and their uses (R264 to R269), and the check of a transfer's target (R74, R164). -/

namespace Sys2Proof.Machine

/-- The key of a binding entry in a context's table (R265). -/
def bindKey (sel : BitVec 16) (slot : BitVec 12) : Nat := sel.toNat * 4096 + slot.toNat
/-- An entry's key as stop records and events carry it: code selector in [15:0], slot in [27:16] (R265). -/
def bindArg (sel : BitVec 16) (slot : BitVec 12) : W64 := BitVec.ofNat 64 (sel.toNat + slot.toNat * 65536)
/-- A context with a binding entry changed. -/
def Context.modBinding (x : Context) (k : Nat) (f : Binding → Binding) : Context :=
  { x with bindings := tabMod x.bindings k f }
/-- A binding entry of a context. -/
def State.binding? (s : State) (ctx : Nat) (sel : BitVec 16) (slot : BitVec 12) : Option Binding :=
  (s.ctx? ctx).bind fun x => tabGet x.bindings (bindKey sel slot)
/-- The state with a binding entry changed. -/
def State.modBinding (s : State) (ctx : Nat) (sel : BitVec 16) (slot : BitVec 12) (f : Binding → Binding) : State :=
  s.modCtx ctx fun x => x.modBinding (bindKey sel slot) f

/-- A search for an entry starts (R264, R267): it reads the lookup order as it stands, and in host-assisted mode a RESOLVE
event asks its owner. The names of a confidential context are always searched in hardware mode (R354). -/
def State.startResolve (s : State) (ctx gid band : Nat) (sel : BitVec 16) (slot : BitVec 12) (parked : Nat) : State :=
  let order := ((s.ctx? ctx).map (·.lookup)).getD []
  let nameLen := ((s.ctx? ctx).bind fun x => (tabGet x.codes sel.toNat).bind fun ci => (ci.imports[slot.toNat]?).map
    fun i => i.name.length).getD 0
  let s := s.modBinding ctx sel slot fun b =>
    { b with state := .resolving, parked := parked, order := order, target := 0, position := 0xFF, event := none }
  if s.mode.getLsbD 0 || ((s.ctx? ctx).map (·.confidential)).getD false then s
  else
    let r := s.post ctx clResolve gid band 0 (bindArg sel slot) (BitVec.ofNat 32 nameLen) true
    r.2.2.modBinding ctx sel slot fun b => { b with event := if r.2.1 then some r.1 else some 0 }

/-- The in-flight count of an entry falls by one (R267, R269): at zero, a revoked entry becomes UNBOUND, or searches again
when splits are parked on it. -/
def State.lowerCount (s : State) (ctx : Nat) (sel : BitVec 16) (slot : BitVec 12) : State :=
  match s.binding? ctx sel slot with
  | none => s
  | some b =>
    let s := s.modBinding ctx sel slot fun b => { b with inflight := (b.inflight + 2 ^ 32 - 1) % 2 ^ 32 }
    if b.state == .revoked && b.inflight == 1 then
      if b.parked == 0 then s.modBinding ctx sel slot fun b => { b with state := .unbound, target := 0, position := 0xFF }
      else s.startResolve ctx s.nextId 0 sel slot b.parked
    else s
/-- Every entry of a cross-call stack is counted down (R175, R269). -/
def State.lowerStack (s : State) (ctx : Nat) (xs : List (BitVec 16 × BitVec 12)) : State :=
  xs.foldl (fun s p => s.lowerCount ctx p.1 p.2) s

/-- What a use of an entry comes to (R267). -/
inductive Use where
  /-- BOUND: the target, with the entry's kind and rights -/
  | served (target : W64) (kind : Nat) (rights : BitVec 5)
  /-- the lanes park on the entry -/
  | park
  /-- FAILED: an unresolved-name halt -/
  | failed
  deriving DecidableEq, Repr

/-- A link cache with an entry put in it; it holds 256 (R266). -/
def cacheLink (ls : List LinkEnt) (e : LinkEnt) : List LinkEnt :=
  (e :: ls.filter fun l => !(l.ctx == e.ctx && l.sel == e.sel && l.slot == e.slot)).take 256

/-- A use of an entry by a split of a core (R266, R267): the outcome, and the state with the entry's change. A use that the core's link
cache holds is served from there, but for a CALLX, whose check and count are made at the entry (R268). -/
def State.useLink (s : State) (ctx gid band core : Nat) (sel : BitVec 16) (slot : BitVec 12) (call : Bool) : Use × State :=
  match if call then none else (s.core core).links.find? fun l => l.ctx == ctx && l.sel == sel && l.slot == slot with
  | some l => (.served l.target l.kind l.rights, s)
  | none =>
    match s.binding? ctx sel slot with
    | none => (.failed, s)
    | some b =>
      match b.state with
      | .bound =>
        (.served b.target b.kind b.rights,
          s.modCore core fun k => { k with links := cacheLink k.links ⟨ctx, sel, slot, b.gen, b.target, b.kind, b.rights⟩ })
      | .unbound => (.park, s.startResolve ctx gid band sel slot 1)
      | .resolving | .revoked => (.park, s.modBinding ctx sel slot fun b => { b with parked := (b.parked + 1) % 2 ^ 32 })
      | .failed => (.failed, s)

/-- Link slots of a code segment (R261). -/
def State.slotCount (s : State) (ctx : Nat) (sel : BitVec 16) : Nat :=
  ((s.ctx? ctx).map fun x => (x.desc sel).slots).getD 0

/-- Step 1 of an unbind (R267, R269): BOUND becomes REVOKED, or passes on to UNBOUND when nothing is in flight; FAILED
becomes UNBOUND; the generation rises and the link caches drop the entry. True when it applied. -/
def State.unbindNow (s : State) (ctx : Nat) (sel : BitVec 16) (slot : BitVec 12) : Bool × State :=
  match s.binding? ctx sel slot with
  | none => (false, s)
  | some b =>
    let drop (s : State) : State :=
      { s with cores := s.cores.map fun p =>
          (p.1, { p.2 with links := p.2.links.filter fun l => !(l.ctx == ctx && l.sel == sel && l.slot == slot) }) }
    match b.state with
    | .bound =>
      (true, drop (s.modBinding ctx sel slot fun b =>
        if b.inflight == 0 then { b with state := .unbound, gen := b.gen + 1, target := 0, position := 0xFF }
        else { b with state := .revoked, gen := b.gen + 1 }))
    | .failed => (true, s.modBinding ctx sel slot fun b => { b with state := .unbound, gen := b.gen + 1 })
    | .unbound | .revoked | .resolving => (false, s)

/-! ### Targets (R65, R74, R164) -/

/-- Where a code segment's start map begins: the first multiple of 64 at or above the limit (R262). -/
def mapBase (limit : Nat) : Nat := (limit + 63) / 64 * 64
/-- The start bit of an offset (R73). -/
def State.startBit (s : State) (die ctx : Nat) (sel : BitVec 16) (limit off : Nat) : Bool :=
  (s.viewByte die (segKey ctx sel (mapBase limit + off / 8))).getLsbD (off % 8)
/-- Why a target may not be transferred to, if it may not (R164): its segment, its right, its limit, its start bit. -/
def State.targetFault (s : State) (die ctx : Nat) (sel : BitVec 16) (off : Int) : Option Nat :=
  if 0xFFFB ≤ sel.toNat && sel.toNat ≤ 0xFFFE then some rRights
  else if selFixed sel then some rNull
  else
    match s.ctx? ctx with
    | none => some rNull
    | some x =>
      let d := x.desc sel
      if d.kind == 0 then some rFreed
      else if !hasRights d.rights rtX then some rRights
      else if off < 0 || (d.limit : Int) ≤ off || (2 ^ 32 : Int) ≤ off then some rLimit
      else if !s.startBit die ctx sel d.limit off.toNat then some rMisaligned
      else none
/-- The halt of the lowest lane whose target fails, if one does (R164): its reason and the handle it names. -/
def State.transferFault (s : State) (die ctx : Nat) : List (Nat × BitVec 16 × Int) → Option (Nat × W64)
  | [] => none
  | (_, sel, off) :: t =>
    match s.targetFault die ctx sel off with
    | some r => some (r, if r == rMisaligned then 0 else handleOf sel off)
    | none => State.transferFault s die ctx t

end Sys2Proof.Machine
end

