-- ==== Sys2Proof/Machine/Fetch.lean ====
section
/-! DEFINITION. Fetching and decoding an instruction (R67, R70 to R76): the checks in their order, and the word. -/

namespace Sys2Proof.Machine

/-- What fetching at a PC comes to (R67). -/
inductive Fetched where
  /-- the word, its length and its instruction -/
  | ok (w : W96) (len : Nat) (i : Instr)
  /-- a halt: its reason, the word and byte offset of the stop record, and its argument -/
  | halt (reason : Nat) (w : W96) (byteOff : Word) (arg : W64)
  /-- a page is not resident (row 3); the handle of the first byte that lies in it (R76) -/
  | page (h : W64)
  /-- an uncorrectable error (row 4); the handle of the first byte that met it -/
  | memerr (h : W64)
  deriving DecidableEq, Repr

/-- Bytes of a code segment in the view of a die. -/
def State.codeBytes (s : State) (die ctx : Nat) (sel : BitVec 16) (off n : Nat) : List Byte :=
  (List.range n).map fun i => s.viewByte die (segKey ctx sel (off + i))
/-- The length of the instruction at an offset, from its mask as it stands in memory (R70, R71). -/
def State.codeLength (s : State) (die ctx : Nat) (sel : BitVec 16) (off : Nat) : Nat :=
  packedLength (natOfBytes (s.codeBytes die ctx sel off 2))
/-- The halt a decoder's refusal raises (R67 rows 5 to 8). -/
def decodeHalt (e : DecErr) (w : W96) (off : Word) : Fetched :=
  match e with
  | .truncated | .packedCode => .halt rPackedCode 0 off 0
  | .unassignedOpcode | .badField => .halt rIllegalInstruction w 0 0
  | .badOperand => .halt rIllegalOperand w 0 0

/-- The fetch and decode checks at a PC (R67), in the order of its table. -/
def State.fetch (s : State) (die ctx : Nat) (p : PC) : Fetched :=
  match s.ctx? ctx with
  | none => .halt rNull 0 p.off (handleOf p.sel p.off.toNat)
  | some x =>
    let d := x.desc p.sel
    let off := p.off.toNat
    if selFixed p.sel then .halt rNull 0 p.off (handleOf p.sel off)
    else if d.kind == 0 then .halt rFreed 0 p.off (handleOf p.sel off)
    else
      let len := if off + 2 ≤ d.limit then s.codeLength die ctx p.sel off else 2
      if d.limit < off + len then .halt rLimit 0 (BitVec.ofNat 32 (max off d.limit)) (handleOf p.sel (max off d.limit : Nat))
      else if !hasRights d.rights rtX then .halt rRights 0 p.off (handleOf p.sel off)
      else
        match s.absentPage ctx p.sel off len, (List.range len).find? fun i => s.ecc [segKey ctx p.sel (off + i)] with
        | some page, _ => .page (handleOf p.sel (max off (page * Config.pageBytes) : Nat))
        | none, some i => .memerr (handleOf p.sel (off + i : Nat))
        | none, none =>
          if !s.startBit die ctx p.sel d.limit off then .halt rPackedCode 0 p.off 0
          else
            match unpack (s.codeBytes die ctx p.sel off len) with
            | .error e => decodeHalt e 0 p.off
            | .ok (w, n, _) =>
              match decodeWord w with
              | .error e => decodeHalt e w p.off
              | .ok i => .ok w n i

/-- The word at a PC, for a stop record (R326); zero where none can be read. -/
def State.wordAt (s : State) (die ctx : Nat) (p : PC) : W96 :=
  match unpack (s.codeBytes die ctx p.sel p.off.toNat 14) with
  | .ok (w, _, _) => w
  | .error _ => 0

end Sys2Proof.Machine
end

