-- ==== Sys2Proof/Machine/Flow.lean ====
section
/-! DEFINITION. The flow instructions (R161 to R178), the end of a thread and of its group, and the releases the hardware
makes at the end of a cycle (R171, R174). -/

namespace Sys2Proof.Machine


/-! ### Branches (R30, R65, R164 to R167) -/

/-- A taken branch of a thread (R30): a backward one is compared with the spin record; the same pair demotes the
thread. -/
def Thread.takeBranch (t : Thread) (at_ : PC) (to_ : PC) : Thread :=
  let t' := { t with pc := to_ }
  if at_.sel == to_.sel && to_.off.toNat ≤ at_.off.toNat then
    if t.spin == some (at_, to_) then { t' with demoted := true } else { t' with spin := some (at_, to_) }
  else t'
/-- A branch of lanes to targets in the current segment, checked whole (R164). -/
def branchTo (s : State) (c : Slot) (g : Group) (ts : List (Nat × Int)) : State :=
  match s.transferFault g.die g.ctx (ts.map fun p => (p.1, c.pc.sel, p.2)) with
  | some (r, arg) => s.haltSplit c r arg
  | none =>
    s.modBand c.gid c.band fun b =>
      b.onLanes c.active fun i t =>
        match ts.find? fun p => p.1 == i with
        | some p => t.takeBranch c.pc ⟨c.pc.sel, BitVec.ofInt 32 p.2⟩
        | none => t.advance c.next
/-- The target of an XT offset (R65). -/
def xtTarget (c : Slot) (off : Word) : Int := (c.pc.off.toNat : Int) + off.toInt
/-- BRA (R165). -/
def execBra (h : Hdr) (off : Word) (s : State) : Out :=
  withSplit s fun c g b => branchTo s c g ((lanesOf (guarded h c b)).map fun i => (i, xtTarget c off))
/-- BRAQ (R166): the target is checked only when the branch is taken. -/
def execBraq (h : Hdr) (off : Word) (s : State) : Out :=
  splitOp s h [] fun e => branchTo s e.c e.g ((lanesOf e.c.active).map fun i => (i, xtTarget e.c off))
/-- JMPI (R167): a short immediate is sign-extended, and its negative target fails the limit. -/
def execJmpi (h : Hdr) (a : Opd) (s : State) : Out :=
  withRegs s [(a, 1)] fun c g b =>
    branchTo s c g ((lanesOf (guarded h c b)).filterMap fun i => (b.threads[i]?).map fun t =>
      let e : Env := ⟨s, c, g, b, t, i⟩
      (i, match a with
        | .imm k => k.toInt
        | o => ((e.read32 o).toNat : Int)))

/-! ### Calls and returns (R168 to R170) -/

/-- A return handle (R168, R169). -/
def returnHandle (sel : BitVec 16) (cr : Bool) (slot : BitVec 12) (off : Word) : W64 :=
  sel ++ BitVec.ofBool cr ++ 0#3 ++ slot ++ off
/-- CALL (R168). -/
def execCall (h : Hdr) (d : Opd) (off : Word) (s : State) : Out :=
  withRegs s [(d, 2)] fun c g b =>
    let ls := lanesOf (guarded h c b)
    if ls.any fun i => ((b.threads[i]?).map fun t => t.depth == 4095).getD false then s.haltSplit c rIllegalOperand 0
    else
      match s.transferFault g.die g.ctx (ls.map fun i => (i, c.pc.sel, xtTarget c off)) with
      | some (r, arg) => s.haltSplit c r arg
      | none =>
        s.modBand c.gid c.band fun b =>
          b.onLanes c.active fun _ t =>
            if laneGuard h t then
              { (t.put64 d (returnHandle c.pc.sel false 0 c.next.off)) with
                depth := t.depth + 1, pc := ⟨c.pc.sel, BitVec.ofInt 32 (xtTarget c off)⟩ }
            else t.advance c.next
/-- The lanes of a split whose guard is true park on a binding entry, to retry the whole instruction (R267); the others go on. -/
def State.parkLink (s : State) (c : Slot) (m : Word) (sel : BitVec 16) (slot : BitVec 12) : State :=
  s.modBand c.gid c.band fun b => b.onLanes c.active fun i t =>
    if m.getLsbD i then t.hold (.bind sel slot) c.next else t.advance c.next
/-- CALLX (R169). -/
def execCallx (h : Hdr) (slot : BitVec 12) (d : Opd) (s : State) : Out :=
  withRegs s [(d, 2)] fun c g b =>
    let m := guarded h c b
    let ls := lanesOf m
    let sel := c.pc.sel
    if ls.isEmpty then s.advanceSplit c
    else if s.slotCount g.ctx sel ≤ slot.toNat then s.haltSplit c rIllegalOperand 0
    else if ls.any fun i => ((b.threads[i]?).map fun t => t.depth == 4095 || 16 ≤ t.xstack.length).getD false then
      s.haltSplit c rIllegalOperand 0
    else
      match s.useLink g.ctx c.gid c.band g.core sel slot true with
      | (.failed, s) => s.haltSplit { c with word := 0 } rUnresolved (bindArg sel slot)
      | (.park, s) => s.parkLink c m sel slot
      | (.served target kind rights, s) =>
        if kind != 1 || !hasRights rights rtX then s.haltSplit c rRights target
        else
          match s.transferFault g.die g.ctx (ls.map fun i => (i, hsel target, (hoff target : Int))) with
          | some (r, arg) => s.haltSplit c r arg
          | none =>
            (s.modBinding g.ctx sel slot fun e => { e with inflight := (e.inflight + ls.length) % 2 ^ 32 }).modBand c.gid c.band fun b =>
              b.onLanes c.active fun _ t =>
                if laneGuard h t then
                  { (t.put64 d (returnHandle sel true slot c.next.off)) with
                    depth := t.depth + 1, xstack := (sel, slot) :: t.xstack,
                    pc := ⟨hsel target, BitVec.ofNat 32 (hoff target)⟩ }
                else t.advance c.next
/-- Whether a return handle is malformed for a thread (R170). -/
def badReturn (t : Thread) (x : W64) : Bool :=
  let slot := x.extractLsb' 32 12
  x.extractLsb' 44 3 != 0#3 || t.depth == 0 || (!x.getLsbD 47 && slot != 0#12) ||
    (x.getLsbD 47 && t.xstack.head? != some (x.extractLsb' 48 16, slot))
/-- RET (R170). -/
def execRet (h : Hdr) (a : Opd) (s : State) : Out :=
  withRegs s [(a, 2)] fun c g b =>
    let hs : List (Nat × Thread × W64) := (lanesOf (guarded h c b)).filterMap fun i => (b.threads[i]?).map fun t =>
      (i, t, Env.read ⟨s, c, g, b, t, i⟩ true a)
    if hs.any fun p => badReturn p.2.1 p.2.2 then s.haltSplit c rIllegalOperand 0
    else
      match s.transferFault g.die g.ctx (hs.map fun p => (p.1, p.2.2.extractLsb' 48 16, ((p.2.2.extractLsb' 0 32).toNat : Int))) with
      | some (r, arg) => s.haltSplit c r arg
      | none =>
        let s := s.modBand c.gid c.band fun b =>
          b.onLanes c.active fun i t =>
            match hs.find? fun p => p.1 == i with
            | some p =>
              { t with
                xstack := if p.2.2.getLsbD 47 then t.xstack.drop 1 else t.xstack
                depth := t.depth - 1, pc := ⟨p.2.2.extractLsb' 48 16, p.2.2.extractLsb' 0 32⟩ }
            | none => t.advance c.next
        hs.foldl (fun s p =>
          if p.2.2.getLsbD 47 then s.lowerCount g.ctx (p.2.2.extractLsb' 48 16) (p.2.2.extractLsb' 32 12) else s) s

/-! ### Joins (R162, R171 to R174) -/

/-- JOIN (R171): the mask is the band register as it stands at issue (R113). -/
def execJoin (h : Hdr) (a : Opd) (s : State) : Out :=
  withSplit s fun c g b =>
    let m := (bandEnv s c g b).read32 a
    s.modBand c.gid c.band fun b =>
      b.onLanes c.active fun _ t => if laneGuard h t then t.hold (.join m c.pc) c.next else t.advance c.next
/-- Whether a thread is below a JOIN at a PC, judged with a waiting lane's call depth (R162). -/
def belowJoin (t : Thread) (at_ : PC) (depth : Nat) : Bool :=
  depth < t.depth || (t.depth == depth && (t.pc.sel != at_.sel || t.pc.off.toNat < at_.off.toNat))
/-- Whether a waiting thread's JOIN is released (R171): no live thread of its mask is below the JOIN. -/
def joinFree (ts : List Thread) (t : Thread) : Bool :=
  match t.wait with
  | .join m at_ => t.here && !((mapIdx (fun i u => m.getLsbD i && u.here && belowJoin u at_ t.depth) ts 0).any id)
  | _ => false
/-- The end-of-cycle release of a band's JOIN waiters, all judged on one state (R171). -/
def Band.releaseJoins (b : Band) : Band :=
  { b with threads := b.threads.map fun t => if joinFree b.threads t then t.release else t }
/-- The PC a thread's implicit join waits at. -/
def ijoinPc : Wait → Option PC
  | .ijoin p _ => some p
  | _ => none
/-- Whether a band meets the conditions of a collective-divergence halt (R174). -/
def Band.diverged (b : Band) : Bool :=
  let ls := b.threads.filter (·.here)
  let stuck (t : Thread) : Bool :=
    match t.wait with
    | .ijoin _ _ | .join _ _ => true
    | _ => false
  let pcs := ls.filterMap fun t => ijoinPc t.wait
  ls.all (fun t => !t.stopped && stuck t) && !pcs.isEmpty &&
    !(ls.all fun t => ijoinPc t.wait == pcs.head?)
/-- The PC at which a band stands gathered for a group collective (R232). -/
def Band.gathered (b : Band) : Option PC :=
  match ((b.threads.filter (·.here)).map fun t => t.wait : List Wait) with
  | Wait.ijoin p true :: ws => if ws.all (· == Wait.ijoin p true) then some p else none
  | _ => none
/-- Whether every live band of a group is gathered at a group collective, not all at one PC (R232). -/
def Group.diverged (g : Group) : Bool :=
  let ps := (g.bands.filter fun b => b.live != 0#32).map Band.gathered
  ps.all Option.isSome && !(ps.all (· == ps.head?.join))
/-- Whether every live thread of a band is stopped by BRK or waits at a JOIN or an implicit join, one at least stopped
(R177, LANE mode). -/
def Band.brkDone (b : Band) : Bool :=
  let ls := b.threads.filter (·.here)
  ls.any (·.stopped) && ls.all fun t => t.stopped ||
    match t.wait with
    | .join _ _ | .ijoin _ _ => true
    | _ => false
/-- The PC a band's stop record and halt name: its lowest live PC. -/
def lowestPc : List Thread → Option PC
  | [] => none
  | t :: ts =>
    match lowestPc ts with
    | none => if t.here then some t.pc else none
    | some p => if t.here && t.pc.lt p then some t.pc else some p
/-- A halt of a band that no instruction raises (R174, R177, R232). -/
def State.haltBand (s : State) (gid band reason : Nat) (active : Word) (arg : W64) : State :=
  match s.group? gid, s.band? gid band with
  | some g, some b =>
    let pc := (lowestPc b.threads).getD ⟨0, 0⟩
    s.takeHalt gid band reason active pc (s.wordAt g.die g.ctx pc) 0 arg
  | _, _ => s
/-- Every band of a group halts with one reason; the first in the order of R323 is the primary. -/
def State.haltGroup (s : State) (gid reason : Nat) : State :=
  match s.group? gid with
  | some g =>
    let order := (mapIdx (fun i b => (b.slice * 16 + b.seat, i)) g.bands 0).filter fun p =>
      ((g.bands[p.2]?).map (·.live)).getD 0#32 != 0#32
    let sorted := order.foldr (fun x acc => let (lo, hi) := acc.partition fun y => y.1 < x.1; lo ++ x :: hi) []
    sorted.foldl (fun s p =>
      s.haltBand gid p.2 reason (if reason == rCollective then 0 else ((g.bands[p.2]?).map (·.live)).getD 0) 0) s
  | none => s
/-- Whether a band can still meet a fault of its own (R323, R324): its context's line has not stopped it, and it has none yet. -/
def State.canFault (s : State) (g : Group) (b : Band) : Bool :=
  (s.ctx? g.ctx).isSome && g.place == GPlace.seated && b.fault.isNone && !s.lineAt g.ctx g.core
/-- JOIN_RELEASE (R171, R174): the end-of-cycle release of a band, then the checks for divergence, and the halt that
LANE mode delays (R177). A band that meets one while the line is high and has not stopped it records it as R323 says. No split has
faulted, and the S.ACTIVE of the record (R326) is 0 (DESIGN CHOICE, log entry 94). -/
def execJoinRelease (gid band : Nat) (s : State) : Out :=
  .next (
    let s := s.thaw gid (s.modBand gid band Band.releaseJoins)
    match s.group? gid, s.band? gid band with
    | some g, some b =>
      if !s.canFault g b then s
      else if b.diverged then s.haltBand gid band rCollective 0 0
      else if g.diverged then s.haltGroup gid rCollective
      else if b.brkDone then s.haltBand gid band rBreak 0 0
      else s
    | _, _ => s)

/-! ### The end of a thread and of a group (R33, R175, R289) -/

/-- Loads and atomics still pending to a lane are discarded (R175); a store to a peer goes on (R349). -/
def State.dropLoads (s : State) (gid band lane : Nat) : State :=
  { s with loads := s.loads.filter fun l => !(l.gid == gid && l.band == band && l.lane == lane) || l.dst == .imm 0 }
/-- A thread as EXIT leaves it (R175, R284). -/
def Thread.exited (t : Thread) : Thread :=
  { t with
    live := false, wait := .none, xstack := [], nap := 0, pend := [], batch := 0, bdone := 0, openOps := 0, sealed := [], vUnder := [], woken := false }
/-- A group that has ended leaves its seats and its launch (R33, R271, R289). Its engine operations go on. -/
def State.endGroup (s : State) (gid : Nat) : State :=
  match s.group? gid with
  | none => s
  | some g =>
    if g.place == .ended then s
    else
      let s := s.modGroup gid fun g => { g with place := .ended, moving := false, tiles := [], saveQ := [], follows := [] }
      let s := s.modLaunch g.lid fun l => { l with groupsLeft := l.groupsLeft - 1 }
      { s with loads := s.loads.filter fun l => l.gid != gid }
/-- A band whose last live thread has exited holds no chunks (R103, R107). -/
def Band.dropHeld (b : Band) : Band := if b.threads.any (·.live) then b else { b with held := 0, chunks := [], under := [] }
/-- Whether a group has a live thread. -/
def Group.anyLive (g : Group) : Bool := g.bands.any fun b => b.threads.any (·.live)
/-- Whether a group has arrived at its cluster barrier and waits there (R287). -/
def Group.arrived (g : Group) : Bool := g.bands.any fun b => b.threads.any fun t =>
  t.live && match t.wait with
    | .cbar _ a => a
    | _ => false
/-- A group is terminated (R191, R219, R269): an arrival at its cluster barrier is taken back (R289), and
cross-call counts are lowered for every entry its threads hold. -/
def State.terminate (s : State) (gid : Nat) : State :=
  match s.group? gid with
  | none => s
  | some g =>
    let s := g.bands.foldl (fun s b => b.threads.foldl (fun s t => s.lowerStack g.ctx t.xstack) s) s
    let s := g.inl.foldl (fun s f => s.lowerStack g.ctx f.held) s
    let s := if g.arrived then s.modCluster g.cid fun k => { k with arrivals := k.arrivals - 1 } else s
    let s := s.modGroup gid fun g => { g with bands := g.bands.map fun b => { b with threads := b.threads.map Thread.exited, guide := none } }
    s.endGroup gid
/-- The twin of a band of a launch with sleeves (R15). -/
def twinBand (band : Nat) : Nat := if band % 2 == 0 then band + 1 else band - 1
/-- A band whose twin has no live thread left and that waits in GUIDE halts (R228). -/
def State.twinGone (s : State) (gid band : Nat) : State :=
  match s.band? gid band, s.band? gid (twinBand band) with
  | some b, some w =>
    if b.live == 0#32 && w.guide.isSome && w.threads.any (fun t => t.live && t.wait == .guide) then
      s.haltBand gid (twinBand band) rTwin 0 0
    else s
  | _, _ => s
/-- EXIT (R175); inside an inline child it ends the thread's part of the child (R246). -/
def execExit (h : Hdr) (s : State) : Out :=
  withSplit s fun c g b =>
    let m := guarded h c b
    let ls := lanesOf m
    let s1 := ls.foldl (fun s i => ((b.threads[i]?).map fun t => s.lowerStack g.ctx t.xstack).getD s) s
    let s2 := ls.foldl (fun s i => s.dropLoads c.gid c.band i) s1
    let inl := !g.inl.isEmpty
    let s3 := s2.modBand c.gid c.band fun b =>
      b.onLanes c.active fun _ t =>
        if laneGuard h t then
          if inl then { t with wait := .inl, xstack := [], pend := [] } else t.exited
        else t.advance c.next
    let s3 := s3.modBand c.gid c.band Band.dropHeld
    let s4 := if s.sleeves g then s3.twinGone c.gid c.band else s3
    match s4.group? c.gid with
    | some g' => if g'.anyLive then s4 else s4.endGroup c.gid
    | none => s4

/-! ### NAP, BRK, TRAPI (R176 to R178) -/

/-- NAP (R176): the lane goes on and is not eligible while its count is not zero. -/
def execNap (h : Hdr) (a : Opd) (s : State) : Out :=
  laneOp s h [(a, 1)] fun e => { e.t with nap := min (e.read32 a).toNat 1048575 }
/-- NAP_EXPIRY (R176): a count that has run down to its last cycle ends, with those of its band that end in that cycle. -/
def execNapExpiry (gid band lane : Nat) (s : State) : Out :=
  .next (s.thaw gid <| s.modBand gid band fun b => b.releaseAll lane (fun t => t.nap == 1) fun t => { t with nap := 0 })
/-- A mask of lanes and a band number, as BREAK and SOFTWARE events carry them (R259). -/
def laneArg (m : Word) (band : Nat) : W64 := BitVec.ofNat 64 (m.toNat + band * 2 ^ 32)
/-- The stop whose code stands once a band has one more: the earliest, and among those of one cycle that of the lowest lane (R177). -/
def Band.brkCode (b : Band) (x : BrkStop) : BrkStop :=
  match b.brk with
  | some y => if y.cyc == x.cyc && x.lane < y.lane then x else y
  | none => x
/-- BRK (R177). In LANE mode the last running lane's stop is judged as it issues, so that a lane whose JOIN the end of the same cycle would
release still counts as waiting (DESIGN CHOICE, log entry 94). -/
def execBrk (h : Hdr) (code : BitVec 15) (s : State) : Out :=
  withSplit s fun c g b =>
    let stop := guarded h c b &&& maskOfLanes (fun t => !t.breakPassed) b.threads
    let s1 := s.modBand c.gid c.band fun b =>
      { (b.onLanes c.active fun _ t =>
          if laneGuard h t then
            if t.breakPassed then { (t.advance c.next) with breakPassed := false } else { t with stopped := true }
          else t.advance c.next) with
        brk := if stop == 0#32 then b.brk else some (b.brkCode ⟨code, s.cycle, (lanesOf stop).headD 0⟩) }
    if stop == 0#32 then s1
    else if ((s.ctx? g.ctx).map (·.laneDebug)).getD false then
      let s2 := (s1.post g.ctx clBreak c.gid c.band c.pc.val (laneArg stop c.band) (code.setWidth 32) false).2.2
      match s2.band? c.gid c.band with
      | some b' => if b'.brkDone then s2.takeHalt c.gid c.band rBreak c.active c.pc c.word 0 0 else s2
      | none => s2
    else s1.takeHalt c.gid c.band rBreak c.active c.pc c.word 0 0
/-- TRAPI (R178): the lanes park until the owner of SOFTWARE replies; with no owner the reply is 0xFFFF_FFFF at once. -/
def execTrapi (h : Hdr) (code : BitVec 15) (d : Opd) (s : State) : Out :=
  withRegs s [(d, 1)] fun c g b =>
    let m := guarded h c b
    if m == 0#32 then s.advanceSplit c
    else
      let r := s.post g.ctx clSoftware c.gid c.band c.pc.val (laneArg m c.band) (code.setWidth 32) true
      r.2.2.modBand c.gid c.band fun b =>
        b.onLanes c.active fun _ t =>
          if laneGuard h t then
            if r.2.1 then t.hold (.trap r.1 d code none) c.next else (t.put32 d 0xFFFFFFFF).advance c.next
          else t.advance c.next

/-! ### Collectives that were gathered by waiting (R173) -/

/-- Whether the live threads of a band all wait at one implicit join, whose PC this is. -/
def Band.gatheredAny (b : Band) : Option PC :=
  match ((b.threads.filter (·.here)).map fun t => ijoinPc t.wait : List (Option PC)) with
  | some p :: ws => if ws.all (· == some p) then some p else none
  | _ => none

end Sys2Proof.Machine
end

