-- ==== Sys2Proof/Machine/Access.lean ====
section
/-! DEFINITION. The shared parts of the memory instructions: the checks of R190 over all lanes, parking traps and their
services (R186, R188, R322, R361), loads that wait for their data (R105, R194), stores and their effects on the group
(R30, R176), read-modify-writes (R195 to R198, R309) and uncorrectable errors (R191). -/

namespace Sys2Proof.Machine

/-! ### The device's own accesses to a context's segments -/

/-- The bytes a handle of a context names for the device itself, by the limits of the segment table alone. -/
def State.devKeys (s : State) (ctx : Nat) (h : W64) (off n : Nat) : Option (Space × List Key) :=
  match s.ctx? ctx with
  | none => none
  | some x =>
    if selFixed (hsel h) then none
    else
      match s.descSeg x (hsel h) ((hoff h + off : Nat) : Int) n ⟨0, false, false⟩ with
      | .ok sp ks => some (sp, ks)
      | _ => none
/-- A write of the device that every party sees at once: system scope (R302). -/
def State.sysWrite (s : State) (space : Space) (ks : List Key) (bs : List Byte) : State :=
  match space with
  | .device =>
    let everywhere (s : State) (id : Nat) : State := [0, 1, 2, 3].foldl (fun s d => s.forceApply d id) s
    let s := (s.writes.filter fun w => ks.any fun k => (w.byte? k).isSome).foldl (fun s w => everywhere s w.id) s
    let die := s.ensign.getD 0
    let (id, s) := s.fresh
    let w : WriteRec := ⟨id, id, 0, 32, die, bytesAt ks bs, none, [die], [], false, [], false⟩
    everywhere ({ s with writes := s.writes ++ [w] }.stampOne w) id
  | _ => s.putBytes (ks.zip bs)
/-- A write of the device through a handle of a context; one whose segment is gone, or a partial one onto an uncorrectable error (R189),
writes nothing. -/
def State.devWrite (s : State) (ctx : Nat) (h : W64) (off : Nat) (bs : List Byte) : State :=
  match s.devKeys ctx h off bs.length with
  | some (sp, ks) => if s.eccStore ks ks then s else (s.sysWrite sp ks bs).clearErrors ks
  | none => s
/-- A read of the device through a handle of a context; none where its bytes cannot be read, an uncorrectable error among the reasons (R189). -/
def State.devRead (s : State) (ctx : Nat) (h : W64) (off n : Nat) : Option (List Byte) :=
  (s.devKeys ctx h off n).bind fun p =>
    if s.ecc p.2 then none else some (p.2.map fun k => s.readByte (s.ensign.getD 0) s.nextId 0 32 p.1 k)

/-- Whether the bytes of such a read hold an uncorrectable error (R189). -/
def State.devBad (s : State) (ctx : Nat) (h : W64) (off n : Nat) : Bool := ((s.devKeys ctx h off n).map fun p => s.ecc p.2).getD false
/-- What the host on a port has written through BAR2 shows on some dies: a party that acts on a store of that host to a launch register
acquires at system scope (R238, R302, R312). -/
def State.hostSync (s : State) (port : Nat) (dies : List Nat) : State :=
  (s.writes.filter fun w => w.lane == hostLane && w.band == port).foldl (fun s w => dies.foldl (fun s d => s.forceApply d w.id) s) s

/-! ### Parking traps (R186, R190, R258, R322) -/

/-- The described segment and page that a handle's bytes lie in, through a view where it names one (R182). -/
def State.pageOf (s : State) (ctx : Nat) (h : W64) : BitVec 16 × Nat :=
  match s.ctx? ctx with
  | none => (hsel h, 0)
  | some x =>
    let d := x.desc (hsel h)
    if d.kind == 6 then (d.under, (d.base + hoff h) / Config.pageBytes) else (hsel h, hoff h / Config.pageBytes)
/-- The lanes of a split park on a page that is not resident, for a fetch or for the instruction's own access; in host-assisted mode a PAGE
event asks its owner, and with no owner the lanes wake into the halt at once (R258). -/
def State.parkPage (s : State) (c : Slot) (ctx : Nat) (h : W64) (fetch : Bool) : State :=
  if s.mode.getLsbD 3 then s.holdLanes c c.active (.page h fetch)
  else
    let r := s.postOpen ctx clPage c.gid c.band c.pc.val (some h) true
    if r.2.1 then r.2.2.holdLanes c c.active (.page h fetch)
    else if fetch then r.2.2.takeHalt c.gid c.band rPage c.active c.pc 0 (h.extractLsb' 0 32) h else r.2.2.haltSplit c rPage h
/-- The lanes of a split park on private growth (R186); with no owner in host-assisted mode it is refused (R258). -/
def State.parkGrowth (s : State) (c : Slot) (ctx : Nat) (h : W64) : State :=
  if s.mode.getLsbD 2 then s.holdLanes c c.active (.growth h)
  else
    let r := s.postOpen ctx clGrowth c.gid c.band c.pc.val (some h) true
    if r.2.1 then r.2.2.holdLanes c c.active (.growth h) else r.2.2.haltSplit c rPrivate h
/-- What a thread's parking trap waits for: its handle, or the key of its binding entry, and whether it is a fetch's. -/
def Wait.trapped : Wait → W64 × Bool
  | .page h f => (h, f)
  | .growth h => (h, false)
  | .bind sel slot => (bindArg sel slot, false)
  | _ => (0, false)
/-- Lanes of a band whose wait meets a test are to retry their instruction once their context resumes (R324, R330). -/
def State.wakeLater (s : State) (gid band : Nat) (test : Wait → Bool) : State :=
  s.modBand gid band fun b => b.onLanes (maskOfLanes (fun t => test t.wait) b.threads) fun _ t => { t with woken := true }
/-- Lanes of a band whose wait meets a test wake and retry; frozen lanes do so when their context resumes (R324). -/
def State.wakeRetry (s : State) (gid band : Nat) (test : Wait → Bool) : State :=
  if s.frozen gid then s.wakeLater gid band test
  else s.modBand gid band fun b => b.onLanes (maskOfLanes (fun t => test t.wait) b.threads) fun _ t => t.retry
/-- Whether a group is not seated: it is swapped out, waits in a phase queue, or has ended. -/
def State.away (s : State) (gid : Nat) : Bool := ((s.group? gid).map fun g => g.place != GPlace.seated).getD false
/-- Lanes of a band whose wait meets a test wake into a halt of those at the lowest PC (R322). Frozen lanes retry when they resume, and the
wake of a group that is swapped out is recorded in its image (R268): its lanes retry once it is restored (log entry 80). -/
def State.wakeHalt (s : State) (gid band reason : Nat) (test : Wait → Bool) : State :=
  if s.frozen gid || s.away gid then s.wakeRetry gid band test
  else
    match s.group? gid, s.band? gid band with
    | some g, some b =>
      let here (t : Thread) : Bool := t.here && test t.wait
      let m := maskOfLanes here b.threads
      if m == 0#32 then s
      else
        let pc := (lowestPc (b.threads.filter here)).getD ⟨0, 0⟩
        let first (t : Thread) : Bool := here t && t.pc == pc
        let w := ((b.threads.find? first).map fun t => t.wait.trapped).getD (0, false)
        (s.modBand gid band fun b => b.onLanes m fun _ t => t.retry).takeHalt gid band reason (maskOfLanes first b.threads) pc
          (if w.2 || reason == rUnresolved then 0 else s.wordAt g.die g.ctx pc) (if w.2 then w.1.extractLsb' 0 32 else 0) w.1
    | _, _ => s
/-- Every band of a context's groups, by name. -/
def State.bandsOf (s : State) (ctx : Nat) : List (Nat × Nat) :=
  (s.groups.filter fun p => p.2.ctx == ctx).flatMap fun p => (List.range p.2.bands.length).map fun i => (p.1, i)
/-- Whether a wait is for a page of a segment; a straddling access waits for the next page as well. -/
def State.waitsPage (s : State) (ctx : Nat) (sel : BitVec 16) (page : Nat) (w : Wait) : Bool :=
  match w with
  | .page h _ => let q := s.pageOf ctx h; q.1 == sel && (q.2 == page || q.2 + 1 == page)
  | _ => false
/-- The IV of a page's sealing (R361): its number in the segment, and its version. -/
def sealIv (page v : Nat) : List Byte := bytesOfNat 4 page ++ bytesOfNat 8 v
/-- Bytes encrypted or decrypted (R361): the two are one operation. -/
def crypt (key iv bs : List Byte) : List Byte := mapIdx (fun i b => b ^^^ Config.gcmStream key iv i) bs 0
/-- The tag of a page's ciphertext (R361): the additional data is the context number and the selector. -/
def sealTag (key : List Byte) (ctx : Nat) (sel : BitVec 16) (iv bs : List Byte) : List Byte :=
  (List.range 16).map (Config.gcmTag key iv (bytesOfNat 2 ctx ++ bytesOfNat 2 sel.toNat) bs)
/-- Bytes of a segment's page that lie within its limit. -/
def Desc.pageLen (d : Desc) (page : Nat) : Nat := min Config.pageBytes (d.limit - page * Config.pageBytes)
/-- The bytes of a page of a sealed-host segment where it lies sealed in host memory, and where it is resident. -/
def sealedKeys (ctx : Nat) (sel : BitVec 16) (page n : Nat) : List Key := (List.range n).map fun i => sealedKey ctx sel (page * Config.pageBytes + i)
/-- The same, resident. -/
def residentKeys (ctx : Nat) (sel : BitVec 16) (page n : Nat) : List Key := (List.range n).map fun i => segKey ctx sel (page * Config.pageBytes + i)
/-- A page's version (R361); 0 where it has never been sealed. -/
def State.version (s : State) (ctx : Nat) (sel : BitVec 16) (page : Nat) : Nat := tabGetD s.versions (pageKey ctx sel page) 0
/-- A non-resident page is unsealed (R361): its ciphertext in host memory is checked against its tag with the device's own version; a missing
key and a tag that does not match refuse it, write nothing, and say so in the slot's last-status word. -/
def State.unseal (s : State) (ctx : Nat) (sel : BitVec 16) (page : Nat) : Bool × State :=
  match s.ctx? ctx with
  | none => (true, s)
  | some x =>
    let d := x.desc sel
    if d.kind != 7 then (true, s)
    else
      match tabGet s.keys d.keySlot with
      | none => (false, { s with keys := tabSet s.keys d.keySlot ⟨ctx, sel, [], 0, 2⟩ })
      | some k =>
        if k.key.isEmpty || k.ctx != ctx || k.sel != sel then
          (false, { s with keys := tabSet s.keys d.keySlot { k with status := 2 } })
        else
          let iv := sealIv page (s.version ctx sel page)
          let bs := (sealedKeys ctx sel page (d.pageLen page)).map (memGet s.mem)
          if s.devRead ctx k.tags (16 * page) 16 == some (sealTag k.key ctx sel iv bs) then
            (true, { s with mem := memPut s.mem ((residentKeys ctx sel page (d.pageLen page)).zip (crypt k.key iv bs)) })
          else (false, { s with keys := tabSet s.keys d.keySlot { k with status := 1 } })
/-- A demand page is answered (R353, R361): it becomes resident and the lanes that wait for it wake, or they wake into the
halt PAGE, or SEAL_CHECK where its unsealing fails. -/
def State.servePage (s : State) (ctx : Nat) (sel : BitVec 16) (page : Nat) (grant : Bool) : State :=
  let bands := s.bandsOf ctx
  let refuse (s : State) (reason : Nat) : State :=
    bands.foldl (fun s p => s.wakeHalt p.1 p.2 reason (s.waitsPage ctx sel page)) s
  let wake (s : State) : State := bands.foldl (fun s p => s.wakeRetry p.1 p.2 (s.waitsPage ctx sel page)) s
  if !s.absent.contains (pageKey ctx sel page) then wake s
  else if !grant then refuse s rPage
  else
    let u := s.unseal ctx sel page
    if u.1 then wake { u.2 with absent := u.2.absent.filter (· != pageKey ctx sel page) } else refuse u.2 rSealCheck
/-- Whether a wait is for private growth. -/
def waitsGrowth : Wait → Bool
  | .growth _ => true
  | _ => false
/-- A private-growth trap is answered (R186): the high-water mark rises by whole 64 KB units until it exceeds every
offset waited for, and the lanes wake; a refusal wakes them into the halt PRIVATE. -/
def State.serveGrowth (s : State) (gid band : Nat) (grant : Bool) : State :=
  match s.band? gid band with
  | none => s
  | some b =>
    let hs := b.threads.filterMap fun t =>
      match t.wait with
      | .growth h => some (hoff h)
      | _ => none
    if hs.isEmpty then s
    else if grant then
      let top := (hs.foldl max 0 / 65536 + 1) * 65536
      (s.modBand gid band fun b => { b with hwm := max (b.hwm + 65536) top }).wakeRetry gid band waitsGrowth
    else s.wakeHalt gid band rPrivate waitsGrowth

/-! ### Uncorrectable errors (R191) -/

/-- An uncorrectable error met for a group by lanes of a band: a MEMERR report and the end of the group, or a halt of the context under the
escalation bit. The report's lane and kind of access have no stated place in R259 and are kept beside it; its class-specific word is
a free value (log entry 5). -/
def State.memErr (s : State) (gid band : Nat) (active : Word) (lane : Nat) (pc : PC) (h : W64) (byteOff : Word) (kind : Nat) : State :=
  match s.group? gid with
  | none => s
  | some g =>
    if ((s.ctx? g.ctx).map (·.escalate)).getD false then
      s.takeHalt gid band rMemerr active pc (s.wordAt g.die g.ctx pc) byteOff 0
    else
      let (w, s) := s.freeWord
      ((s.postWith g.ctx clMemerr gid band pc.val h (w.extractLsb' 0 32) false [lane, kind]).2.2).terminate gid
/-- An uncorrectable error that a lane of the issuing split meets. -/
def State.memErrSplit (s : State) (c : Slot) (lane : Nat) (h : W64) (kind : Nat) : State :=
  s.memErr c.gid c.band c.active lane c.pc h 0 kind
/-- The memory kind of a byte, by which errors are counted (R189): 0 HBM, 1 scratchpad, 2 accumulator memory, 3 register files, 4 shadow
layer. -/
def memKind (k : Key) : Nat :=
  let tag := k % 8
  if tag == 1 then 1 else if tag == 5 then 2 else if tag == 6 then 3 else if tag == 7 then 4 else 0
/-- A die's count of corrected or uncorrected errors rises (R189). -/
def State.countErr (s : State) (die kind : Nat) (hard : Bool) : State :=
  s.modDie die fun d =>
    if hard then { d with uncorrected := tabSet d.uncorrected kind (tabGetD d.uncorrected kind 0 + 1) }
    else { d with corrected := tabSet d.corrected kind (tabGetD d.corrected kind 0 + 1) }
/-- An uncorrectable error at a byte, counted and reported (R189, R191). -/
def State.hardErr (s : State) (c : Slot) (die lane : Nat) (ks : List Key) (h : W64) (kind : Nat) : State :=
  (s.countErr die (memKind (ks.headD 0)) true).memErrSplit c lane h kind

/-- Whether a group has ended (R271). -/
def State.gone (s : State) (gid : Nat) : Bool := ((s.group? gid).map fun g => g.place == GPlace.ended).getD true

/-- An uncorrectable error in what an instruction of a whole split reads (R191): its group ends, or the split stays where it is. -/
def State.splitErr (s : State) (c : Slot) (die : Nat) (ks : List Key) (h : W64) : State :=
  let s := s.hardErr c die ((lanesOf c.active).headD 0) ks h 0
  if s.gone c.gid then s.advanceSplit c else s

/-! ### The checks of R190 -/

/-- An access of one lane: the handle it names and what the handle comes to. -/
structure Access where
  lane : Nat
  h : W64
  res : Res
  deriving DecidableEq, Repr

/-- The access that decides (R190): of those in ascending lane order, the first of the lowest row. -/
def worstOf : List Access → Option Access
  | [] => none
  | a :: t =>
    match worstOf t with
    | none => if a.res.row < 8 then some a else none
    | some b => if a.res.row ≤ b.res.row then some a else some b
/-- Row 4 for an access that rows 1 to 3 pass (R190). -/
def Res.orIllegal (r : Res) (bad : Bool) : Res :=
  match r with
  | .halt n x => if n ≤ 3 then .halt n x else if bad then .halt 4 rIllegalOperand else r
  | r => if bad then .halt 4 rIllegalOperand else r
/-- The outcome of the checks of a split's accesses: the halt, the parking trap, or the access performed (R190). An access
that waits for a save or restore to complete leaves its lanes at the instruction (R184). -/
def State.checked (s : State) (c : Slot) (ctx : Nat) (as : List Access) (perform : State) : State :=
  match worstOf as with
  | none => perform
  | some a =>
    match a.res with
    | .halt row reason => s.haltSplit c reason (if row == 4 then 0 else a.h)
    | .page h => s.parkPage c ctx h false
    | .growth h => s.parkGrowth c ctx h
    | .wait | .ok _ _ => s
/-- How a byte is carried, by its key. -/
def spaceOfKey (k : Key) : Space :=
  if k % 8 == 0 then .device
  else if k % 8 == 1 then .scratch
  else if k % 8 == 3 then .host (k / 8 / 2 ^ 64) else if k % 8 == 4 then .peer else .single
/-- A page enters a core's translation cache, which holds 2,048; the oldest leaves it (R179, log entry 94). -/
def Core.cachePage (k : Core) (page : Nat) : Core :=
  if k.pages.contains page then k else { k with pages := (page :: k.pages).take 2048 }
/-- The page of a byte of device memory, by its key. -/
def pageOfKey (k : Key) : Nat :=
  let id := k / 8 / 2 ^ 64
  pageKey (id / 65536) (BitVec.ofNat 16 id) (k / 8 % 2 ^ 64 / Config.pageBytes)
/-- The names of pages of private regions begin here; the context stands in their low 16 bits. -/
abbrev privatePages : Nat := 2 ^ 59
/-- The page of a band's private region that a byte lies in, by its key (R185). -/
def privPage (ctx : Nat) (k : Key) : Nat := privatePages + (k / 8 / 2 ^ 64 * 65536 + k / 8 % 2 ^ 64 / Config.pageBytes) * 65536 + ctx
/-- The pages that an access is translated through (R179), with the constant window at a handle (R187): of a segment the first and the last
page that its bytes lie in, of a private region each; scratchpad has none. -/
def State.pagesOf (s : State) (ctx : Nat) (cbase : W64) (a : Access) : List Nat :=
  match a.res with
  | .ok _ [] => []
  | .ok _ ks =>
    if hsel a.h == 0xFFFC#16 then (ks.map (privPage ctx)).eraseDups
    else
      let h := if hsel a.h == 0xFFFB#16 then handleOf (hsel cbase) ((hoff cbase : Int) + hoff a.h) else a.h
      if selFixed (hsel h) then []
      else [0, ks.length - 1].map fun i =>
        let q := s.pageOf ctx (handleOf (hsel h) ((hoff h + i : Nat) : Int))
        pageKey ctx q.1 q.2
  | _ => []
/-- The pages that accesses of a band's group touched enter its core's translation cache (R179). -/
def State.cachePages (s : State) (core ctx gid band : Nat) (as : List Access) : State :=
  let cbase := ((s.band? gid band).map (·.cbase)).getD 0
  s.modCore core fun k => (as.flatMap (s.pagesOf ctx cbase)).foldl Core.cachePage k

/-! ### Loads (R105, R194) -/

/-- Bytes of an access of a type (R194). -/
def tyBytes (ty : Ty) : Nat := (ty.or .i32).bits / 8
/-- A loaded value at register width (R194): I8 and I16 sign-extended, N8 and N16 zero-extended, others as they are. -/
def extendTy (ty : Ty) (x : Nat) : W64 :=
  match ty with
  | .i8 => ((BitVec.ofNat 8 x).signExtend 32).setWidth 64
  | .i16 => ((BitVec.ofNat 16 x).signExtend 32).setWidth 64
  | _ => BitVec.ofNat 64 x
/-- A destination made pending on an access, and its place in the last-result queue taken (R105). The queue entry of bits
[31:0] is marked 2 id, that of bits [63:32] 2 id + 1. -/
def Thread.pendOn (t : Thread) (d : Opd) (wide : Bool) (id : Nat) : Thread :=
  let t1 :=
    match regKey d with
    | some r => { t with pend := tabSet (if wide then tabSet t.pend (r + 1) id else t.pend) r id }
    | none => t
  let q := t1.lq.push ⟨0, some (2 * id), false⟩
  { t1 with lq := if wide then q.push ⟨0, some (2 * id + 1), false⟩ else q }
/-- A queue entry filled when its access completes. -/
def LEntry.fill (e : LEntry) (id : Nat) (x : W64) : LEntry :=
  if e.pend == some (2 * id) then ⟨x.extractLsb' 0 32, none, false⟩
  else if e.pend == some (2 * id + 1) then ⟨x.extractLsb' 32 32, none, false⟩ else e
/-- The result of an access arrives (R105): it fills its register and its queue position, where they still wait for it. -/
def Thread.fill (t : Thread) (d : Opd) (wide : Bool) (id : Nat) (x : W64) : Thread :=
  let lo := x.extractLsb' 0 32
  let hi := x.extractLsb' 32 32
  let t1 :=
    match d with
    | .v i =>
      let t := if tabGet t.pend i.toNat == some id then t.setV i.toNat lo else t
      if wide && tabGet t.pend (i.toNat + 1) == some id then t.setV (i.toNat + 1) hi else t
    | .o i => if tabGet t.pend (256 + i.toNat) == some id then t.setO i.toNat lo else t
    | _ => t
  { t1 with
    pend := t1.pend.filter fun p => p.2 != id
    lq := ⟨t1.lq.l0.fill id x, t1.lq.l1.fill id x, t1.lq.l2.fill id x, t1.lq.l3.fill id x⟩ }
/-- The acquire loads of a thread that have not returned learn which bytes a later load of it samples (R305). -/
def State.noteOver (s : State) (gid band lane : Nat) (ks : List Key) : State :=
  { s with loads := s.loads.map fun l =>
      if l.gid == gid && l.band == band && l.lane == lane && l.acq.isSome then { l with sampled := l.sampled ++ ks } else l }
/-- What the second of two splits that issue in one cycle finds at some bytes: the first split's accesses to a location are ordered before
its own (R194), so that what the first has written there shows on the band's die, or has landed, after the band's earlier writes. -/
def State.afterFirst (s : State) (c : Slot) (die : Nat) (ks : List Key) : State :=
  if !c.second then s
  else
    let ws := s.writes.filter fun w => w.gid == c.gid && w.band == c.band && ks.any fun k => (w.byte? k).isSome
    let s := if ws.any (s.cycleId ≤ ·.id) then
        (ws.filter fun w => !w.applied.contains die).foldl (fun s w => if w.die == die then s.showOwn w else s.forceApply die w.id) s
      else s
    let mine (p : Posted) : Bool := p.gid == c.gid && p.band == c.band && p.hits ks
    if s.posted.any fun p => mine p && s.cycleId ≤ p.id then s.landWanted mine else s
/-- Where the second of two splits that issue in one cycle writes, what the first has written there comes first, and the loads of the first
to the same bytes keep what they have sampled (R194). -/
def State.freezeSplit (s : State) (c : Slot) (die : Nat) (ks : List Key) : State :=
  if !c.second then s
  else
    let s := s.afterFirst c die ks
    { s with loads := s.loads.map fun l =>
        if l.gid == c.gid && l.band == c.band && l.cyc == s.cycle && l.keys.any ks.contains then { l with frozen := true } else l }
/-- A load of one lane: it samples its value, takes its register and queue positions, and waits for its return (R105,
R194, R305). A thread's earlier atomics to the bytes show in its die first, its earlier loads of them keep what they have sampled, and what
happens before it has landed. -/
def State.issueLoad (s : State) (c : Slot) (die : Nat) (ty : Ty) (d : Opd) (acq : Option Scope) (a : Access) : State :=
  match a.res with
  | .ok space ks =>
    let s := (s.afterFirst c die ks).landSeen c.gid c.band a.lane ks
    let s := ((s.pullOwn die c.gid c.band a.lane ks).freezeKeys c.gid c.band a.lane ks).noteOver c.gid c.band a.lane ks
    let x := extendTy ty (s.readNat die c.gid c.band a.lane space ks)
    let (id, s) := s.fresh
    let r : LoadRec := ⟨id, c.gid, c.band, a.lane, d, ty, false, ks, x, false, space == .peer, c.pc, a.h, c.active, acq, [], s.cycle⟩
    { s with loads := s.loads ++ [r] }.modThread c.gid c.band a.lane fun t => t.pendOn d ty.is64 id
  | _ => s
/-- The answer of a peer to a store or an atomic, whose record names no register or an atomic's: it has been performed there (R307, R349). -/
def State.performed (s : State) (r : LoadRec) : State :=
  if r.peer && (r.atomic || r.dst == .imm 0) then s.landWanted fun p => p.port == peerPort && p.isOf r.gid r.band r.lane && p.hits r.keys else s
/-- An access completes: its result arrives. -/
def State.deliver (s : State) (r : LoadRec) (x : W64) : State :=
  { s.performed r with loads := s.loads.filter fun l => l.id != r.id }.modThread r.gid r.band r.lane fun t => t.fill r.dst r.ty.is64 r.id x
/-- The value of a load that has not returned, sampled again as memory stands now (R305): whole where it is naturally aligned, and
otherwise in the bytes that a mask names (R194). -/
def State.resample (s : State) (r : LoadRec) (mask : Nat) : W64 :=
  match s.group? r.gid, r.keys with
  | some g, k :: _ =>
    let n := r.keys.length
    let now := r.keys.map (s.readByte g.die r.gid r.band r.lane (spaceOfKey k))
    let was := bytesOfNat n (r.val.toNat % 2 ^ (8 * n))
    extendTy r.ty (natOfBytes (if hoff r.handle % n == 0 then now else mapIdx (fun i b => if mask.testBit i then b else was.getD i 0) now 0))
  | _, _ => r.val
/-- Whether a load may return the bytes as they stand now (R305, R308): not once it is frozen, and an acquire not where it would then gain
a write to bytes that a later load of its thread has already sampled (R303, log entry 75). -/
def State.lateOk (s : State) (r : LoadRec) : Bool :=
  !r.frozen &&
    match r.acq, s.group? r.gid with
    | none, _ => true
    | some _, none => false
    | some sc, some g =>
      let gain := s.gained r.gid r.band sc g.die r.keys
      r.sampled.isEmpty ||
        (r.keys.all (spaceOfKey · == .device) &&
          (gain.isEmpty ||
            (r.sampled.all (spaceOfKey · == .device) &&
              !(s.writes.any fun w => gain.contains w.id && r.sampled.any fun k => (w.byte? k).isSome))))
/-- What an acquire load does besides its read, once it has its value (R303, R304): through device memory it gains the writes that the release
it reads publishes, if any; through any other memory the model does not tie the read to a write. -/
def State.acquireRead (s : State) (gid band die : Nat) (sc : Scope) (ks : List Key) : State :=
  if ks.all (spaceOfKey · == .device) then
    let gain := s.gained gid band sc die ks
    if gain.isEmpty then s else s.acquireOf gid die gain
  else s.acquire gid die
/-- An uncorrectable error that the data of a load brings: counted, and reported with a register that holds a free value (R191). -/
def State.loadErr (s : State) (r : LoadRec) : State :=
  let s := s.countErr (((s.group? r.gid).map Group.die).getD 0) (memKind (r.keys.headD 0)) true
  let (v, s) := s.freeWord
  (s.deliver r v).memErr r.gid r.band r.active r.lane r.pc r.handle 0 0
/-- Every access of a group that has not returned returns: what swapping a group out waits for (R335). -/
def State.returnLoads (s : State) (gid : Nat) : State :=
  (s.loads.filter fun r => r.gid == gid).foldl
    (fun s r => if s.gone gid then s else if !r.atomic && s.ecc r.keys then s.loadErr r else s.deliver r r.val) s

/-! ### Stores and read-modify-writes -/

/-- A store or a memory-changing atomic has issued (R30, R176): the group's demoted bits and spin records clear, and its
naps end. -/
def State.storeIssued (s : State) (gid : Nat) : State :=
  s.modGroup gid fun g => { g with
    bands := g.bands.map fun b => { b with
      threads := b.threads.map fun t => { t with demoted := false, spin := none, nap := 0 } } }
/-- The issuing threads' own spin records empty: a queue or an engine command (R30). -/
def State.commandIssued (s : State) (c : Slot) (m : Word) : State :=
  s.modBand c.gid c.band fun b => b.onLanes m fun _ t => { t with spin := none }
/-- Every write that a die knows is applied on every die. -/
def State.everywhere (s : State) (die : Nat) : State :=
  (s.writes.filter fun w => w.applied.contains die).foldl
    (fun s w => [0, 1, 2, 3].foldl (fun s d => s.forceApply d w.id) s) s
/-- What a release does before its write (R302 to R304, R307, R312). Within a die the die's view orders it, and what the group has posted is
passed on to the groups of the scope; at `.DV` and above the die's writes leave it; where the write carries no stamp, at `.DM` and `.SY` or
to a location beyond the device's own memory, they are applied on every die; at `.DM` what the group knows of has been performed at peers,
and at `.SY` the posted host writes have landed. -/
def State.release (s : State) (gid die : Nat) (sc : Scope) (beyond : Bool) : State :=
  match sc with
  | .bd | .gr | .cl | .di => s.expose gid sc
  | .dv => let s := s.passOn gid die .dv; if beyond then s.everywhere die else s
  | .dm => ((s.passOn gid die .dm).everywhere die).landWanted fun p => p.port == peerPort && (p.gid == gid || p.dev || p.vis.contains gid)
  | .sy => let s := (s.passOn gid die .sy).everywhere die; s.posted.foldl State.landPosted s
/-- Whether some access of a list lies beyond the device's own memory. -/
def anyBeyond (as : List Access) : Bool :=
  as.any fun a =>
    match a.res with
    | .ok (.host _) _ | .ok .peer _ => true
    | _ => false
/-- A store to a peer waits for the peer's answer (R349): an access that returns nothing. -/
def State.awaitPeer (s : State) (c : Slot) (a : Access) (ks : List Key) : State :=
  let (id, s) := s.fresh
  { s with loads := s.loads ++ [⟨id, c.gid, c.band, a.lane, .imm 0, .i32, false, ks, 0, true, true, c.pc, a.h, c.active, none, [], s.cycle⟩] }
/-- One store of one lane (R194), of the instruction that began at a name: a misaligned plain store is written as its bytes. -/
def State.storeOne (s : State) (c : Slot) (ins die : Nat) (a : Access) (rel : Option Scope) (space : Space) (ks : List Key) (bs : List Byte)
    (aligned : Bool) : State :=
  let s := s.pullOwn die c.gid c.band a.lane ks
  let s := if space == .peer then s.awaitPeer c a ks else s
  if aligned then s.writeFrom ins die c.gid c.band a.lane space rel (bytesAt ks bs)
  else (ks.zip bs).foldl (fun s p => s.writeFrom ins die c.gid c.band a.lane space none [p]) s
/-- Stores of the lanes of a split, in ascending order (R194), each with the bytes it writes: the state, and whether no
lane met an uncorrectable error. A lane that meets one writes nothing, and the lanes after it do not write (R189, R191). -/
def State.storeAll (c : Slot) (ins die : Nat) (rel : Option Scope) (all : List Key) : List (Access × List Byte) → State → State × Bool
  | [], s => (s, true)
  | (a, bs) :: t, s =>
    match a.res with
    | .ok space ks =>
      if s.eccStore all ks then (s.hardErr c die a.lane ks a.h 1, false)
      else State.storeAll c ins die rel all t (s.storeOne c ins die a rel space ks bs (hoff a.h % bs.length == 0))
    | _ => State.storeAll c ins die rel all t s
/-- Whether every lane that stores has room for its pending acknowledgements (R299); a misaligned store counts its bytes, one to a peer or to
private memory once or not at all. -/
def State.storeRoom (s : State) (c : Slot) (items : List (Access × List Byte)) : Bool :=
  items.all fun i =>
    match i.1.res with
    | .ok .device _ | .ok (.host _) _ | .ok .scratch _ =>
      s.ackRoom c.gid c.band (if hoff i.1.h % i.2.length == 0 then 1 else i.2.length) [i.1.lane]
    | .ok .peer _ => s.ackRoom c.gid c.band 1 [i.1.lane]
    | _ => true
/-- The bytes of a list of accesses. -/
def keysOf (as : List Access) : List Key := as.flatMap fun a =>
  match a.res with
  | .ok _ ks => ks
  | _ => []

/-- A read-modify-write of memory held once. -/
def State.rmwMem (s : State) (ks : List Key) (f : Nat → Option Nat) : Nat × State :=
  let old := natOfBytes (ks.map (memGet s.mem))
  match f old with
  | none => (old, s)
  | some n => (old, { s with mem := memPut s.mem (bytesAt ks (bytesOfNat ks.length n)) })
/-- A read-modify-write of memory held once that others need not see yet, unless it is a release: its write is posted before every other that
is still on its way there, so that none comes between what it read and what it writes (R308, R309). -/
def State.rmwPosted (s : State) (gid band lane port : Nat) (rel : Bool) (ks : List Key) (f : Nat → Option Nat) : Nat × State :=
  if rel then s.rmwMem ks f
  else
    let old := natOfBytes (ks.map (memGet s.mem))
    match f old with
    | none => (old, s)
    | some n =>
      let (id, s) := s.fresh
      (old, { s with posted := ⟨id, id, gid, band, lane, port, bytesAt ks (bytesOfNat ks.length n), [], false, false, true⟩ :: s.posted })
/-- One read-modify-write (R195, R309), with the old value it returns. In device memory it is performed at the home die:
the writes of that die to the bytes leave it, every write to the bytes that the issuer knows is applied there (for a release beyond
the die every write its die knows), and the new value is a write of the home die, which reaches the issuer's die as any other does. It
carries on the releases whose value it replaces (R303). A failed compare shows what it has read. Elsewhere what the thread sees of posted
writes goes before it, of a host those on its port (R194, R198), and so do the atomics there. What a plain atomic writes others need not see
yet (R308), but the atomics after it, which follow it in one order (R309). -/
def State.rmw (s : State) (die gid band lane : Nat) (rel : Option Scope) (space : Space) (ks : List Key) (f : Nat → Option Nat) :
    Nat × State :=
  match space with
  | .device =>
    let home := s.homeOfKey (ks.headD 0)
    let wide := (rel.map wideScope).getD false
    let s := if wide then s.stampDie die else s
    let touches (w : WriteRec) : Bool := ks.any fun k => (w.byte? k).isSome
    let mine (w : WriteRec) : Bool := w.gid == gid && w.band == band && w.lane == lane
    let s := (s.writes.filter fun w =>
      w.die == home && w.stamp.isNone && touches w && (w.applied.contains home || mine w || w.rmw)).foldl State.leave s
    let s := (s.writes.filter fun w =>
      if w.applied.contains die then wide || touches w else w.die == die && mine w && touches w).foldl (fun s w => s.forceApply home w.id) s
    let old := natOfBytes (ks.map (s.viewByte home))
    match f old with
    | none => (old, (s.writes.filter fun w => w.applied.contains home && touches w).foldl (fun s w => s.forceApply die w.id) s)
    | some n =>
      let from_ := ks.filterMap (s.viewWrite home)
      let atOnce := rel.isSome || engineLane ≤ lane
      let (id, s) := s.fresh
      let w : WriteRec := ⟨id, gid, band, lane, home, bytesAt ks (bytesOfNat ks.length n), none, if atOnce then [home] else [],
        s.relsOf id gid band lane die rel ++ from_.flatMap (·.rels), from_.any (·.sym),
        (from_.filter (·.sym)).flatMap (fun w => w.id :: w.hb), true⟩
      let s : State := { s with writes := s.writes ++ [w] }
      (old, if atOnce then s.stampOne w else s)
  | .host p => (s.landWanted fun q => q.port == p && (q.seenBy gid band lane || q.rmw && q.hits ks)).rmwPosted gid band lane p rel.isSome ks f
  | .scratch =>
    (s.landWanted fun q => q.port == scratchPort && q.hits ks && (q.seenBy gid band lane || q.rmw)).rmwPosted gid band lane scratchPort
      rel.isSome ks f
  | .peer =>
    (s.landWanted fun q => q.port == peerPort && q.hits ks && (q.seenBy gid band lane || q.rmw)).rmwPosted gid band lane peerPort rel.isSome ks f
  | .single => s.rmwMem ks f

end Sys2Proof.Machine
end

