-- ==== Sys2Proof/Machine/Integer.lean ====
section
/-! DEFINITION. The vector instructions on integers, logic and handles (R118 to R130), and NOP (R66). -/

namespace Sys2Proof.Machine

/-- The types read as signed (R115). -/
def tySigned : Ty → Bool
  | .i4 | .i8 | .i16 | .i32 | .i64 => true
  | _ => false

/-- A low word's element i of width w. -/
def elemOf (w i n : Nat) : Nat := n / 2 ^ (w * i) % 2 ^ w
/-- k elements of width w put together, element 0 lowest (R36). -/
def joinElems (w : Nat) (f : Nat → Nat) : Nat → Nat
  | 0 => 0
  | k + 1 => joinElems w f k + f k * 2 ^ (w * k)
/-- Elements of an operation of width w: one at 32 and 64 bits, 32 / w below (R115). -/
def elemCount (w : Nat) : Nat := if w < 32 then 32 / w else 1
/-- The low bits of an exact result, wrapped or clamped to the bounds of the type (R122). -/
def intNarrow (signed sat : Bool) (w : Nat) (x : Int) : Nat :=
  let lo : Int := if signed then -(2 ^ (w - 1) : Int) else 0
  let hi : Int := if signed then 2 ^ (w - 1) - 1 else 2 ^ w - 1
  ((if sat then min (max x lo) hi else x) % (2 ^ w : Int)).toNat
/-- An operand of an integer instruction (R115): in a packed operation a short immediate stands for every element. -/
def Env.int (e : Env) (ty : Ty) (o : Opd) : Nat :=
  match o with
  | .imm i => if ty.bits < 32 then joinElems ty.bits (fun _ => (i.toInt % (2 ^ ty.bits : Int)).toNat) (32 / ty.bits)
      else (e.read ty.is64 o).toNat % 2 ^ ty.bits
  | o => (e.read ty.is64 o).toNat % 2 ^ max 32 ty.bits
/-- A function of three elements applied to each (R122). -/
def intEval (ty : Ty) (sat : Bool) (f : Int → Int → Int → Int) (a b c : Nat) : W64 :=
  let w := ty.bits
  let el (n i : Nat) : Int := readInt (tySigned ty) w (elemOf w i n)
  BitVec.ofNat 64 (joinElems w (fun i => intNarrow (tySigned ty) sat w (f (el a i) (el b i) (el c i))) (elemCount w))

/-- An integer operation of two operands (R122). -/
def intOp2 (s : State) (h : Hdr) (ty : Ty) (sat : Bool) (d a b : Opd) (f : Int → Int → Int) : Out :=
  let n := width ty.is64
  laneOp s h [(d, n), (a, n), (b, n)] fun e =>
    e.t.put ty.is64 d (intEval ty sat (fun x y _ => f x y) (e.int ty a) (e.int ty b) 0)
/-- An integer operation of one operand (R122). -/
def intOp1 (s : State) (h : Hdr) (ty : Ty) (sat : Bool) (d a : Opd) (f : Int → Int) : Out :=
  let n := width ty.is64
  laneOp s h [(d, n), (a, n)] fun e => e.t.put ty.is64 d (intEval ty sat (fun x _ _ => f x) (e.int ty a) 0 0)
/-- A long form (R116): I32, no clamp, the immediate as operand B. -/
def intOpLong (s : State) (h : Hdr) (d a : Opd) (imm : Word) (f : Int → Int → Int) : Out :=
  laneOp s h [(d, 1), (a, 1)] fun e =>
    e.t.put32 d (BitVec.ofInt 32 (f (e.read32 a).toInt imm.toInt))

/-- NOP (R66). -/
def execNop (h : Hdr) (s : State) : Out := laneOp s h [] fun e => e.t

/-- MOV (R119). -/
def execMov (h : Hdr) (ty : Ty) (d b : Opd) (s : State) : Out :=
  laneOp s h [(d, width ty.is64), (b, width ty.is64)] fun e => e.t.put ty.is64 d (e.read ty.is64 b)
/-- Long MOV (R116, R119). -/
def execMovLong (h : Hdr) (d : Opd) (imm : Word) (s : State) : Out := laneOp s h [(d, 1)] fun e => e.t.put32 d imm
/-- SEL (R120). -/
def execSel (h : Hdr) (ty : Ty) (d a b c : Opd) (s : State) : Out :=
  let n := width ty.is64
  laneOp s h [(d, n), (a, n), (b, n)] fun e =>
    e.t.put ty.is64 d (if e.pred c then e.read ty.is64 a else e.read ty.is64 b)
/-- A P result (R121, R124). -/
def Thread.putP (t : Thread) (d : Opd) (x : Bool) : Thread :=
  match d with
  | .p i => t.setP i x
  | _ => t
/-- PLOG (R121). -/
def execPlog (h : Hdr) (op : Opl) (d a b : Opd) (s : State) : Out :=
  laneOp s h [] fun e => e.t.putP d (oplEval op (e.pred a) (e.pred b))

/-- IADD (R122). -/
def execIadd (h : Hdr) (ty : Ty) (sat : Bool) (d a b : Opd) (s : State) : Out := intOp2 s h (ty.or .i32) sat d a b (· + ·)
/-- Long IADD (R116, R122). -/
def execIaddLong (h : Hdr) (d a : Opd) (imm : Word) (s : State) : Out := intOpLong s h d a imm (· + ·)
/-- ISUB (R122). -/
def execIsub (h : Hdr) (ty : Ty) (sat : Bool) (d a b : Opd) (s : State) : Out := intOp2 s h (ty.or .i32) sat d a b (· - ·)
/-- Long ISUB (R116, R122). -/
def execIsubLong (h : Hdr) (d a : Opd) (imm : Word) (s : State) : Out := intOpLong s h d a imm (· - ·)
/-- IMUL (R122). -/
def execImul (h : Hdr) (ty : Ty) (sat : Bool) (d a b : Opd) (s : State) : Out := intOp2 s h (ty.or .i32) sat d a b (· * ·)
/-- Long IMUL (R116, R122). -/
def execImulLong (h : Hdr) (d a : Opd) (imm : Word) (s : State) : Out := intOpLong s h d a imm (· * ·)
/-- IMULH (R122). -/
def execImulh (h : Hdr) (ty : Ty) (d a b : Opd) (s : State) : Out :=
  intOp2 s h (ty.or .i32) false d a b fun x y => x * y / 2 ^ (ty.or .i32).bits
/-- IMAD (R122). -/
def execImad (h : Hdr) (ty : Ty) (sat : Bool) (d a b c : Opd) (s : State) : Out :=
  let ty := ty.or .i32
  let n := width ty.is64
  laneOp s h [(d, n), (a, n), (b, n), (c, n)] fun e =>
    e.t.put ty.is64 d (intEval ty sat (fun x y z => x * y + z) (e.int ty a) (e.int ty b) (e.int ty c))
/-- The quotient of IDIV (R123). -/
def divQuot (signed : Bool) (w : Nat) (a b : Int) : Int :=
  if b == 0 then (if signed then -1 else 2 ^ w - 1) else a.tdiv b
/-- IDIV (R123): the one overflow, −2^(w−1) by −1, wraps or clamps as the type does. -/
def execIdiv (h : Hdr) (ty : Ty) (sat : Bool) (d a b : Opd) (s : State) : Out :=
  let ty := ty.or .i32
  intOp2 s h ty sat d a b (divQuot (tySigned ty) ty.bits)
/-- IREM (R123). -/
def execIrem (h : Hdr) (ty : Ty) (d a b : Opd) (s : State) : Out :=
  intOp2 s h (ty.or .i32) false d a b fun x y => if y == 0 then x else x - y * x.tdiv y
/-- IMIN (R122). -/
def execImin (h : Hdr) (ty : Ty) (d a b : Opd) (s : State) : Out := intOp2 s h (ty.or .i32) false d a b min
/-- IMAX (R122). -/
def execImax (h : Hdr) (ty : Ty) (d a b : Opd) (s : State) : Out := intOp2 s h (ty.or .i32) false d a b max
/-- IABS (R122). -/
def execIabs (h : Hdr) (ty : Ty) (sat : Bool) (d a : Opd) (s : State) : Out :=
  intOp1 s h (ty.or .i32) sat d a fun x => (x.natAbs : Int)
/-- INEG (R122). -/
def execIneg (h : Hdr) (ty : Ty) (sat : Bool) (d a : Opd) (s : State) : Out := intOp1 s h (ty.or .i32) sat d a (- ·)
/-- ICMP (R124). -/
def execIcmp (h : Hdr) (ty : Ty) (cc : Cc) (d a b : Opd) (s : State) : Out :=
  let ty := ty.or .i32
  let n := width ty.is64
  let rd (x : Nat) : Int := readInt (tySigned ty) ty.bits x
  laneOp s h [(a, n), (b, n)] fun e => e.t.putP d (ccHolds cc (rd (e.int ty a)) (rd (e.int ty b)))

/-! ### Logic, shifts and bit fields (R125 to R128) -/

/-- A bitwise operation of w = 32 or 64 bits (R125). -/
def bitOp2 (s : State) (h : Hdr) (ty : Ty) (d a b : Opd) (f : W64 → W64 → W64) : Out :=
  let n := width ty.is64
  laneOp s h [(d, n), (a, n), (b, n)] fun e => e.t.put ty.is64 d (f (e.read ty.is64 a) (e.read ty.is64 b))
/-- A long bitwise form (R116, R125). -/
def bitOpLong (s : State) (h : Hdr) (d a : Opd) (imm : Word) (f : Word → Word → Word) : Out :=
  laneOp s h [(d, 1), (a, 1)] fun e => e.t.put32 d (f (e.read32 a) imm)
/-- AND (R125). -/
def execAnd (h : Hdr) (ty : Ty) (d a b : Opd) (s : State) : Out := bitOp2 s h ty d a b (· &&& ·)
/-- Long AND (R125). -/
def execAndLong (h : Hdr) (d a : Opd) (imm : Word) (s : State) : Out := bitOpLong s h d a imm (· &&& ·)
/-- OR (R125). -/
def execOr (h : Hdr) (ty : Ty) (d a b : Opd) (s : State) : Out := bitOp2 s h ty d a b (· ||| ·)
/-- Long OR (R125). -/
def execOrLong (h : Hdr) (d a : Opd) (imm : Word) (s : State) : Out := bitOpLong s h d a imm (· ||| ·)
/-- XOR (R125). -/
def execXor (h : Hdr) (ty : Ty) (d a b : Opd) (s : State) : Out := bitOp2 s h ty d a b (· ^^^ ·)
/-- Long XOR (R125). -/
def execXorLong (h : Hdr) (d a : Opd) (imm : Word) (s : State) : Out := bitOpLong s h d a imm (· ^^^ ·)
/-- ANDN (R125). -/
def execAndn (h : Hdr) (ty : Ty) (d a b : Opd) (s : State) : Out := bitOp2 s h ty d a b fun x y => x &&& ~~~y
/-- NOT (R125). -/
def execNot (h : Hdr) (ty : Ty) (d a : Opd) (s : State) : Out :=
  let n := width ty.is64
  laneOp s h [(d, n), (a, n)] fun e => e.t.put ty.is64 d (~~~(e.read ty.is64 a))

/-- The shifts of R126. -/
inductive ShiftKind where
  | shl | shr | sar | rol
  deriving DecidableEq, Repr
/-- A shift of a value of w bits by a count read unsigned (R126). -/
def shiftEval (k : ShiftKind) (w a n : Nat) : Nat :=
  match k with
  | .shl => if n < w then a * 2 ^ n % 2 ^ w else 0
  | .shr => if n < w then a / 2 ^ n else 0
  | .sar =>
    let neg := 2 ^ (w - 1) ≤ a
    if n < w then ((readInt true w a / 2 ^ n) % (2 ^ w : Int)).toNat else if neg then 2 ^ w - 1 else 0
  | .rol => let m := n % w; (a * 2 ^ m + a / 2 ^ (w - m)) % 2 ^ w
/-- A vector shift (R126): the count is a 32-bit operand in both forms. -/
def shiftOp (s : State) (h : Hdr) (ty : Ty) (k : ShiftKind) (d a b : Opd) : Out :=
  let n := width ty.is64
  let w := if ty.is64 then 64 else 32
  laneOp s h [(d, n), (a, n), (b, 1)] fun e =>
    e.t.put ty.is64 d (BitVec.ofNat 64 (shiftEval k w ((e.read ty.is64 a).toNat % 2 ^ w) (e.read32 b).toNat))
/-- SHL (R126). -/
def execShl (h : Hdr) (ty : Ty) (d a b : Opd) (s : State) : Out := shiftOp s h ty .shl d a b
/-- SHR (R126). -/
def execShr (h : Hdr) (ty : Ty) (d a b : Opd) (s : State) : Out := shiftOp s h ty .shr d a b
/-- SAR (R126). -/
def execSar (h : Hdr) (ty : Ty) (d a b : Opd) (s : State) : Out := shiftOp s h ty .sar d a b
/-- ROL (R126). -/
def execRol (h : Hdr) (ty : Ty) (d a b : Opd) (s : State) : Out := shiftOp s h ty .rol d a b

/-- The zero bits below the lowest set bit, among w bits. -/
def ctzNat : Nat → Nat → Nat
  | 0, _ => 0
  | w + 1, n => if n % 2 == 1 then 0 else 1 + ctzNat w (n / 2)
/-- The w bits of a number in the opposite order. -/
def brevNat : Nat → Nat → Nat
  | 0, _ => 0
  | w + 1, n => n % 2 * 2 ^ w + brevNat w (n / 2)
/-- A bit count with a 32-bit result (R127). -/
def countOp (s : State) (h : Hdr) (ty : Ty) (d a : Opd) (f : Nat → Nat → Nat) : Out :=
  let w := if ty.is64 then 64 else 32
  laneOp s h [(d, 1), (a, width ty.is64)] fun e =>
    e.t.put32 d (BitVec.ofNat 32 (f w ((e.read ty.is64 a).toNat % 2 ^ w)))
/-- POPC (R127). -/
def execPopc (h : Hdr) (ty : Ty) (d a : Opd) (s : State) : Out := countOp s h ty d a popNat
/-- CLZ (R127). -/
def execClz (h : Hdr) (ty : Ty) (d a : Opd) (s : State) : Out := countOp s h ty d a fun w n => ctzNat w (brevNat w n)
/-- CTZ (R127). -/
def execCtz (h : Hdr) (ty : Ty) (d a : Opd) (s : State) : Out := countOp s h ty d a ctzNat
/-- BREV (R127). -/
def execBrev (h : Hdr) (ty : Ty) (d a : Opd) (s : State) : Out :=
  let n := width ty.is64
  let w := if ty.is64 then 64 else 32
  laneOp s h [(d, n), (a, n)] fun e => e.t.put ty.is64 d (BitVec.ofNat 64 (brevNat w ((e.read ty.is64 a).toNat % 2 ^ w)))

/-- The position and length of a bit field, none where it is empty (R128). -/
def fieldOf (w : Nat) (spec : Word) : Option (Nat × Nat) :=
  let pos := (spec.extractLsb' 0 8).toNat
  let len := (spec.extractLsb' 8 8).toNat
  if w ≤ pos || len == 0 then none else some (pos, min len (w - pos))
/-- BFX (R128). -/
def bfxEval (signed : Bool) (w a : Nat) (spec : Word) : Nat :=
  match fieldOf w spec with
  | none => 0
  | some (pos, len) => (readInt signed len (a / 2 ^ pos % 2 ^ len) % (2 ^ w : Int)).toNat
/-- BFI (R128). -/
def bfiEval (w a c : Nat) (spec : Word) : Nat :=
  match fieldOf w spec with
  | none => c
  | some (pos, len) => c % 2 ^ pos + (a % 2 ^ len) * 2 ^ pos + c / 2 ^ (pos + len) * 2 ^ (pos + len)
/-- BFX (R128): the default type is N32. -/
def execBfx (h : Hdr) (ty : Ty) (d a b : Opd) (s : State) : Out :=
  let ty := ty.or .n32
  let n := width ty.is64
  laneOp s h [(d, n), (a, n), (b, 1)] fun e =>
    e.t.put ty.is64 d (BitVec.ofNat 64 (bfxEval (tySigned ty) ty.bits ((e.read ty.is64 a).toNat % 2 ^ ty.bits) (e.read32 b)))
/-- Long BFX (R116, R128). -/
def execBfxLong (h : Hdr) (d a : Opd) (imm : Word) (s : State) : Out :=
  laneOp s h [(d, 1), (a, 1)] fun e => e.t.put32 d (BitVec.ofNat 32 (bfxEval false 32 (e.read32 a).toNat imm))
/-- BFI (R128). -/
def execBfi (h : Hdr) (ty : Ty) (d a b c : Opd) (s : State) : Out :=
  let n := width ty.is64
  let w := if ty.is64 then 64 else 32
  laneOp s h [(d, n), (a, n), (b, 1), (c, n)] fun e =>
    e.t.put ty.is64 d (BitVec.ofNat 64
      (bfiEval w ((e.read ty.is64 a).toNat % 2 ^ w) ((e.read ty.is64 c).toNat % 2 ^ w) (e.read32 b)))

/-! ### Handles (R129, R130) -/

/-- A handle stepped by b × 2^k, the offset wrapping at 2^48 (R129). -/
def stepHandle (a : W64) (b : Int) (k : Nat) : W64 :=
  a.extractLsb' 48 16 ++ BitVec.ofInt 48 ((a.extractLsb' 0 48).toNat + b * 2 ^ k)
/-- HADD (R129). -/
def execHadd (h : Hdr) (ty : Ty) (scl : BitVec 3) (d a b : Opd) (s : State) : Out :=
  let ty := ty.or .i32
  laneOp s h [(d, 2), (a, 2), (b, width ty.is64)] fun e =>
    e.t.put64 d (stepHandle (e.read true a) (readInt (tySigned ty) ty.bits ((e.read ty.is64 b).toNat % 2 ^ ty.bits)) scl.toNat)
/-- Long HADD (R129). -/
def execHaddLong (h : Hdr) (d a : Opd) (imm : Word) (s : State) : Out :=
  laneOp s h [(d, 2), (a, 2)] fun e => e.t.put64 d (stepHandle (e.read true a) imm.toInt 0)
/-- The difference of two handles (R129). -/
def handleDiff (a b : W64) : W64 :=
  if a.extractLsb' 48 16 == b.extractLsb' 48 16 then
    BitVec.ofInt 64 (((a.extractLsb' 0 48).toNat : Int) - (b.extractLsb' 0 48).toNat)
  else 0x8000000000000000
/-- HSUB (R129). -/
def execHsub (h : Hdr) (d a b : Opd) (s : State) : Out :=
  laneOp s h [(d, 2), (a, 2), (b, 2)] fun e => e.t.put64 d (handleDiff (e.read true a) (e.read true b))
/-- HSEL (R129). -/
def execHsel (h : Hdr) (d a : Opd) (s : State) : Out :=
  laneOp s h [(d, 1), (a, 2)] fun e => e.t.put32 d (((e.read true a).extractLsb' 48 16).setWidth 32)
/-- HOFF (R129). -/
def execHoff (h : Hdr) (d a : Opd) (s : State) : Out :=
  laneOp s h [(d, 2), (a, 2)] fun e => e.t.put64 d (((e.read true a).extractLsb' 0 48).setWidth 64)
/-- HMAKE (R129). -/
def execHmake (h : Hdr) (d a b : Opd) (s : State) : Out :=
  laneOp s h [(d, 2), (a, 1), (b, 2)] fun e =>
    e.t.put64 d ((e.read32 a).extractLsb' 0 16 ++ (e.read true b).extractLsb' 0 48)
/-- HCMP (R130). -/
def execHcmp (h : Hdr) (cc : Cc) (d a b : Opd) (s : State) : Out :=
  laneOp s h [(a, 2), (b, 2)] fun e => e.t.putP d (ccHandles cc (e.read true a) (e.read true b))

end Sys2Proof.Machine
end

