-- ==== Sys2Proof/Machine/BandScalar.lean ====
section
/-! DEFINITION. The band-scalar instructions (R131 to R134) and the extended register chunks: ACQ, REL and what the slice does
about them at the end of a cycle (R106 to R109, R135 to R137). -/

namespace Sys2Proof.Machine

/-- A B result (R132). -/
def Band.putB (b : Band) (d : Opd) (x : Word) : Band :=
  match d with
  | .b i => b.setB i.toNat x
  | _ => b
/-- A Q result (R132). -/
def Band.putQ (b : Band) (d : Opd) (x : Bool) : Band :=
  match d with
  | .q i => b.setQ i x
  | _ => b
/-- A band-scalar operation that computes as an integer instruction at w = 32 (R132). -/
def bandInt2 (s : State) (h : Hdr) (ty : Ty) (sat : Bool) (d a b : Opd) (f : Int → Int → Int) : Out :=
  let ty := ty.or .i32
  bandOp s h [] fun e =>
    e.b.putB d ((intEval ty sat (fun x y _ => f x y) (e.read32 a).toNat (e.read32 b).toNat 0).extractLsb' 0 32)
/-- A bitwise band-scalar operation (R132). -/
def bandBit2 (s : State) (h : Hdr) (d a b : Opd) (f : Word → Word → Word) : Out :=
  bandOp s h [] fun e => e.b.putB d (f (e.read32 a) (e.read32 b))
/-- BADD (R132). -/
def execBadd (h : Hdr) (ty : Ty) (sat : Bool) (d a b : Opd) (s : State) : Out := bandInt2 s h ty sat d a b (· + ·)
/-- Long BADD (R116, R132). -/
def execBaddLong (h : Hdr) (d a : Opd) (imm : Word) (s : State) : Out :=
  bandOp s h [] fun e => e.b.putB d (e.read32 a + imm)
/-- BSUB (R132). -/
def execBsub (h : Hdr) (ty : Ty) (sat : Bool) (d a b : Opd) (s : State) : Out := bandInt2 s h ty sat d a b (· - ·)
/-- BMUL (R132). -/
def execBmul (h : Hdr) (ty : Ty) (sat : Bool) (d a b : Opd) (s : State) : Out := bandInt2 s h ty sat d a b (· * ·)
/-- BAND (R132). -/
def execBand (h : Hdr) (_ty : Ty) (d a b : Opd) (s : State) : Out := bandBit2 s h d a b (· &&& ·)
/-- BOR (R132). -/
def execBor (h : Hdr) (_ty : Ty) (d a b : Opd) (s : State) : Out := bandBit2 s h d a b (· ||| ·)
/-- BXOR (R132). -/
def execBxor (h : Hdr) (_ty : Ty) (d a b : Opd) (s : State) : Out := bandBit2 s h d a b (· ^^^ ·)
/-- A band shift (R132). -/
def bandShift (s : State) (h : Hdr) (k : ShiftKind) (d a b : Opd) : Out :=
  bandOp s h [] fun e => e.b.putB d (BitVec.ofNat 32 (shiftEval k 32 (e.read32 a).toNat (e.read32 b).toNat))
/-- BSHL (R132). -/
def execBshl (h : Hdr) (_ty : Ty) (d a b : Opd) (s : State) : Out := bandShift s h .shl d a b
/-- BSHR (R132). -/
def execBshr (h : Hdr) (_ty : Ty) (d a b : Opd) (s : State) : Out := bandShift s h .shr d a b
/-- BSAR (R132). -/
def execBsar (h : Hdr) (_ty : Ty) (d a b : Opd) (s : State) : Out := bandShift s h .sar d a b
/-- BMIN (R132). -/
def execBmin (h : Hdr) (ty : Ty) (d a b : Opd) (s : State) : Out := bandInt2 s h ty false d a b min
/-- BMAX (R132). -/
def execBmax (h : Hdr) (ty : Ty) (d a b : Opd) (s : State) : Out := bandInt2 s h ty false d a b max
/-- BMOV (R132). -/
def execBmov (h : Hdr) (_ty : Ty) (d b : Opd) (s : State) : Out := bandOp s h [] fun e => e.b.putB d (e.read32 b)
/-- Long BMOV (R116, R132). -/
def execBmovLong (h : Hdr) (d : Opd) (imm : Word) (s : State) : Out := bandOp s h [] fun e => e.b.putB d imm
/-- BCMP (R132). -/
def execBcmp (h : Hdr) (ty : Ty) (cc : Cc) (d a b : Opd) (s : State) : Out :=
  let sg := tySigned (ty.or .i32)
  bandOp s h [] fun e => e.b.putQ d (ccHolds cc (readInt sg 32 (e.read32 a).toNat) (readInt sg 32 (e.read32 b).toNat))
/-- BSEL (R132). -/
def execBsel (h : Hdr) (_ty : Ty) (d a b c : Opd) (s : State) : Out :=
  bandOp s h [] fun e => e.b.putB d (if e.pred c then e.read32 a else e.read32 b)
/-- QLOG (R132). -/
def execQlog (h : Hdr) (op : Opl) (d a b : Opd) (s : State) : Out :=
  bandOp s h [] fun e => e.b.putQ d (oplEval op (e.pred a) (e.pred b))

/-- The environment of one lane of the split. -/
def Env.at (e : Env) (i : Nat) : Env :=
  match e.b.threads[i]? with
  | some t => { e with t := t, lane := i }
  | none => e
/-- The lanes of the issuing split as environments, lowest first. -/
def Env.actives (e : Env) : List Env := (lanesOf e.c.active).map e.at
/-- BGET (R133): the value of the lowest active lane. -/
def execBget (h : Hdr) (_ty : Ty) (d a : Opd) (s : State) : Out :=
  bandOp s h [(a, 1)] fun e =>
    match e.actives with
    | x :: _ => e.b.putB d (x.read32 a)
    | [] => e.b
/-- A reduction of integers of w bits (R134, R158): the sum exact, then wrapped or clamped. -/
def redInt (red : Red) (signed sat : Bool) (w : Nat) (xs : List Nat) : Nat :=
  let vs := xs.map (readInt signed w)
  match red with
  | .add => intNarrow signed sat w vs.sum
  | .min => match vs with
    | [] => 0
    | v :: t => intNarrow signed false w (t.foldl min v)
  | .max => match vs with
    | [] => 0
    | v :: t => intNarrow signed false w (t.foldl max v)
  | .and => xs.foldl (· &&& ·) (2 ^ w - 1)
  | .or => xs.foldl (· ||| ·) 0
  | .xor => xs.foldl (· ^^^ ·) 0
/-- BRED (R134): over the active lanes of the issuing split, whatever their predicates. -/
def execBred (h : Hdr) (ty : Ty) (sat : Bool) (red : Red) (d a : Opd) (s : State) : Out :=
  bandOp s h [(a, 1)] fun e =>
    e.b.putB d (BitVec.ofNat 32 (redInt red (tySigned (ty.or .i32)) sat 32 (e.actives.map fun x => (x.read32 a).toNat)))

/-! ### Chunks (R106 to R109, R135, R136) -/

/-- Whether two ranges of rows meet. -/
def rowsMeet (a n b m : Nat) : Bool := a < b + m && b < a + n
/-- The rows that seated bands use on a slice of a core. -/
def State.rowsUsed (s : State) (core slice : Nat) : List (Nat × Nat) :=
  (s.groups.filter fun p => p.2.core == core && p.2.place == .seated).flatMap fun p =>
    (p.2.bands.filter fun b => b.slice == slice).flatMap fun b => (b.row0, p.2.budget) :: b.allChunks.map fun r => (r, 16)
/-- The lowest free run of n rows on a slice, searched from row r on in steps of 8 (log entry 14). -/
def findRow (used : List (Nat × Nat)) (n : Nat) : Nat → Nat → Nat
  | 0, r => r
  | k + 1, r => if used.any fun u => rowsMeet r n u.1 u.2 then findRow used n k (r + 8) else r
/-- k new chunks for a band: rows, one run of 16 each (R107). -/
def newChunks (used : List (Nat × Nat)) : Nat → List Nat
  | 0 => []
  | k + 1 => let r := findRow used 16 128 0; r :: newChunks ((r, 16) :: used) k
/-- k runs of 16 rows, one after another from a row on. -/
def runRows (r k : Nat) : List Nat := (List.range k).map fun i => r + 16 * i
/-- The chunks of the programs outside an inline child (R246), in rows from one on. -/
def moveUnder : List Under → Nat → List Under
  | [], _ => []
  | u :: t, r => { u with chunks := runRows r u.chunks.length } :: moveUnder t (r + 16 * u.chunks.length)
/-- Bands with their rows one after another on each slice, from two rows on: the bands, and the next free rows. -/
def packBands (budget : Nat) : List Band → Nat × Nat → List Band × (Nat × Nat)
  | [], n => ([], n)
  | b :: t, n =>
    let r := if b.slice == 0 then n.1 else n.2
    let b' := { b with
      row0 := r, chunks := runRows (r + budget) b.chunks.length, under := moveUnder b.under (r + budget + 16 * b.chunks.length) }
    let m := r + budget + 16 * b.allChunks.length
    let q := packBands budget t (if b.slice == 0 then (m, n.2) else (n.1, m))
    (b' :: q.1, q.2)
/-- The groups of a core with their rows and their scratchpad one after another. -/
def packGroups (core : Nat) : Tab Group → Nat × Nat → Nat → Tab Group
  | [], _, _ => []
  | (gid, g) :: t, n, at_ =>
    if g.core != core then (gid, g) :: packGroups core t n at_
    else if g.place == GPlace.seated then
      let q := packBands g.budget g.bands n
      (gid, { g with bands := q.1, scratchBase := at_ }) :: packGroups core t q.2 (at_ + g.scratch)
    else if g.place == GPlace.phase then (gid, { g with scratchBase := at_ }) :: packGroups core t n (at_ + g.scratch)
    else (gid, g) :: packGroups core t n at_
/-- A core whose free rows and free scratchpad lie together, where a placement would otherwise run past their end: R21 and R107 ask for free
registers and bytes alone (log entry 14). What the freed storage holds is no longer known. -/
def State.packSeats (s : State) (core : Nat) (full : State → Bool) : State :=
  if full s then
    { s with groups := packGroups core s.groups (0, 0) 0 }.modCore core fun k => { k with vacant := [], blank := false }
  else s
/-- The V registers of a range read zero (R108). -/
def zeroV (v : Tab Word) (lo hi : Nat) : Tab Word := v.filter fun p => !(lo ≤ p.1 && p.1 < hi)
/-- The rows of n new chunks for a band. -/
def State.chunkRows (s : State) (gid band n : Nat) : List Nat :=
  match s.group? gid, s.band? gid band with
  | some g, some b => newChunks (s.rowsUsed g.core b.slice) n
  | _, _ => []
/-- A grant (R108, R135): S.HELD rises, the new chunks read zero, whatever a load still on its way to a chunk that was given back brings, the
predicate is true, and the band goes on. -/
def State.acqGrant (s : State) (gid band n : Nat) (q : BitVec 3) : State :=
  match s.group? gid, s.band? gid band with
  | some g, some b =>
    let lo := allotment g b
    let s := s.packSeats g.core fun s => (s.chunkRows gid band n).any (1024 < · + 16)
    let rows := s.chunkRows gid band n
    s.modBand gid band fun b =>
      { (b.setQ q true) with
        held := b.held + n
        chunks := b.chunks ++ rows
        threads := b.threads.map fun t =>
          let t := { t with v := zeroV t.v lo (lo + 16 * n), pend := t.pend.filter fun p => !(lo ≤ p.1 && p.1 < lo + 16 * n) }
          if t.here then t.release else t }
  | _, _ => s
/-- A denial (R109): the predicate is false, all chunks return, and the band goes on. -/
def State.acqDeny (s : State) (gid band : Nat) (q : BitVec 3) : State :=
  s.modBand gid band fun b =>
    { (b.setQ q false) with held := 0, chunks := [], threads := b.threads.map fun t => if t.here then t.release else t }
/-- An ACQ.TRY that does not fit (R108, R135): its predicate is false, the band keeps what it holds, and goes on. -/
def State.acqFalse (s : State) (gid band : Nat) (q : BitVec 3) : State :=
  s.modBand gid band fun b => { (b.setQ q false) with threads := b.threads.map fun t => if t.here then t.release else t }
/-- The request of a band that waits in ACQ, or in ACQ.TRY until its cycle's grants. -/
def Band.acqWait (b : Band) : Option (Nat × BitVec 3 × Bool) :=
  b.threads.findSome? fun t => match t.wait with
    | .acq n q tr => if t.here then some (n, q, tr) else none
    | _ => none
/-- The bands of a team seated on a slice of a core, in age order (R108): the team-local group number, then the band. Of two groups seated in
one cycle with one S.GROUP the one seated first here, that of the lower cluster, counts as the older (log entry 94). -/
def State.teamBands (s : State) (core slice lid : Nat) : List (Nat × Nat × Nat × Band) :=
  let all := (s.groups.filter fun p => p.2.core == core && p.2.lid == lid && p.2.place == .seated).flatMap fun p =>
    (mapIdx (fun i b => (p.2.teamOrder, p.1, i, b)) p.2.bands 0).filter fun q => q.2.2.2.slice == slice
  all.foldr (fun x acc =>
    let (lo, hi) := acc.partition fun y => y.1 < x.1
    lo ++ x :: hi) []
/-- The requests of a team on a slice, those of ACQ.TRY or the others, oldest first. -/
def State.acqAsked (s : State) (core slice lid : Nat) (tr : Bool) : List (Nat × Nat × Nat × BitVec 3) :=
  (s.teamBands core slice lid).filterMap fun p =>
    (p.2.2.2.acqWait.filter fun w => w.2.2 == tr).map fun w => (p.2.1, p.2.2.1, w.1, w.2.1)
/-- The waiting requests of a team on a slice, oldest first. -/
def State.acqWaiters (s : State) (core slice lid : Nat) : List (Nat × Nat × Nat × BitVec 3) := s.acqAsked core slice lid false
/-- Free chunks of a team's pool on a slice (R107). -/
def State.freeChunks (s : State) (core slice lid : Nat) : Nat :=
  match s.groups.find? fun p => p.2.core == core && p.2.lid == lid && p.2.place == .seated with
  | some p => s.poolFree p.2 slice
  | none => 0
/-- Every waiting request that fits the chunks still free is granted, in age order (R108). -/
def State.acqGrants (s : State) (core slice lid : Nat) : State :=
  (s.acqWaiters core slice lid).foldl
    (fun s w => if w.2.2.1 ≤ s.freeChunks core slice lid then s.acqGrant w.1 w.2.1 w.2.2.1 w.2.2.2 else s) s
/-- The service of one team pool on one slice at the end of a cycle (R108, R135): the grants to the waiting requests, and then each of the
cycle's ACQ.TRYs, granted or false, in age order. -/
def State.acqServe (s : State) (core slice lid : Nat) : State :=
  let s := s.acqGrants core slice lid
  (s.acqAsked core slice lid true).foldl
    (fun s w => if w.2.2.1 ≤ s.freeChunks core slice lid then s.acqGrant w.1 w.2.1 w.2.2.1 w.2.2.2 else s.acqFalse w.1 w.2.1 w.2.2.2) s
/-- Whether the slice denies (R109). -/
def State.acqStuck (s : State) (core slice lid : Nat) : Bool :=
  let ws := s.acqWaiters core slice lid
  !ws.isEmpty && ws.all (fun w => s.freeChunks core slice lid < w.2.2.1) &&
    (s.teamBands core slice lid).all fun p => p.2.2.2.acqWait.isSome || p.2.2.2.allHeld == 0
/-- Denials of the youngest waiter, with the grants each makes room for, until a request is granted or none waits
(R109). -/
def State.acqDenials : Nat → State → Nat → Nat → Nat → State
  | 0, s, _, _, _ => s
  | k + 1, s, core, slice, lid =>
    if s.acqStuck core slice lid then
      match (s.acqWaiters core slice lid).getLast? with
      | some w =>
        let s := (s.acqDeny w.1 w.2.1 w.2.2.2).acqGrants core slice lid
        State.acqDenials k s core slice lid
      | none => s
    else s

/-- ACQ (R135): a request waits for the service of its pool, that of ACQ.TRY for no longer than its cycle (R108). -/
def execAcq (h : Hdr) (tr : Bool) (d a : Opd) (s : State) : Out :=
  collOp s h [] fun e =>
    let n := (e.read32 a).toInt
    let q := match d with
      | .q i => i
      | _ => 7
    let fail := (s.advanceSplit e.c).modBand e.c.gid e.c.band fun b => b.setQ q false
    if n < 1 || 15 < n then s.haltSplit e.c rIllegalOperand 0
    else if (256 : Int) < e.g.curBudget + 16 * (e.b.held + n) then s.haltSplit e.c rIllegalOperand 0
    else if (s.poolOf e.g : Int) < n then fail
    else s.holdLanes e.c e.c.active (.acq n.toNat q tr)
/-- REL (R136): the highest-numbered chunks return. -/
def execRel (h : Hdr) (a : Opd) (s : State) : Out :=
  collOp s h [] fun e =>
    let n := (e.read32 a).toInt
    if n < 0 || (e.b.held : Int) < n then s.haltSplit e.c rIllegalOperand 0
    else
      let k := if n == 0 then e.b.held else n.toNat
      (s.advanceSplit e.c).modBand e.c.gid e.c.band fun b =>
        { b with held := b.held - k, chunks := b.chunks.take (b.held - k) }
/-- Whether the waits of a team's context are frozen on a core (R324). -/
def State.teamFrozen (s : State) (core lid : Nat) : Bool := ((s.launch? lid).map fun l => s.lineAt l.ctx core).getD false
/-- ACQ_GRANT (R108): the end-of-cycle service of one team pool on one slice. -/
def execAcqGrant (core slice lid : Nat) (s : State) : Out :=
  .next (if s.teamFrozen core lid then s else s.acqServe core slice lid)
/-- ACQ_DENIAL (R109): after the grants, the denials of one team pool on one slice. -/
def execAcqDenial (core slice lid : Nat) (s : State) : Out :=
  .next (if s.teamFrozen core lid then s else State.acqDenials 33 (s.acqServe core slice lid) core slice lid)
/-- The pools that an ACQ.TRY waits on: core, slice and launch. -/
def State.tryPools (s : State) : List (Nat × Nat × Nat) :=
  (s.groups.flatMap fun p => if p.2.place == .seated then
    p.2.bands.filterMap fun b => if (b.acqWait.map (·.2.2)).getD false then some (p.2.core, b.slice, p.2.lid) else none else []).eraseDups
/-- The end of a cycle in which an ACQ.TRY was made: its pool is served before the next cycle begins (R108, R135). -/
def State.endTries (s : State) : State :=
  s.tryPools.foldl (fun s p => if s.teamFrozen p.1 p.2.2 then s else s.acqServe p.1 p.2.1 p.2.2) s

end Sys2Proof.Machine
end

