-- ==== Sys2Proof/Machine/Float.lean ====
section
/-! DEFINITION. The vector instructions on floating-point values, conversions, special functions and lane exchange (R138 to
R160). -/

namespace Sys2Proof.Machine

/-- A floating-point operand of a format, read exactly (R139, R143). -/
def Env.fval (e : Env) (ty : Ty) (ftz : Bool) (o : Opd) : FV := (fmtOf ty).readF ftz (e.fread (fmtOf ty) ty.is64 o)
/-- A floating-point result written, pushed and flagged (R105, R140). -/
def Env.fput (e : Env) (wide : Bool) (d : Opd) (r : Nat × Word) : Thread :=
  (e.t.setFlags r.2).put wide d (BitVec.ofNat 64 r.1)

/-- An operation of two values rounded once (R143). -/
def fOp2 (s : State) (h : Hdr) (ty : Ty) (rnd : Rnd) (ftz : Bool) (d a b : Opd) (f : FV → FV → FV) : Out :=
  let ty := ty.or .f32
  let n := width ty.is64
  laneOp s h [(d, n), (a, n), (b, n)] fun e =>
    e.fput ty.is64 d ((fmtOf ty).result rnd ftz (f (e.fval ty ftz a) (e.fval ty ftz b)))
/-- FADD (R143). -/
def execFadd (h : Hdr) (ty : Ty) (rnd : Rnd) (ftz : Bool) (d a b : Opd) (s : State) : Out :=
  fOp2 s h ty rnd ftz d a b fun x y => FV.sum rnd [x, y]
/-- A long form: F32, RN, no flush, the immediate the bits of an FP32 value (R139). -/
def fOpLong (s : State) (h : Hdr) (d a : Opd) (imm : Word) (f : FV → FV → FV) : Out :=
  laneOp s h [(d, 1), (a, 1)] fun e =>
    e.fput false d (Fmt.fp32.result .rn false (f (e.fval .f32 false a) (Fmt.fp32.read imm.toNat)))
/-- Long FADD (R139, R143). -/
def execFaddLong (h : Hdr) (d a : Opd) (imm : Word) (s : State) : Out :=
  fOpLong s h d a imm fun x y => FV.sum .rn [x, y]
/-- FSUB (R143). -/
def execFsub (h : Hdr) (ty : Ty) (rnd : Rnd) (ftz : Bool) (d a b : Opd) (s : State) : Out :=
  fOp2 s h ty rnd ftz d a b fun x y => FV.sum rnd [x, y.negate]
/-- FMUL (R143). -/
def execFmul (h : Hdr) (ty : Ty) (rnd : Rnd) (ftz : Bool) (d a b : Opd) (s : State) : Out :=
  fOp2 s h ty rnd ftz d a b FV.mul
/-- Long FMUL (R139, R143). -/
def execFmulLong (h : Hdr) (d a : Opd) (imm : Word) (s : State) : Out := fOpLong s h d a imm FV.mul
/-- a × b + c, rounded once (R143). -/
def fmaVal (rnd : Rnd) (a b c : FV) : FV := FV.sum rnd [a.mul b, c]
/-- FFMA (R143). -/
def execFfma (h : Hdr) (ty : Ty) (rnd : Rnd) (ftz : Bool) (d a b c : Opd) (s : State) : Out :=
  let ty := ty.or .f32
  let n := width ty.is64
  laneOp s h [(d, n), (a, n), (b, n), (c, n)] fun e =>
    e.fput ty.is64 d ((fmtOf ty).result rnd ftz (fmaVal rnd (e.fval ty ftz a) (e.fval ty ftz b) (e.fval ty ftz c)))
/-- FMIN and FMAX (R42, R144). -/
def fMinMax (s : State) (h : Hdr) (ty : Ty) (ftz mx : Bool) (d a b : Opd) : Out :=
  let ty := ty.or .f32
  let n := width ty.is64
  laneOp s h [(d, n), (a, n), (b, n)] fun e =>
    let r := FV.minmax mx (e.fval ty ftz a) (e.fval ty ftz b)
    e.fput ty.is64 d (((fmtOf ty).result .rn false r.1).1, r.2)
/-- FMIN (R144). -/
def execFmin (h : Hdr) (ty : Ty) (ftz : Bool) (d a b : Opd) (s : State) : Out := fMinMax s h ty ftz false d a b
/-- FMAX (R144). -/
def execFmax (h : Hdr) (ty : Ty) (ftz : Bool) (d a b : Opd) (s : State) : Out := fMinMax s h ty ftz true d a b
/-- A value with the sign given, NaN unchanged (R144). -/
def FV.withSign (f : Bool → Bool) : FV → FV
  | .nan s => .nan s
  | .inf n => .inf (f n)
  | .fin n m e => .fin (f n) m e
/-- An operation of one value that is exact (R144). -/
def fOp1 (s : State) (h : Hdr) (ty : Ty) (d a : Opd) (f : FV → FV) : Out :=
  let ty := ty.or .f32
  let n := width ty.is64
  laneOp s h [(d, n), (a, n)] fun e => e.fput ty.is64 d ((fmtOf ty).result .rn false (f (e.fval ty false a)))
/-- FABS (R144). -/
def execFabs (h : Hdr) (ty : Ty) (d a : Opd) (s : State) : Out := fOp1 s h ty d a (FV.withSign fun _ => false)
/-- FNEG (R144). -/
def execFneg (h : Hdr) (ty : Ty) (d a : Opd) (s : State) : Out := fOp1 s h ty d a FV.negate
/-- FCMP (R145). -/
def execFcmp (h : Hdr) (ty : Ty) (ftz : Bool) (cc : Fcc) (d a b : Opd) (s : State) : Out :=
  let ty := ty.or .f32
  let n := width ty.is64
  laneOp s h [(a, n), (b, n)] fun e =>
    let x := e.fval ty ftz a
    let y := e.fval ty ftz b
    (e.t.setFlags (fccFlags cc x y)).putP d (fccHolds cc (x.cmp y))
/-- FCLASS (R146). -/
def execFclass (h : Hdr) (ty : Ty) (d a : Opd) (s : State) : Out :=
  let ty := ty.or .f32
  laneOp s h [(d, 1), (a, width ty.is64)] fun e => e.t.put32 d ((fmtOf ty).classBits (e.fread (fmtOf ty) ty.is64 a))
/-- FRND (R144). -/
def execFrnd (h : Hdr) (ty : Ty) (rnd : Rnd) (d a : Opd) (s : State) : Out := fOp1 s h ty d a (FV.integral rnd)
/-- a × 2^k (R143); a k beyond ±10,000 overflows or underflows every format as that bound does. -/
def scaleVal (k : Int) : FV → FV
  | .fin n m e => if m == 0 then .fin n m e else .fin n m (e + max (-10000) (min 10000 k))
  | v => v
/-- FSCL (R143). -/
def execFscl (h : Hdr) (ty : Ty) (rnd : Rnd) (ftz : Bool) (d a b : Opd) (s : State) : Out :=
  let ty := ty.or .f32
  let n := width ty.is64
  laneOp s h [(d, n), (a, n), (b, 1)] fun e =>
    e.fput ty.is64 d ((fmtOf ty).result rnd ftz (scaleVal (e.read32 b).toInt (e.fval ty ftz a)))

/-! ### Packed 16-bit arithmetic (R147, R148) -/

/-- Element i of a packed operand (R138, R139). -/
def Env.half (e : Env) (ty : Ty) (ftz : Bool) (i : Nat) (o : Opd) : FV :=
  match o with
  | .imm _ => e.fval ty ftz o
  | o => (fmtOf ty).readF ftz (elemOf 16 i (e.read32 o).toNat)
/-- Two elements put together, with the union of their flags (R147). -/
def pair16 (lo hi : Nat × Word) : Nat × Word := (lo.1 + hi.1 * 65536, lo.2 ||| hi.2)
/-- A packed operation of two values (R147). -/
def hOp2 (s : State) (h : Hdr) (ty : Ty) (rnd : Rnd) (ftz : Bool) (d a b : Opd) (f : FV → FV → FV) : Out :=
  let ty := ty.or .f16
  laneOp s h [(d, 1), (a, 1), (b, 1)] fun e =>
    let r (i : Nat) := (fmtOf ty).result rnd ftz (f (e.half ty ftz i a) (e.half ty ftz i b))
    e.fput false d (pair16 (r 0) (r 1))
/-- FADD2 (R147). -/
def execFadd2 (h : Hdr) (ty : Ty) (rnd : Rnd) (ftz : Bool) (d a b : Opd) (s : State) : Out :=
  hOp2 s h ty rnd ftz d a b fun x y => FV.sum rnd [x, y]
/-- FSUB2 (R147). -/
def execFsub2 (h : Hdr) (ty : Ty) (rnd : Rnd) (ftz : Bool) (d a b : Opd) (s : State) : Out :=
  hOp2 s h ty rnd ftz d a b fun x y => FV.sum rnd [x, y.negate]
/-- FMUL2 (R147). -/
def execFmul2 (h : Hdr) (ty : Ty) (rnd : Rnd) (ftz : Bool) (d a b : Opd) (s : State) : Out :=
  hOp2 s h ty rnd ftz d a b FV.mul
/-- FFMA2 (R147). -/
def execFfma2 (h : Hdr) (ty : Ty) (rnd : Rnd) (ftz : Bool) (d a b c : Opd) (s : State) : Out :=
  let ty := ty.or .f16
  laneOp s h [(d, 1), (a, 1), (b, 1), (c, 1)] fun e =>
    let r (i : Nat) := (fmtOf ty).result rnd ftz (fmaVal rnd (e.half ty ftz i a) (e.half ty ftz i b) (e.half ty ftz i c))
    e.fput false d (pair16 (r 0) (r 1))
/-- FMIN2 and FMAX2 (R147). -/
def hMinMax (s : State) (h : Hdr) (ty : Ty) (ftz mx : Bool) (d a b : Opd) : Out :=
  let ty := ty.or .f16
  laneOp s h [(d, 1), (a, 1), (b, 1)] fun e =>
    let r (i : Nat) : Nat × Word :=
      let x := FV.minmax mx (e.half ty ftz i a) (e.half ty ftz i b)
      (((fmtOf ty).result .rn false x.1).1, x.2)
    e.fput false d (pair16 (r 0) (r 1))
/-- FMIN2 (R147). -/
def execFmin2 (h : Hdr) (ty : Ty) (ftz : Bool) (d a b : Opd) (s : State) : Out := hMinMax s h ty ftz false d a b
/-- FMAX2 (R147). -/
def execFmax2 (h : Hdr) (ty : Ty) (ftz : Bool) (d a b : Opd) (s : State) : Out := hMinMax s h ty ftz true d a b
/-- FCMP2 (R147). -/
def execFcmp2 (h : Hdr) (ty : Ty) (ftz : Bool) (cc : Fcc) (d a b : Opd) (s : State) : Out :=
  let ty := ty.or .f16
  laneOp s h [(d, 1), (a, 1), (b, 1)] fun e =>
    let r (i : Nat) : Nat × Word :=
      let x := e.half ty ftz i a
      let y := e.half ty ftz i b
      (if fccHolds cc (x.cmp y) then 65535 else 0, fccFlags cc x y)
    e.fput false d (pair16 (r 0) (r 1))
/-- FDOT2 (R148): the exact sum, rounded once to FP32. -/
def execFdot2 (h : Hdr) (ty : Ty) (rnd : Rnd) (ftz : Bool) (d a b c : Opd) (s : State) : Out :=
  let ty := ty.or .f16
  laneOp s h [(d, 1), (a, 1), (b, 1), (c, 1)] fun e =>
    let p (i : Nat) := (e.half ty ftz i a).mul (e.half ty ftz i b)
    e.fput false d (Fmt.fp32.result rnd ftz (FV.sum rnd [e.fval .f32 ftz c, p 0, p 1]))

/-! ### Division, square root and special functions (R149, R150) -/

/-- FDIV (R149). -/
def execFdiv (h : Hdr) (ty : Ty) (rnd : Rnd) (ftz : Bool) (d a b : Opd) (s : State) : Out :=
  let ty := ty.or .f32
  let n := width ty.is64
  laneOp s h [(d, n), (a, n), (b, n)] fun e =>
    let q := FV.div (e.fval ty ftz a) (e.fval ty ftz b)
    let r := (fmtOf ty).result rnd ftz q.1
    e.fput ty.is64 d (r.1, r.2 ||| q.2)
/-- FSQRT (R149). -/
def execFsqrt (h : Hdr) (ty : Ty) (rnd : Rnd) (ftz : Bool) (d a : Opd) (s : State) : Out :=
  let ty := ty.or .f32
  let n := width ty.is64
  laneOp s h [(d, n), (a, n)] fun e => e.fput ty.is64 d ((fmtOf ty).result rnd ftz (e.fval ty ftz a).sqrt)
/-- A special function (R150). -/
def spOp (s : State) (h : Hdr) (f : SpFn) (ftz : Bool) (d a : Opd) : Out :=
  laneOp s h [(d, 1), (a, 1)] fun e => e.fput false d (f.eval ftz (e.fread .fp32 false a))
/-- RCP (R43, R150). -/
def execRcp (h : Hdr) (_ty : Ty) (ftz : Bool) (d a : Opd) (s : State) : Out := spOp s h .rcp ftz d a
/-- RSQ (R43, R150). -/
def execRsq (h : Hdr) (_ty : Ty) (ftz : Bool) (d a : Opd) (s : State) : Out := spOp s h .rsq ftz d a
/-- EX2 (R43, R150). -/
def execEx2 (h : Hdr) (_ty : Ty) (ftz : Bool) (d a : Opd) (s : State) : Out := spOp s h .ex2 ftz d a
/-- LG2 (R43, R150). -/
def execLg2 (h : Hdr) (_ty : Ty) (ftz : Bool) (d a : Opd) (s : State) : Out := spOp s h .lg2 ftz d a
/-- SINPI (R43, R150). -/
def execSinpi (h : Hdr) (_ty : Ty) (ftz : Bool) (d a : Opd) (s : State) : Out := spOp s h .sinpi ftz d a
/-- COSPI (R43, R150). -/
def execCospi (h : Hdr) (_ty : Ty) (ftz : Bool) (d a : Opd) (s : State) : Out := spOp s h .cospi ftz d a
/-- TANH (R43, R150). -/
def execTanh (h : Hdr) (_ty : Ty) (ftz : Bool) (d a : Opd) (s : State) : Out := spOp s h .tanh ftz d a

/-! ### Conversions (R151 to R154) -/

/-- Formats .FTZ acts on (R152). -/
def flushes (t : Ty) : Bool := t == .f64 || t == .f32 || t == .f16 || t == .bf16
/-- The source of a CVT, read exactly (R139, R151, R152). -/
def Env.cvtSrc (e : Env) (src : Ty) (ftz : Bool) (o : Opd) : FV :=
  match src with
  | .f64 | .f32 | .f16 | .bf16 =>
    match o with
    | .imm _ => e.fval src ftz o
    | o => (fmtOf src).readF ftz ((e.read src.is64 o).toNat % 2 ^ src.bits)
  | t => elemVal t ((e.read t.is64 o).toNat % 2 ^ t.bits) none
/-- A value converted to a destination type (R44, R152). A subnormal result of PACK.FTZ in a type of 8 bits or fewer is kept, as CVT's is
(DESIGN CHOICE, log entry 97). -/
def cvtTo (dst : Ty) (rnd : Rnd) (ftz ovf rx : Bool) (v : FV) : Nat × Word :=
  match dst with
  | .f16 | .bf16 | .e5m2 | .e4m3 | .e2m1 => (fmtOf dst).narrow rnd (ftz && flushes dst) ovf v
  | .e8m0 => toE8M0 rnd ovf v
  | .i32 | .i64 | .n32 | .n64 => v.toInt (if rx then rnd else .rz) (tySigned dst) dst.bits
  | _ => (fmtOf dst).result rnd ftz v
/-- CVT (R152). -/
def execCvt (h : Hdr) (ty ty2 : Ty) (rnd : Rnd) (ftz ovf rx : Bool) (d a : Opd) (s : State) : Out :=
  let dst := ty.or .f32
  let src := ty2.or .i32
  laneOp s h [(d, width dst.is64), (a, width src.is64)] fun e =>
    e.fput dst.is64 d (cvtTo dst rnd ftz ovf rx (e.cvtSrc src ftz a))
/-- A word with element n of width w replaced. -/
def setElem (w n : Nat) (old : Word) (x : Nat) : Word :=
  let lo := old.toNat % 2 ^ (w * n)
  let hi := old.toNat / 2 ^ (w * (n + 1)) * 2 ^ (w * (n + 1))
  BitVec.ofNat 32 (lo + x % 2 ^ w * 2 ^ (w * n) + hi)
/-- PACK (R153): two FP32 values into elements n and n + 1 of the old destination. -/
def execPack (h : Hdr) (ty : Ty) (rnd : Rnd) (ftz ovf : Bool) (pos : BitVec 3) (d a b : Opd) (s : State) : Out :=
  let ty := ty.or .f16
  let w := ty.bits
  laneOp s h [(d, 1), (a, 1), (b, 1)] fun e =>
    let r0 := cvtTo ty rnd ftz ovf false (e.fval .f32 ftz a)
    let r1 := cvtTo ty rnd ftz ovf false (e.fval .f32 ftz b)
    (e.t.setFlags (r0.2 ||| r1.2)).put32 d (setElem w (pos.toNat + 1) (setElem w pos.toNat (e.read32 d) r0.1) r1.1)
/-- The scale entry of UNPK: its scale and X (R45). -/
def scaleOf (w : Word) : Nat × Nat := ((w.extractLsb' 0 8).toNat, (w.extractLsb' 8 8).toNat)
/-- A malformed X of an E2M1 block (R45). -/
def badX (x : Nat) : Bool := x == 0x7F || x == 0xFF
/-- UNPK (R154): a malformed scale entry of some lane is a scale-layout halt before any lane decodes. -/
def execUnpk (h : Hdr) (ty : Ty) (pos : BitVec 3) (scl : Bool) (d a b : Opd) (s : State) : Out :=
  let ty := ty.or .f16
  withRegs s [(d, 1), (a, 1), (b, 1)] fun c g b' =>
    let env (i : Nat) (t : Thread) : Env := ⟨s, c, g, b', t, i⟩
    let bad := (mapIdx (fun i t => laneGuard h t && c.active.getLsbD i && scl && ty == .e2m1 &&
      badX (scaleOf ((env i t).read32 b)).2) b'.threads 0).any id
    if bad then s.haltSplit c rScaleLayout 0
    else
      s.modBand c.gid c.band fun _ =>
        b'.onLanes c.active fun i t =>
          (if laneGuard h t then
            let e := env i t
            let v := match ty with
              | .f16 | .bf16 => e.half ty false pos.toNat a
              | _ => elemVal ty (elemOf ty.bits pos.toNat (e.read32 a).toNat) (if scl then some (scaleOf (e.read32 b)) else none)
            let v := if v.isNan then FV.nan false else v
            e.fput false d (Fmt.fp32.result .rn false v)
          else t).advance c.next

/-! ### Lane exchange (R155 to R159) -/

/-- A lane-exchange instruction (R155): the participants are the active lanes whose guard is true; all of them are read
before any is written. -/
def exchOp (s : State) (h : Hdr) (uses : List (Opd × Nat)) (f : List Env → Env → Thread) : Out :=
  withRegs s uses fun c g b =>
    let es : List Env := (lanesOf (guarded h c b)).filterMap fun i => (b.threads[i]?).map fun t => ⟨s, c, g, b, t, i⟩
    s.modBand c.gid c.band fun _ =>
      b.onLanes c.active fun i t => (if laneGuard h t then f es ⟨s, c, g, b, t, i⟩ else t).advance c.next
/-- Lanes of a shuffle segment (R142). -/
def segSize : ShSeg → Nat
  | .w32 => 32 | .w2 => 2 | .w4 => 4 | .w8 => 8 | .w16 => 16
/-- The source lane of a shuffle, where it is valid (R156). -/
def shflSrc (mode : ShMode) (sz l : Nat) (b : Int) : Option Nat :=
  let g := l - l % sz
  match mode with
  | .idx => if 0 ≤ b && b < sz then some (g + b.toNat) else none
  | .up => if 0 ≤ b && (g : Int) ≤ l - b then some (l - b.toNat) else none
  | .down => if 0 ≤ b && (l : Int) + b < g + sz then some (l + b.toNat) else none
  | .xor => if 0 ≤ b && b < sz then some (l ^^^ b.toNat) else none
/-- SHFL (R156). -/
def execShfl (h : Hdr) (ty : Ty) (mode : ShMode) (seg : ShSeg) (d a b : Opd) (s : State) : Out :=
  let n := width ty.is64
  exchOp s h [(d, n), (a, n), (b, 1)] fun es e =>
    let src : Env :=
      match shflSrc mode (segSize seg) e.lane (e.read32 b).toInt with
      | some j => (es.find? fun x => x.lane == j).getD e
      | none => e
    e.t.put ty.is64 d (src.read ty.is64 a)
/-- VOTE (R157). -/
def execVote (h : Hdr) (vm : VoteMode) (d a : Opd) (s : State) : Out :=
  exchOp s h [(d, 1)] fun es e =>
    let ps := es.map fun x => x.pred a
    match vm with
    | .all => e.t.putP d (ps.all id)
    | .any => e.t.putP d (ps.any id)
    | .uni => e.t.putP d (ps.all id || !(ps.any id))
    | .bal => e.t.put32 d ((es.filter fun x => x.pred a).foldl (fun m x => m ||| BitVec.twoPow 32 x.lane) 0#32)
/-- The reduction of a list of floating-point values (R158). -/
def redFloat (red : Red) (rnd : Rnd) (f : Fmt) (ftz : Bool) (xs : List FV) : Nat × Word :=
  match red with
  | .min | .max =>
    match xs with
    | [] => (f.infCode (red == .max), 0)
    | x :: t =>
      let r := t.foldl (fun a b => (FV.minmax (red == .max) a b).1) x
      let r := if r.isNan then FV.nan false else r
      ((f.result .rn false r).1, if xs.any FV.isSnan then fNV else 0)
  | _ => if xs.isEmpty then (0, 0) else f.result rnd ftz (FV.sum rnd xs)
/-- The identity of an integer reduction (R159). -/
def redIdent (red : Red) (signed : Bool) (w : Nat) : Nat :=
  match red with
  | .add | .or | .xor => 0
  | .and => 2 ^ w - 1
  | .min => if signed then 2 ^ (w - 1) - 1 else 2 ^ w - 1
  | .max => if signed then 2 ^ (w - 1) else 0
/-- The combination of operand A over some participants (R158, R159). -/
def redVal (ty : Ty) (red : Red) (rnd : Rnd) (ftz sat : Bool) (a : Opd) (es : List Env) : Nat × Word :=
  match ty with
  | .f32 | .f64 => redFloat red rnd (fmtOf ty) ftz (es.map fun e => e.fval ty ftz a)
  | _ =>
    if es.isEmpty then (redIdent red (tySigned ty) ty.bits, 0)
    else (redInt red (tySigned ty) sat ty.bits (es.map fun e => (e.read ty.is64 a).toNat % 2 ^ ty.bits), 0)
/-- LRED (R158). -/
def execLred (h : Hdr) (ty : Ty) (rnd : Rnd) (ftz sat : Bool) (red : Red) (d a : Opd) (s : State) : Out :=
  let ty := ty.or .i32
  let n := width ty.is64
  exchOp s h [(d, n), (a, n)] fun es e => e.fput ty.is64 d (redVal ty red rnd ftz sat a es)
/-- SCAN (R159). -/
def execScan (h : Hdr) (ty : Ty) (rnd : Rnd) (ftz sat : Bool) (red : Red) (exc : Bool) (d a : Opd) (s : State) : Out :=
  let ty := ty.or .i32
  let n := width ty.is64
  exchOp s h [(d, n), (a, n)] fun es e =>
    e.fput ty.is64 d (redVal ty red rnd ftz sat a (es.filter fun x => if exc then x.lane < e.lane else x.lane ≤ e.lane))

end Sys2Proof.Machine
end

