-- ==== Sys2Proof/Machine/Memory.lean ====
section
/-! DEFINITION. The memory instructions (R192 to R204) and the events of loads, writes, fences, pages and private growth
(R186, R188, R189, R194, R195, R204, R306, R307, R353). -/

namespace Sys2Proof.Machine

/-! ### Addresses -/

/-- The base of an access through a link (R193): the entry must be bound to DATA with the right the access needs; none
where the instruction names no link. -/
def linkBase (s : State) (c : Slot) (g : Group) (m : Word) (lk : Bool) (slot : BitVec 12) (right : BitVec 5)
    (k : State → Option W64 → State) : State :=
  if !lk then k s none
  else if m == 0#32 then s.advanceSplit c
  else if s.slotCount g.ctx c.pc.sel ≤ slot.toNat then s.haltSplit c rIllegalOperand 0
  else
    match s.useLink g.ctx c.gid c.band g.core c.pc.sel slot false with
    | (.failed, s) => s.haltSplit { c with word := 0 } rUnresolved (bindArg c.pc.sel slot)
    | (.park, s) => s.parkLink c m c.pc.sel slot
    | (.served target kind rights, s) =>
      if kind != 0 || !hasRights rights right then s.haltSplit c rRights target else k s (some target)
/-- The environments of the guarded lanes of a split, lowest first. -/
def laneEnvs (s : State) (c : Slot) (g : Group) (b : Band) (m : Word) : List Env :=
  (lanesOf m).filterMap fun i => (b.threads[i]?).map fun t => ⟨s, c, g, b, t, i⟩
/-- A signed displacement (R193). -/
def Env.disp (e : Env) (o : Opd) : Int := (e.read32 o).toInt
/-- An access of n bytes of a lane at a selector and an exact offset (R180), with row 4 of R190 for an ordered access that is not aligned.
Through a view the handle's own offset is judged, not its place in the underlying segment (DESIGN CHOICE, log entry 94). -/
def Env.access (e : Env) (sel : BitVec 16) (off : Int) (n : Nat) (nd : Need) (ordered : Bool) : Access :=
  ⟨e.lane, handleOf sel off, (e.s.resolve e.c.gid e.c.band e.lane sel off n nd).orIllegal (ordered && off % n != 0)⟩
/-- The access of LD and ST (R194). -/
def Env.handleAccess (e : Env) (base : Option W64) (a : Opd) (disp : Int) (n : Nat) (nd : Need) (ordered : Bool) : Access :=
  let h := base.getD (e.read true a)
  e.access (hsel h) ((hoff h : Int) + disp) n nd ordered
/-- The access of LDSP and STSP (R194). -/
def Env.scratchAccess (e : Env) (a : Opd) (disp : Int) (n : Nat) (nd : Need) (ordered : Bool) : Access :=
  e.access 0xFFFE ((e.read32 a).toNat + disp) n nd ordered
/-- The access of LDSG and STSG (R194): a group number above 191 or an offset of 0x8_0000 or more forms no window offset
and meets row 4. -/
def Env.windowAccess (e : Env) (a b : Opd) (n : Nat) (nd : Need) (ordered : Bool) : Access :=
  let p := (e.read32 a).toNat
  let o := (e.read32 b).toNat
  if 191 < p || 0x80000 ≤ o then ⟨e.lane, 0, .halt 4 rIllegalOperand⟩
  else e.access 0xFFFD ((p * 0x80000 + o : Nat) : Int) n nd ordered

/-! ### Loads and stores (R194) -/

/-- The scope of an acquire; none for an ordering that does not acquire (R192). -/
def ordAcq (o : Ord) (sc : Scope) : Option Scope :=
  match o with
  | .acq | .ar => some sc
  | .none | .rel => none
/-- A load by the guarded lanes of a split (R190, R194); an acquire orders what follows it (R304). -/
def loadLanes (s : State) (c : Slot) (g : Group) (ty : Ty) (acq : Option Scope) (d : Opd) (as : List Access) : State :=
  s.checked c g.ctx as (
    let s := as.foldl (fun s a => s.issueLoad c g.die ty d acq a) (s.cachePages g.core g.ctx c.gid c.band as)
    (match acq with
      | some sc => if as.isEmpty then s else s.acquireRead c.gid c.band g.die sc (keysOf as)
      | none => s).advanceSplit c)
/-- A store by the guarded lanes of a split (R190, R194, R30); it waits while a lane has no room for its acknowledgements (R299). -/
def storeLanes (s : State) (c : Slot) (g : Group) (rel : Bool) (sc : Scope) (items : List (Access × List Byte)) : State :=
  let as := items.map (·.1)
  s.checked c g.ctx as (
    if items.isEmpty then s.advanceSplit c
    else if !s.storeRoom c items then s
    else
      let ins := s.nextId
      let all := keysOf as
      let s := (as.foldl (fun s a => s.freezeLoads c.gid c.band a.lane) (s.cachePages g.core g.ctx c.gid c.band as)).freezeSplit c g.die all
      let s := if rel then s.release c.gid g.die sc (anyBeyond as) else s
      let r := State.storeAll c ins g.die (if rel then some sc else none) all items (s.storeIssued c.gid)
      let s := r.1.clearErrors (if r.2 then all else [])
      if r.2 || s.gone c.gid then s.advanceSplit c else s)
/-- The bytes a lane stores: the low bytes of its value (R194). -/
def Env.storeBytes (e : Env) (ty : Ty) (d : Opd) : List Byte := bytesOfNat (tyBytes ty) (e.read ty.is64 d).toNat

/-- LD (R194). -/
def execLd (h : Hdr) (ty : Ty) (sc : Scope) (ord : Ord) (lk : Bool) (slot : BitVec 12) (d a b : Opd) (s : State) : Out :=
  withRegs s [(d, width ty.is64), (a, if lk then 0 else 2), (b, 1)] fun c g bd =>
    linkBase s c g (guarded h c bd) lk slot rtR fun s base =>
      loadLanes s c g ty (ordAcq ord sc) d ((laneEnvs s c g bd (guarded h c bd)).map fun e =>
        e.handleAccess base a (e.disp b) (tyBytes ty) .load (ord == .acq))
/-- LD with a long displacement (R64, R194). -/
def execLdLong (h : Hdr) (d a : Opd) (imm : Word) (s : State) : Out :=
  withRegs s [(d, 1), (a, 2)] fun c g bd =>
    loadLanes s c g .i32 none d ((laneEnvs s c g bd (guarded h c bd)).map fun e =>
      e.handleAccess none a imm.toInt 4 .load false)
/-- ST (R194). -/
def execSt (h : Hdr) (ty : Ty) (sc : Scope) (ord : Ord) (lk : Bool) (slot : BitVec 12) (d a b : Opd) (s : State) : Out :=
  withRegs s [(d, width ty.is64), (a, if lk then 0 else 2), (b, 1)] fun c g bd =>
    linkBase s c g (guarded h c bd) lk slot rtW fun s base =>
      storeLanes s c g (ord == .rel) sc ((laneEnvs s c g bd (guarded h c bd)).map fun e =>
        (e.handleAccess base a (e.disp b) (tyBytes ty) .store (ord == .rel), e.storeBytes ty d))
/-- ST with a long displacement (R64, R194). -/
def execStLong (h : Hdr) (d a : Opd) (imm : Word) (s : State) : Out :=
  withRegs s [(d, 1), (a, 2)] fun c g bd =>
    storeLanes s c g false .bd ((laneEnvs s c g bd (guarded h c bd)).map fun e =>
      (e.handleAccess none a imm.toInt 4 .store false, e.storeBytes .i32 d))
/-- LDSP (R194). -/
def execLdsp (h : Hdr) (ty : Ty) (sc : Scope) (ord : Ord) (d a b : Opd) (s : State) : Out :=
  withRegs s [(d, width ty.is64), (a, 1), (b, 1)] fun c g bd =>
    loadLanes s c g ty (ordAcq ord sc) d ((laneEnvs s c g bd (guarded h c bd)).map fun e =>
      e.scratchAccess a (e.disp b) (tyBytes ty) .load (ord == .acq))
/-- LDSP with a long displacement (R64, R194). -/
def execLdspLong (h : Hdr) (d a : Opd) (imm : Word) (s : State) : Out :=
  withRegs s [(d, 1), (a, 1)] fun c g bd =>
    loadLanes s c g .i32 none d ((laneEnvs s c g bd (guarded h c bd)).map fun e => e.scratchAccess a imm.toInt 4 .load false)
/-- STSP (R194). -/
def execStsp (h : Hdr) (ty : Ty) (sc : Scope) (ord : Ord) (d a b : Opd) (s : State) : Out :=
  withRegs s [(d, width ty.is64), (a, 1), (b, 1)] fun c g bd =>
    storeLanes s c g (ord == .rel) sc ((laneEnvs s c g bd (guarded h c bd)).map fun e =>
      (e.scratchAccess a (e.disp b) (tyBytes ty) .store (ord == .rel), e.storeBytes ty d))
/-- STSP with a long displacement (R64, R194). -/
def execStspLong (h : Hdr) (d a : Opd) (imm : Word) (s : State) : Out :=
  withRegs s [(d, 1), (a, 1)] fun c g bd =>
    storeLanes s c g false .bd ((laneEnvs s c g bd (guarded h c bd)).map fun e =>
      (e.scratchAccess a imm.toInt 4 .store false, e.storeBytes .i32 d))
/-- LDSG (R194). -/
def execLdsg (h : Hdr) (ty : Ty) (sc : Scope) (ord : Ord) (d a b : Opd) (s : State) : Out :=
  withRegs s [(d, width ty.is64), (a, 1), (b, 1)] fun c g bd =>
    loadLanes s c g ty (ordAcq ord sc) d ((laneEnvs s c g bd (guarded h c bd)).map fun e =>
      e.windowAccess a b (tyBytes ty) .load (ord == .acq))
/-- STSG (R194). -/
def execStsg (h : Hdr) (ty : Ty) (sc : Scope) (ord : Ord) (d a b : Opd) (s : State) : Out :=
  withRegs s [(d, width ty.is64), (a, 1), (b, 1)] fun c g bd =>
    storeLanes s c g (ord == .rel) sc ((laneEnvs s c g bd (guarded h c bd)).map fun e =>
      (e.windowAccess a b (tyBytes ty) .store (ord == .rel), e.storeBytes ty d))

/-! ### Atomics (R195 to R198) -/

/-- What a lane of an atomic carries: its access, and the new value it writes for an old one, if it writes. -/
structure AtomicLane where
  acc : Access
  f : Nat → Option Nat

/-- The read-modify-writes of the lanes of a split, in ascending order; each one's old value goes to its return (R195). The
booleans: no uncorrectable error was met, and some lane wrote. -/
def State.atomicAll (c : Slot) (die : Nat) (ty : Ty) (d : Opd) (rel : Option Scope) : List AtomicLane → State → Bool → State × Bool × Bool
  | [], s, w => (s, true, w)
  | l :: t, s, w =>
    match l.acc.res with
    | .ok space ks =>
      if s.ecc ks then (s.hardErr c die l.acc.lane ks l.acc.h 2, false, w)
      else
        let (old, s) := s.rmw die c.gid c.band l.acc.lane rel space ks l.f
        let (id, s) := s.fresh
        let r : LoadRec :=
          ⟨id, c.gid, c.band, l.acc.lane, d, ty, true, ks, extendTy ty old, true, space == .peer, c.pc, l.acc.h, c.active, none, [], s.cycle⟩
        let s := { s with loads := s.loads ++ [r] }.modThread c.gid c.band l.acc.lane fun t => t.pendOn d ty.is64 id
        State.atomicAll c die ty d rel t s (w || (l.f old).isSome)
    | _ => State.atomicAll c die ty d rel t s w
/-- Whether an ordering releases. -/
def ordRel (o : Ord) : Bool :=
  match o with
  | .rel | .ar => true
  | .none | .acq => false
/-- Whether every lane of an atomic has room for its pending acknowledgement (R299). -/
def State.atomicRoom (s : State) (c : Slot) (ls : List AtomicLane) : Bool :=
  ls.all fun l =>
    match l.acc.res with
    | .ok .device _ | .ok (.host _) _ | .ok .scratch _ | .ok .peer _ => s.ackRoom c.gid c.band 1 [l.acc.lane]
    | _ => true
/-- An atomic by the guarded lanes of a split (R195, R302, R304). -/
def atomicLanes (s : State) (c : Slot) (g : Group) (ty : Ty) (ord : Ord) (sc : Scope) (d : Opd) (ls : List AtomicLane) :
    State :=
  let as := ls.map (·.acc)
  s.checked c g.ctx as (
    if ls.isEmpty then s.advanceSplit c
    else if !s.atomicRoom c ls then s
    else
      let s := (as.foldl (fun s a => s.freezeLoads c.gid c.band a.lane) (s.cachePages g.core g.ctx c.gid c.band as)).freezeSplit c g.die (keysOf as)
      let s := if ordRel ord then s.release c.gid g.die sc (anyBeyond as) else s
      let r := State.atomicAll c g.die ty d (if ordRel ord then some sc else none) ls s false
      let s := if r.2.2 then r.1.storeIssued c.gid else r.1
      let s := if (ordAcq ord sc).isSome then s.acquire c.gid g.die else s
      if r.2.1 || s.gone c.gid then s.advanceSplit c else s)
/-- An atomic with a right, at the host's atomic operations where barred is false (R198). -/
def atomicOp (s : State) (h : Hdr) (ty : Ty) (sc : Scope) (ord : Ord) (d a b : Opd) (n : Nat) (barred : Bool)
    (f : Env → Nat → Nat) : Out :=
  withRegs s [(d, width ty.is64), (a, 2), (b, width ty.is64)] fun c g bd =>
    atomicLanes s c g ty ord sc d ((laneEnvs s c g bd (guarded h c bd)).map fun e =>
      ⟨e.handleAccess none a 0 n ⟨rtA, barred || n < 4, false⟩ true, fun old => some (f e old)⟩)
/-- An integer atomic: its operands as numbers of the type's width (R195). -/
def intAtomic (s : State) (h : Hdr) (ty : Ty) (sc : Scope) (ord : Ord) (d a b : Opd) (barred : Bool)
    (f : Int → Int → Int) : Out :=
  let t := ty.or .i32
  atomicOp s h ty sc ord d a b (tyBytes ty) barred fun e old =>
    intNarrow (tySigned t) false t.bits (f (readInt (tySigned t) t.bits old) (readInt (tySigned t) t.bits (e.read ty.is64 b).toNat))
/-- A bitwise atomic (R195). -/
def bitAtomic (s : State) (h : Hdr) (ty : Ty) (sc : Scope) (ord : Ord) (d a b : Opd) (barred : Bool)
    (f : Nat → Nat → Nat) : Out :=
  atomicOp s h ty sc ord d a b (tyBytes ty) barred fun e old => f old (e.read ty.is64 b).toNat
/-- AADD (R195). -/
def execAadd (h : Hdr) (ty : Ty) (sc : Scope) (ord : Ord) (d a b : Opd) (s : State) : Out :=
  intAtomic s h ty sc ord d a b false (· + ·)
/-- AMIN (R195). -/
def execAmin (h : Hdr) (ty : Ty) (sc : Scope) (ord : Ord) (d a b : Opd) (s : State) : Out :=
  intAtomic s h ty sc ord d a b true min
/-- AMAX (R195). -/
def execAmax (h : Hdr) (ty : Ty) (sc : Scope) (ord : Ord) (d a b : Opd) (s : State) : Out :=
  intAtomic s h ty sc ord d a b true max
/-- AAND (R195). -/
def execAand (h : Hdr) (ty : Ty) (sc : Scope) (ord : Ord) (d a b : Opd) (s : State) : Out :=
  bitAtomic s h ty sc ord d a b true (· &&& ·)
/-- AOR (R195). -/
def execAor (h : Hdr) (ty : Ty) (sc : Scope) (ord : Ord) (d a b : Opd) (s : State) : Out :=
  bitAtomic s h ty sc ord d a b true (· ||| ·)
/-- AXOR (R195). -/
def execAxor (h : Hdr) (ty : Ty) (sc : Scope) (ord : Ord) (d a b : Opd) (s : State) : Out :=
  bitAtomic s h ty sc ord d a b true (· ^^^ ·)
/-- AXCH (R195). -/
def execAxch (h : Hdr) (ty : Ty) (sc : Scope) (ord : Ord) (d a b : Opd) (s : State) : Out :=
  bitAtomic s h ty sc ord d a b false fun _ v => v
/-- ACAS (R196, R181): its read needs the right r as well; a failed compare writes nothing. -/
def execAcas (h : Hdr) (ty : Ty) (sc : Scope) (ar : Bool) (d a b c : Opd) (s : State) : Out :=
  let n := tyBytes ty
  let mine (e : Env) (o : Opd) : Nat := (e.read ty.is64 o).toNat % 2 ^ (8 * n)
  withRegs s [(d, width ty.is64), (a, 2), (b, width ty.is64), (c, width ty.is64)] fun sl g bd =>
    atomicLanes s sl g ty (if ar then .ar else .none) sc d ((laneEnvs s sl g bd (guarded h sl bd)).map fun e =>
      ⟨e.handleAccess none a 0 n ⟨rtR ||| rtA, false, false⟩ true, fun old => if old == mine e b then some (mine e c) else none⟩)
/-- AFADD (R195): RN, subnormals kept, the canonical NaN, no flags; two elements of 16 bits in one word. -/
def execAfadd (h : Hdr) (ty : Ty) (sc : Scope) (ord : Ord) (d a b : Opd) (s : State) : Out :=
  let t := ty.or .f32
  let f := fmtOf t
  if t == .f16 || t == .bf16 then
    atomicOp s h ty sc ord d a b 4 true fun e old =>
      let el (i : Nat) : Nat := (f.result .rn false (FV.sum .rn [f.read (elemOf 16 i old), e.half t false i b])).1
      el 0 + el 1 * 65536
  else
    atomicOp s h ty sc ord d a b (t.bits / 8) true fun e old =>
      (f.result .rn false (FV.sum .rn [f.read old, e.fval t false b])).1

/-! ### Symmetric stores (R199 to R201) -/

/-- A value transform (R200): negate the real value, negate the imaginary half. -/
abbrev Xform := Bool × Bool
/-- The transform of a generator (R200). -/
def Gen.xform (k : Gen) : Xform :=
  if k.kind == 2 || k.kind == 5 then (true, true) else if k.kind == 3 then (false, true) else (false, false)
/-- The axes a generator names (R90). -/
def Gen.axes (k : Gen) : List Nat := if k.kind ≤ 3 then [k.axis1, k.axis2] else [k.axis1]
/-- A coordinate of a point. -/
def axisOf (p : Nat × Nat × Nat) (a : Nat) : Nat := if a == 0 then p.1 else if a == 1 then p.2.1 else p.2.2
/-- A point with a coordinate replaced. -/
def setAxis (p : Nat × Nat × Nat) (a x : Nat) : Nat × Nat × Nat :=
  if a == 0 then (x, p.2) else if a == 1 then (p.1, x, p.2.2) else (p.1, p.2.1, x)
/-- The thread extents of a launch (R12). -/
def Block.extents (b : Block) : Nat × Nat × Nat :=
  (b.box.1 * b.cluster.1 * b.shape.1, b.box.2.1 * b.cluster.2.1 * b.shape.2.1, b.box.2.2 * b.cluster.2.2 * b.shape.2.2)
/-- The image of a point under a generator (R90). -/
def Gen.apply (k : Gen) (ext p : Nat × Nat × Nat) : Nat × Nat × Nat :=
  let x := axisOf p k.axis1
  let n := axisOf ext k.axis1
  if k.kind ≤ 3 then setAxis (setAxis p k.axis1 (axisOf p k.axis2)) k.axis2 x
  else if k.kind ≤ 5 then setAxis p k.axis1 (n - 1 - x)
  else setAxis p k.axis1 ((x + k.shift) % max n 1)
/-- The order of a generator (R200). -/
def Gen.order (k : Gen) (ext : Nat × Nat × Nat) : Nat :=
  let n := axisOf ext k.axis1
  if k.kind == 6 then n / Nat.gcd n k.shift else 2
/-- A function applied a number of times. -/
def times {α : Type} (f : α → α) : Nat → α → α
  | 0, x => x
  | n + 1, x => times f n (f x)
/-- Exclusive or of transforms. -/
def xformXor (a b : Xform) : Xform := (a.1 != b.1, a.2 != b.2)
/-- The elements of a launch's group in the order of R200, as functions of a point with its transform. -/
def imagesOf (gens : List Gen) (ext p : Nat × Nat × Nat) : List ((Nat × Nat × Nat) × Xform) :=
  match gens with
  | [] => [(p, (false, false))]
  | g1 :: rest =>
    let o2 := ((rest.head?).map fun g => g.order ext).getD 1
    (List.range (g1.order ext)).flatMap fun i => (List.range o2).map fun j =>
      let st2 : (Nat × Nat × Nat) × Xform → (Nat × Nat × Nat) × Xform := fun q =>
        match rest.head? with
        | some g2 => (g2.apply ext q.1, xformXor q.2 g2.xform)
        | none => q
      times (fun q => (g1.apply ext q.1, xformXor q.2 g1.xform)) i (times st2 j (p, (false, false)))
/-- The distinct points of an enumeration with the transform each was first reached under, and whether some point was
reached under two (R201). -/
def distinctImages : List ((Nat × Nat × Nat) × Xform) → List ((Nat × Nat × Nat) × Xform) → Bool →
    List ((Nat × Nat × Nat) × Xform) × Bool
  | [], seen, c => (seen, c)
  | (q, t) :: rest, seen, c =>
    match seen.find? fun x => x.1 == q with
    | some u => distinctImages rest seen (c || u.2 != t)
    | none => distinctImages rest (seen ++ [(q, t)]) c
/-- A transform applied to a value (R200). -/
def xformVal (ty : Ty) (cpx : Bool) (t : Xform) (v : W64) : Nat :=
  if cpx then
    let half (neg : Bool) (x : Word) : Nat :=
      if neg then (Fmt.fp32.result .rn false ((Fmt.fp32.read x.toNat).negate)).1 else x.toNat
    half t.1 (v.extractLsb' 0 32) + half t.2 (v.extractLsb' 32 32) * 2 ^ 32
  else
    let ty := ty.or .i32
    if !t.1 then v.toNat % 2 ^ ty.bits
    else if ty.isFloat then ((fmtOf ty).result .rn false (((fmtOf ty).read (v.toNat % 2 ^ ty.bits)).negate)).1
    else (2 ^ ty.bits - v.toNat % 2 ^ ty.bits) % 2 ^ ty.bits
/-- What one lane of a SYMST comes to (R199, R201): the access that decides its check, or the writes of its primary and
images, whether it meets a conflict, and the accesses to the primary and the images. -/
structure SymLane where
  lane : Nat
  h : W64
  res : Res
  items : List (Space × List Key × List Byte)
  conflict : Bool
  images : List Access
/-- The checks of R190 rows 1 to 6 for the primary and every image of a lane, and row 4's conditions (R199, R201). A point beyond a view's
extent meets row 3 before the extents are compared with the launch's (DEDUCED, log entry 98). -/
def symCheck (s : State) (x : Context) (e : Env) (gens : List Gen) (ext : Nat × Nat × Nat) (ty : Ty) (cpx : Bool) (n : Nat)
    (h : W64) (p : Nat × Nat × Nat) (v : W64) : SymLane :=
  let sel := hsel h
  let d := x.desc sel
  let own := s.resolve e.c.gid e.c.band e.lane sel (hoff h) n .store
  let bad (r : Res) : SymLane := ⟨e.lane, h, r, [], false, []⟩
  if selFixed sel || d.kind != 6 then bad (own.orIllegal true)
  else if own.row ≤ 3 then bad own
  else
    let u := x.desc d.under
    if d.nx ≤ p.1 || d.ny ≤ p.2.1 || d.nz ≤ p.2.2 then bad (.halt 3 rLimit)
    else
      let im := distinctImages ((imagesOf gens ext p).map fun q => (q.1, if cpx then q.2 else (q.2.1, false))) [] false
      let addr (q : Nat × Nat × Nat) : Int := (d.base : Int) + q.1 * d.sx + q.2.1 * d.sy + q.2.2 * d.sz
      let rs := im.1.map fun q => s.plainSeg x d.under u (addr q.1) n .store (handleOf d.under (addr q.1))
      let axes := gens.flatMap Gen.axes
      let ill := d.elem != n || axes.any (fun a => axisOf (d.nx, d.ny, d.nz) a != axisOf ext a) ||
        (!cpx && gens.any fun k => k.kind == 3)
      match worstOf (rs.map fun r => ⟨e.lane, h, r.orIllegal ill⟩) with
      | some a => ⟨e.lane, match a.res with
          | .page g => g
          | _ => h, a.res, [], im.2, []⟩
      | none =>
        ⟨e.lane, h, .ok .device [], (rs.zip im.1).filterMap fun q =>
            match q.1 with
            | .ok sp ks => some (sp, ks, bytesOfNat n (xformVal ty cpx q.2.2 v))
            | _ => none,
          im.2, (rs.zip im.1).map fun q => ⟨e.lane, handleOf d.under (addr q.2.1), q.1⟩⟩
/-- The last write made is an image of a SYMST: it publishes the writes of its chain before it (R311). -/
def State.chainTo (s : State) (hb : List Nat) : State :=
  match s.writes.getLast? with
  | some w => { s with writes := modWrite s.writes w.id fun w => { w with sym := !hb.isEmpty, hb := hb } }.leave w
  | none => s
/-- The writes of one lane's chain to device memory or a peer, after those of some names. -/
def State.symChain (c : Slot) (ins die : Nat) (q : SymLane) : List (Space × List Key × List Byte) → List Nat → State → State
  | [], _, s => s
  | i :: t, hb, s =>
    let s := if i.1 == .peer then s.awaitPeer c ⟨q.lane, q.h, q.res⟩ i.2.1 else s
    let id := s.nextId
    let s := s.writeFrom ins die c.gid c.band q.lane i.1 none (bytesAt i.2.1 i.2.2)
    if i.1 == .device then State.symChain c ins die q t (hb ++ [id]) (s.chainTo hb) else State.symChain c ins die q t hb s
/-- The writes of one lane's chain in order (R201, R311), of the instruction that began at a name: each leaves its die after the one before
it; posted host writes of one lane reach the host together, after those of the lanes below, and those to a peer one by one. -/
def State.symWrites (s : State) (c : Slot) (ins die : Nat) (q : SymLane) : State :=
  let s := s.pullOwn die c.gid c.band q.lane (q.items.flatMap fun i => i.2.1)
  match q.items with
  | (.host p, _) :: _ =>
    let s := s.writeFrom ins die c.gid c.band q.lane (.host p) none
      (q.items.foldl (fun t i => (i.2.1.zip i.2.2).foldl (fun t p => tabSet t p.1 p.2) t) [])
    { s with posted := s.posted.map fun p => if p.ins == ins then { p with seq := true } else p }
  | items =>
    let s := State.symChain c ins die q items [] s
    { s with posted := s.posted.map fun p => if p.ins == ins && p.port == peerPort then { p with seq := true } else p }
/-- SYMST (R199 to R201). A short immediate as the value D gives its sign-extended bits, at 64 bits too, and for F32 and F64 no converted number
(DESIGN CHOICE, log entry 94). -/
def execSymst (h : Hdr) (ty : Ty) (cpx : Bool) (d a b : Opd) (s : State) : Out :=
  let n := if cpx then 8 else tyBytes ty
  withRegs s [(d, width (n == 8)), (a, 2), (b, 3)] fun c g bd =>
    let m := guarded h c bd
    match s.ctx? g.ctx, s.launch? g.curLid with
    | some x, some l =>
      let ext := l.block.extents
      let gens := if l.block.sym then l.block.gens else []
      let bi := match b with
        | .v i => i.toNat
        | _ => 0
      let ls := ((laneEnvs s c g bd m).filter fun e => e.t.canon).map fun e =>
        symCheck s x e gens ext ty cpx n (e.read true a)
          ((e.t.getV bi).toNat, (e.t.getV (bi + 1)).toNat, (e.t.getV (bi + 2)).toNat) (e.read (n == 8) d)
      s.checked c g.ctx (ls.map fun q => (⟨q.lane, q.h, q.res⟩ : Access)) (
        if !(ls.all fun q => s.ackRoom c.gid c.band q.items.length [q.lane]) then s
        else
          let ins := s.nextId
          let keys (q : SymLane) : List Key := q.items.flatMap fun i => i.2.1
          let all := ls.flatMap keys
          let s := (ls.foldl (fun s q => s.freezeLoads c.gid c.band q.lane)
            (s.cachePages g.core g.ctx c.gid c.band (ls.flatMap (·.images)))).freezeSplit c g.die all
          let s := if m == 0#32 then s else s.storeIssued c.gid
          let bad : Option SymLane := ls.find? fun q => s.eccStore all (keys q)
          let done : List SymLane := match bad with
            | some q => ls.filter fun r => r.lane < q.lane
            | none => ls
          let s := done.foldl (fun s q => s.symWrites c ins g.die q) s
          let k := (done.filter (·.conflict)).length
          let s := s.modLaunch g.curLid fun l =>
            { l with fixed := BitVec.ofNat 32 (min (l.fixed.toNat + k) 0xFFFFFFFF) }
          match bad with
          | some q =>
            let s := s.hardErr c g.die q.lane (keys q) q.h 1
            if s.gone c.gid then s.advanceSplit c else s
          | none => (s.clearErrors all).advanceSplit c)
    | _, _ => s.advanceSplit c

/-! ### The private stack, prefetch and fence (R202 to R204) -/

/-- The V register numbers of a run of n from a register (R202). -/
def runOf (a : Opd) (n : Nat) : List Nat :=
  match a with
  | .v i => (List.range n).map (i.toNat + ·)
  | _ => []
/-- PUSH (R202). -/
def execPush (h : Hdr) (cnt : BitVec 4) (d a : Opd) (s : State) : Out :=
  let n := cnt.toNat + 1
  withRegs s [(d, 1), (a, n)] fun c g bd =>
    let es := laneEnvs s c g bd (guarded h c bd)
    let items := es.map fun e =>
      let o := (e.read32 d).toNat
      let r := s.resolve c.gid c.band e.lane 0xFFFC o (4 * n) .store
      ((⟨e.lane, handleOf 0xFFFC o, r.orIllegal (o % 4 != 0)⟩ : Access),
        (runOf a n).flatMap fun i => bytesOfNat 4 (e.t.getV i).toNat)
    s.checked c g.ctx (items.map (·.1)) (
      if items.isEmpty then s.advanceSplit c
      else
        let all := keysOf (items.map (·.1))
        let s := (es.foldl (fun s e => s.freezeLoads c.gid c.band e.lane)
          (s.cachePages g.core g.ctx c.gid c.band (items.map (·.1)))).freezeSplit c g.die all
        let r := State.storeAll c s.nextId g.die none all items (s.storeIssued c.gid)
        if r.2 then
          (es.foldl (fun s e => s.modThread c.gid c.band e.lane fun t => t.put32 d (e.read32 d + BitVec.ofNat 32 (4 * n)))
            (r.1.clearErrors all)).advanceSplit c
        else if r.1.gone c.gid then r.1.advanceSplit c else r.1)
/-- POP (R202). -/
def execPop (h : Hdr) (cnt : BitVec 4) (d a : Opd) (s : State) : Out :=
  let n := cnt.toNat + 1
  withRegs s [(d, 1), (a, n)] fun c g bd =>
    let es := laneEnvs s c g bd (guarded h c bd)
    let acc (e : Env) : Access :=
      let o : Int := ((e.read32 d).toNat : Int) - 4 * n
      let r := if o < 0 then .halt 3 rLimit else s.resolve c.gid c.band e.lane 0xFFFC o (4 * n) .load
      ⟨e.lane, handleOf 0xFFFC o, r.orIllegal (o % 4 != 0)⟩
    s.checked c g.ctx (es.map acc) (
      match es.find? fun e => s.ecc (keysOf [acc e]) with
      | some e =>
        let s := s.hardErr c g.die e.lane (keysOf [acc e]) (acc e).h 0
        if s.gone c.gid then s.advanceSplit c else s
      | none =>
        let s := es.foldl (fun s e => s.modThread c.gid c.band e.lane fun t =>
          let ks := keysOf [acc e]
          let t := (mapIdx (fun k i => (i, natOfBytes (((ks.drop (4 * k)).take 4).map (memGet s.mem)))) (runOf a n) 0).foldl
            (fun t p => t.setV p.1 (BitVec.ofNat 32 p.2)) t
          t.put32 d (e.read32 d - BitVec.ofNat 32 (4 * n))) (s.cachePages g.core g.ctx c.gid c.band (es.map acc))
        s.advanceSplit c)
/-- PFET (R203): a page that is not resident is asked for, and no lane parks; a lane that would fail a check does nothing. It is checked as a
load of one byte (DESIGN CHOICE, log entry 97: R181 names no right for it). -/
def execPfet (h : Hdr) (_tr : Bool) (a b : Opd) (s : State) : Out :=
  withRegs s [(a, 2), (b, 1)] fun c g bd =>
    let as := (laneEnvs s c g bd (guarded h c bd)).map fun e => e.handleAccess none a (e.disp b) 1 .load false
    let s := as.foldl (fun s a =>
      match a.res with
      | .page h => if s.mode.getLsbD 3 then s else (s.postOpen g.ctx clPage c.gid c.band c.pc.val (some h) true).2.2
      | .ok _ _ => s.cachePages g.core g.ctx c.gid c.band [a]
      | _ => s) s
    s.advanceSplit c
/-- A release fence of some lanes of a band stands before what they store from here on: what happens before it (R303). -/
def State.noteFence (s : State) (gid band : Nat) (m : Word) (sc : Scope) : State :=
  let hb := s.before gid
  s.modBand gid band fun b => b.onLanes m fun _ t => t.fenced sc hb
/-- FENCE (R204, R307): `.REL` and `.FULL` wait until the thread's earlier stores are acknowledged. -/
def execFence (h : Hdr) (sc : Scope) (fk : FenceKind) (s : State) : Out :=
  withSplit s fun c g b =>
    let m := guarded h c b
    let rel := fk != .acq && m != 0#32
    let s := if rel then (if wideScope sc then s.passOn c.gid g.die sc else s.expose c.gid sc) else s
    let s := if rel then s.noteFence c.gid c.band m sc else s
    let s := if fk != .rel && m != 0#32 then (s.fenceLoads c.gid c.band m sc).acquire c.gid g.die else s
    s.modBand c.gid c.band fun b =>
      b.onLanes c.active fun i t =>
        if laneGuard h t && rel && s.unacked g.die c.gid c.band i sc s.nextId then t.hold (.fence sc s.nextId) c.next else t.advance c.next

/-! ### Events -/

/-- Whether the device-wide service functions run: the ensign die's pair is live (R350). -/
def State.ensignRuns (s : State) : Bool := (s.ensign.map fun d => (s.die d).pairLive).getD true
/-- A page of device memory with an uncorrectable error is retired (R353, log entry 93): in hardware mode the service pair gives it other
memory, which holds what could be read of it, and its translations leave the caches; in host-assisted mode the host decides. -/
def State.retire (s : State) (k : Key) : State :=
  if spaceOfKey k != .device || !s.mode.getLsbD 5 || !s.ensignRuns || s.retired.contains (pageOfKey k) then s
  else { s with
    retired := pageOfKey k :: s.retired
    cores := s.cores.map fun p => (p.1, { p.2 with pages := p.2.pages.filter fun q => q != pageOfKey k }) }
/-- An uncorrectable error has been found in the unit of a byte (R189, R353). -/
def State.foundBad (s : State) (k : Key) : State := (s.spoil k).retire k
/-- LOAD_RETURN (R194, R191): a load's data arrives, as it was sampled at issue or, late, as the bytes stand now (log entry 4); for a load that
is not naturally aligned late names the bytes, and with bit 8 they are sampled while the load goes on. ecc is 1 for a corrected error and 2
for an uncorrectable one met on the way; the counts are those of the issuing group's die (log entry 95). -/
def execLoadReturn (id late ecc : Nat) (s : State) : Out :=
  .next (
    match s.loads.find? fun r => r.id == id && !r.atomic with
    | none => s
    | some r =>
      let die := ((s.group? r.gid).map Group.die).getD 0
      let k := r.keys.headD 0
      let now := late % 512 != 0 && s.lateOk r
      let x := if now then s.resample r late else r.val
      if late.testBit 8 && r.acq.isNone then { s with loads := s.loads.map fun l => if l.id == id then { l with val := x } else l }
      else if ecc == 2 || s.ecc r.keys then
        (if s.ecc r.keys then s else s.foundBad k).loadErr r
      else
        let s := if ecc == 1 then s.countErr die (memKind k) false else s
        let s := s.deliver r x
        match r.acq with
        | some sc => if now then s.acquireRead r.gid r.band die sc r.keys else s
        | none => s)
/-- ATOMIC_RETURN (R195): an atomic's old value arrives. -/
def execAtomicReturn (id : Nat) (s : State) : Out :=
  .next (
    match s.loads.find? fun r => r.id == id && r.atomic with
    | none => s
    | some r => s.deliver r r.val)
/-- REMOTE_WRITE_APPLY (R306): a write leaves its die where it has not yet, and another die applies it once every write that
precedes it is applied there; its own die may show it before it leaves (R308). With die 4, a posted write reaches the host or the
scratchpad (R312, R308), after those it must follow there (R194, R198). -/
def execRemoteWriteApply (wid die : Nat) (s : State) : Out :=
  .next (
    if die == 4 then
      match s.posted.find? fun p => p.id == wid with
      | some p => if s.heldBack p then s else s.landPosted p
      | none => s
    else if 4 < die then s
    else
      match s.write? wid with
      | none => s
      | some w =>
        if die == w.die then s.showOwn w
        else
        let s := s.leave w
        match s.write? wid with
        | none => s
        | some w =>
          if w.applied.contains die || s.writes.any fun u => u.precedes w && !(u.applied.contains die) then s.settle
          else (s.markApplied die w).settle)
/-- FENCE_COMPLETE (R204, R307): a thread's fence completes once its stores are acknowledged; at `.SY` the flush brings
earlier posted writes to the host. The same fences of other lanes of the band that are complete end with it. -/
def execFenceComplete (gid band lane : Nat) (s : State) : Out :=
  .next (
    let die := ((s.group? gid).map Group.die).getD 0
    match if s.frozen gid then none else s.thread? gid band lane with
    | none => s
    | some t =>
      match t.wait with
      | .fence sc n =>
        let dev : Scope := if sc == .sy then .dm else sc
        if s.unacked die gid band lane dev n then s
        else
          let s := if sc == .sy then s.posted.foldl State.landPosted s else s
          s.modBand gid band fun b => { b with threads := mapIdx (fun l t =>
            if t.wait == .fence sc n && !s.unacked die gid band l dev n then t.release else t) b.threads 0 }
      | _ => s)
/-- PAGE_MIGRATION (R188): a page gets another home die, which has applied what the old one had; translations of it leave
the caches. -/
def execPageMigration (ctx sel page die : Nat) (s : State) : Out :=
  .next (
    let sl := BitVec.ofNat 16 sel
    let old := s.homeDie ctx sl (page * Config.pageBytes)
    let key := pageKey ctx sl page
    if 3 < die then s
    else
      let inPage (k : Key) : Bool := spaceOfKey k == .device && pageOfKey k == key
      let s := (s.writes.filter fun w => w.applied.contains old && w.bytes.any fun p => inPage p.1).foldl
        (fun s w => s.forceApply die w.id) s
      { s with
        homes := tabSet s.homes key die
        cores := s.cores.map fun p => (p.1, { p.2 with pages := p.2.pages.filter (· != key) }) })
/-- Whether the service functions of a die's memory run (R350, R352, R353): in hardware mode its service pair does them, or, once that is
lost, the ensign pair. -/
def State.serviceRuns (s : State) (die bit : Nat) : Bool :=
  !s.mode.getLsbD bit || (s.die die).pairLive || (s.ensign.map fun d => (s.die d).pairLive).getD false
/-- PATROL_SCRUB (R189, R353): the scrub, by the die's service pair or, in host-assisted mode, the host, corrects an error it finds, or
finds one it cannot correct in the unit of a byte. -/
def execPatrolScrub (die kind : Nat) (bad : Option Nat) (s : State) : Out :=
  .next (
    if !s.serviceRuns die 4 then s
    else
      match bad with
      | none => s.countErr die kind false
      | some k =>
        (s.countErr die kind true).foundBad k)
/-- Whether the owner of GROWTH was asked for a band's growth, and its reply is still awaited (R354). -/
def State.growthAsked (s : State) (gid band : Nat) : Bool :=
  s.claims.any fun c => c.cls == clGrowth && c.gid == gid && c.band == band && c.reply && !c.answered
/-- PRIVATE_GROWTH_SERVICE (R186): the service pair answers; growth asked for in host-assisted mode is answered by the owner's REPLY. -/
def execPrivateGrowthService (gid band : Nat) (grant : Bool) (s : State) : Out :=
  .next (if s.growthAsked gid band || !s.ensignRuns then s else s.serveGrowth gid band grant)

end Sys2Proof.Machine
end

