-- ==== Sys2Proof/Machine/Counters.lean ====
section
/-! DEFINITION. Batches, barriers, arrival counters, SREAD and SWRITE (R283 to R298). -/

namespace Sys2Proof.Machine

/-! ### Batches (R284, R285) -/

/-- A thread's complete batches counted off: every finished batch at the head of the sealed list (R285). An advance of
S.BDONE ends a nap (R176). -/
def Thread.settleBatches (t : Thread) : Thread :=
  let k := (t.sealed.takeWhile (· == 0)).length
  if k == 0 then t
  else { t with sealed := t.sealed.drop k, bdone := t.bdone + BitVec.ofNat 32 k, nap := 0 }
/-- An engine operation joins a thread's open batch (R209, R284). -/
def Thread.joinOp (t : Thread) : Thread := { t with openOps := t.openOps + 1 }
/-- An engine operation that joined a batch of a thread completes (R284, R285). -/
def Thread.finishOp (t : Thread) (batch : Word) : Thread :=
  if !t.live then t
  else if batch == t.batch + 1 then { t with openOps := t.openOps - 1 }
  else { t with sealed := listMod t.sealed (batch - t.bdone - 1).toNat (· - 1) }.settleBatches
/-- Completion of an operation in the threads it joined (R284), wherever their group is (R220). -/
def State.finishJoins (s : State) (js : List Join) : State :=
  js.foldl (fun s j => s.modThread j.gid j.band j.lane fun t => t.finishOp j.batch) s
/-- The joins of an operation in the live threads of a mask (R209). -/
def joinsOf (gid band : Nat) (b : Band) (m : Word) : List Join :=
  (lanesOf m).filterMap fun i => (b.threads[i]?).bind fun t => if t.here then some ⟨gid, band, i, t.batch + 1⟩ else none
/-- The threads of some joins count an operation in their open batch. -/
def State.startJoins (s : State) (js : List Join) : State :=
  js.foldl (fun s j => s.modThread j.gid j.band j.lane Thread.joinOp) s
/-- Whether every thread of some joins has room in its open batch (R284). -/
def State.joinRoom (s : State) (js : List Join) : Bool :=
  js.all fun j => ((s.thread? j.gid j.band j.lane).map fun t => decide (t.openOps < 65535)).getD true

/-- SEAL of a thread that has room (R293). -/
def Thread.sealBatch (t : Thread) : Thread :=
  { t with batch := t.batch + 1, sealed := t.sealed ++ [t.openOps], openOps := 0 }.settleBatches
/-- Whether WAITB n lets a thread go on (R293). -/
def Thread.batchesDone (t : Thread) (n : Word) : Bool := (t.batch - t.bdone).toNat ≤ n.toNat
/-- SEAL (R293): a lane with 16 batches not complete waits, and seals when there is room. -/
def execSeal (h : Hdr) (s : State) : Out :=
  withSplit s fun c _ _ =>
    s.modBand c.gid c.band fun b =>
      b.onLanes c.active fun _ t =>
        if !laneGuard h t then t.advance c.next
        else if 16 ≤ t.sealed.length then t.hold .seal c.next
        else t.sealBatch.advance c.next
/-- SEAL_RELEASE (R284, R293): with the lane, those of its band that can seal too. -/
def execSealRelease (gid band lane : Nat) (s : State) : Out :=
  .next (s.thaw gid <| s.modBand gid band fun b =>
    b.releaseAll lane (fun t => t.wait == .seal && t.sealed.length < 16) fun t => t.sealBatch.release)
/-- WAITB (R293): the count is read at issue. -/
def execWaitb (h : Hdr) (a : Opd) (s : State) : Out :=
  withRegs s [(a, 1)] fun c g b0 =>
    s.modBand c.gid c.band fun b =>
      b.onLanes c.active fun i t =>
        let n := (Env.mk s c g b0 t i).read32 a
        if laneGuard h t && !t.batchesDone n then t.hold (.waitb n) c.next else t.advance c.next
/-- Whether a thread waits at a WAITB whose batches are complete. -/
def Thread.waitbOver (t : Thread) : Bool :=
  match t.wait with
  | .waitb n => t.batchesDone n
  | _ => false
/-- WAITB_RELEASE (R293): with the lane, those of its band whose batches are complete too. -/
def execWaitbRelease (gid band lane : Nat) (s : State) : Out :=
  .next (s.thaw gid <| s.modBand gid band fun b => b.releaseAll lane Thread.waitbOver Thread.release)

/-! ### Group and cluster barriers (R286 to R289) -/

/-- Both halves of a barrier's fence, at its scope, for every thread of a group (R286, R287): what precedes it leaves the die before what
follows, pending loads keep what they have read, what the group has posted is passed on to the groups of the scope, later stores publish what
happens before it, and what the group has read happens before what follows. Group and cluster scope lie within one die, whose view then holds
every store of the group (R307). -/
def State.fenceGroup (s : State) (gid : Nat) (sc : Scope) : State :=
  match s.group? gid with
  | some g =>
    let s := { s with loads := s.loads.map fun (l : LoadRec) => if l.gid == gid then { l with frozen := true } else l }
    let s := s.passOn gid g.die sc
    ((List.range g.bands.length).foldl (fun s i => s.noteFence gid i (BitVec.allOnes 32) sc) s).acquire gid g.die
  | none => s
/-- BAR (R286, R232): the bands' guards must agree. -/
def execBar (h : Hdr) (s : State) : Out :=
  groupOp s fun c g =>
    match g.agree (bandGuard h) with
    | none => s.haltGroup c.gid rIllegalOperand
    | some v => (if v then s.fenceGroup c.gid .gr else s).holdGroup c.gid (.bar v) c.next
/-- A thread released from BAR. -/
def Thread.leaveBar (t : Thread) : Thread :=
  match t.wait with
  | .bar _ => t.release
  | _ => t
/-- BAR_RELEASE (R286): the group is gathered and its fences, at group scope, are complete. -/
def execBarRelease (gid : Nat) (s : State) : Out :=
  .next (s.thaw gid <| s.modGroup gid fun g => { g with
    bands := g.bands.map fun b => { b with threads := b.threads.map Thread.leaveBar } })
/-- CBAR (R287): the group gathers, completes its fence and adds one arrival. -/
def execCbar (h : Hdr) (s : State) : Out :=
  groupOp s fun c g =>
    match g.agree (bandGuard h) with
    | none => s.haltGroup c.gid rIllegalOperand
    | some v =>
      ((if v then s.fenceGroup c.gid .cl else s).holdGroup c.gid (.cbar v true) c.next).modCluster g.cid fun k =>
        { k with arrivals := k.arrivals + 1 }
/-- A thread released from CBAR. -/
def Thread.leaveCbar (t : Thread) : Thread :=
  match t.wait with
  | .cbar _ _ => t.release
  | _ => t
/-- The groups of an admitted cluster that have not ended (R287, R289). -/
def State.clusterGroups (s : State) (cid : Nat) : List Nat :=
  (s.groups.filter fun p => p.2.cid == cid && p.2.place != .ended).map (·.1)
/-- Whether a group waits at a CBAR whose guard is true. -/
def Group.cbarOrdered (g : Group) : Bool := g.bands.any fun b => b.threads.any fun t =>
  t.live && match t.wait with
    | .cbar o _ => o
    | _ => false
/-- The acquires at cluster scope of a CBAR that is released (R287, R303): what happens before the CBAR of each group whose guard is true happens
before what all of them do next. -/
def State.cbarJoin (s : State) (gs : List Nat) : State :=
  let os := gs.filter fun gid => ((s.group? gid).map Group.cbarOrdered).getD false
  let names := (os.flatMap s.before).eraseDups
  os.foldl (fun s gid => s.acquireOf gid (((s.group? gid).map Group.die).getD 0) names) s
/-- CBAR_RELEASE (R287): when every group that has not ended has arrived, the generation rises and all are released. -/
def execCbarRelease (cid : Nat) (s : State) : Out :=
  .next (
    match tabGet s.clusters cid with
    | none => s
    | some k =>
      let gs := s.clusterGroups cid
      if k.arrivals == 0 || k.arrivals != gs.length || gs.any s.frozen then s
      else
        gs.foldl (fun s gid => s.modGroup gid fun g =>
            if g.arrived then { g with
              cbarCount := g.cbarCount + 1
              bands := g.bands.map fun b => { b with threads := b.threads.map Thread.leaveCbar } } else g)
          ((s.cbarJoin gs).modCluster cid fun k => { k with arrivals := 0, generation := k.generation + 1 }))

/-! ### Arrival counters (R290, R291, R295) -/

/-- ARRIVE (R295): once for the split; a release at cluster scope (R291). -/
def execArrive (h : Hdr) (rm : Bool) (a b c : Opd) (s : State) : Out :=
  splitOp s h [] fun e =>
    let i := (e.read32 a).toNat
    let n := e.read32 b
    let k := (e.read32 c).toNat
    if 7 < i || n == 0#32 || 65535 < n.toNat || (rm && 191 < k) then s.haltSplit e.c rIllegalOperand 0
    else
      match if rm then s.inCluster e.g.cid k else some (e.c.gid, e.g) with
      | none => s.haltSplit e.c rLimit (handleOf 0xFFFD ((k * 0x80000 : Nat) : Int))
      | some (gid, _) =>
        let (id, s) := ((s.freezeBand e.c.gid e.c.band e.c.active).passOn e.c.gid e.g.die .cl).fresh
        ({ s with arrivals := s.arrivals ++ [(⟨id, e.c.gid, e.c.band, e.c.active, gid, i, n⟩ : Arrival)] } : State).advanceSplit e.c
/-- An addition to an arrival counter (R290). -/
def Group.arriveAt (g : Group) (i : Nat) (n : Word) : Group := { g with arrive := tabSet g.arrive i (tabGetD g.arrive i 0 + n) }
/-- ARRIVE_APPLY (R290): an arrival adds to its counter, in the group's save image where it is swapped out; it waits for
a move to complete, and is discarded where the group has ended. -/
def execArriveApply (id : Nat) (s : State) : Out :=
  .next (
    match s.arrivals.find? fun a => a.id == id with
    | none => s
    | some a =>
      let drop (s : State) : State := { s with arrivals := s.arrivals.filter fun a => a.id != id }
      match s.group? a.gid with
      | none => drop s
      | some g =>
        if g.place == .ended then drop s
        else if g.moving then s
        else (drop s).modGroup a.gid fun g => g.arriveAt a.index a.n)
/-- Whether a counter has reached a target (R295). -/
def reached (counter target : Word) : Bool := (counter - target).toNat < 2 ^ 31
/-- AWAIT (R295). -/
def execAwait (h : Hdr) (a b : Opd) (s : State) : Out :=
  splitOp s h [] fun e =>
    let i := (e.read32 a).toNat
    let n := e.read32 b
    if 7 < i then s.haltSplit e.c rIllegalOperand 0
    else if reached (tabGetD e.g.arrive i 0) n then (s.acquire e.c.gid e.g.die).advanceSplit e.c
    else s.holdLanes e.c e.c.active (.await i n)
/-- AWAIT_RELEASE (R291, R295): an acquire at cluster scope. -/
def execAwaitRelease (gid band : Nat) (s : State) : Out :=
  .next (s.thaw gid <| (s.acquire gid (((s.group? gid).map Group.die).getD 0)).modGroup gid fun g => g.modBand band fun b => { b with
    threads := b.threads.map fun t =>
      match t.wait with
      | .await i n => if reached (tabGetD g.arrive i 0) n then t.release else t
      | _ => t })

/-! ### SREAD and SWRITE (R296, R297) -/

/-- SREAD (R296): instructions issue in order here, so every earlier flag is applied. -/
def execSread (h : Hdr) (ac : Bool) (d a : Opd) (s : State) : Out :=
  let wide : Bool :=
    match a with
    | .s .cyc => !ac
    | _ => false
  withRegs s [(d, width wide)] fun c g b =>
    let es := laneEnvs s c g b (guarded h c b)
    if ac && es.any fun e => 7 < (e.read32 a).toNat then s.haltSplit c rIllegalOperand 0
    else
      s.modBand c.gid c.band fun _ =>
        b.onLanes c.active fun i t =>
          let e : Env := ⟨s, c, g, b, t, i⟩
          if laneGuard h t then
            (t.put wide d (if ac then (tabGetD g.arrive (e.read32 a).toNat 0).setWidth 64 else e.read wide a)).advance c.next
          else t.advance c.next
/-- SWRITE (R297): S.FFLAGS by lane, or S.INLMAX, where the highest lane's value stands. -/
def execSwrite (h : Hdr) (d b : Opd) (s : State) : Out :=
  withRegs s [(b, 1)] fun c g bd =>
    let es := laneEnvs s c g bd (guarded h c bd)
    match d with
    | .s .inlmax =>
      if es.any fun e => 8 < (e.read32 b).toNat then s.haltSplit c rIllegalOperand 0
      else
        (match es.getLast? with
          | some e => s.modGroup c.gid fun g => { g with inlmax := e.read32 b }
          | none => s).advanceSplit c
    | _ =>
      s.modBand c.gid c.band fun _ =>
        bd.onLanes c.active fun i t =>
          if laneGuard h t then (t.writeFlags ((Env.mk s c g bd t i).read32 b)).advance c.next else t.advance c.next

end Sys2Proof.Machine
end

