-- ==== Sys2Proof/Machine/Matrix.lean ====
section
/-! DEFINITION. The matrix engine (R45 to R52, R205 to R212, R221 to R229): the commands, their checks and the twin rule at
issue, and the events that apply them to the tiles. -/

namespace Sys2Proof.Machine

/-! ### Tiles and the queue (R205, R210) -/

/-- A core with a tile changed. -/
def Core.modTile (k : Core) (t : Nat) (f : Tile → Tile) : Core := { k with tiles := tabSet k.tiles t (f (tabGetD k.tiles t .zero)) }
/-- A tile of a core. -/
def Core.tile (k : Core) (t : Nat) : Tile := tabGetD k.tiles t .zero
/-- The tiles a command names (R210). -/
def MKind.tiles : MKind → List Nat
  | .mma t _ _ _ _ _ _ | .mchb t _ | .mche t | .accz t | .accsc t _ | .acccvt t _ _ _ _ | .sta t _ _ => [t]
  | .guide d c u _ => [d, c, u]
/-- The tile a command writes, if it writes one (R179). -/
def MKind.writes : MKind → Option Nat
  | .mma t _ _ _ _ _ _ | .mchb t _ | .mche t | .accz t | .accsc t _ | .sta t _ _ => some t
  | .guide d _ _ _ => some d
  | .acccvt _ _ _ _ _ => none
/-- Whether a command is an MMA step. -/
def MKind.isStep : MKind → Bool
  | .mma _ _ _ _ _ _ _ => true
  | _ => false
/-- Whether a tile's chain is open in the order of the commands already issued (R223). -/
def State.openIssued (s : State) (core t : Nat) : Bool := ((s.core core).tile t).openIssued
/-- The tile an ACC operand names. -/
def accTile : Opd → Nat
  | .acc i => i.toNat
  | _ => 0
/-- The ACC write mask with a command's tile (R179, R184). -/
def Group.markAcc (g : Group) (k : MKind) : Group :=
  match k.writes with
  | some t => { g with accMask := g.accMask ||| BitVec.twoPow 16 t }
  | none => g
/-- The chain state that a command leaves for the commands after it (R223). -/
def MKind.chainAfter (k : MKind) (core : Core) : Core :=
  match k with
  | .mchb t _ => core.modTile t fun x => { x with openIssued := true }
  | .mche t => core.modTile t fun x => { x with openIssued := false }
  | _ => core
/-- A command enters a core's matrix command queue (R210). -/
def State.enqueue (s : State) (core : Nat) (cmd : MCmd) : State :=
  (s.modCore core fun k => { cmd.kind.chainAfter k with mq := k.mq ++ [cmd] }).modGroup cmd.gid fun g => g.markAcc cmd.kind
/-- The lanes that wait for engine room on a core retry (R209); frozen lanes do so when their context resumes (R324). -/
def State.wakeEngine (s : State) (core : Nat) : State :=
  { s with groups := s.groups.map fun p =>
      if p.2.core == core then
        (p.1, { p.2 with bands := p.2.bands.map fun b => { b with threads := b.threads.map fun t =>
          if t.wait == (Wait.queue QWait.engine) then (if s.frozen p.1 then { t with woken := true } else t.retry) else t } })
      else p }
/-- Room for a command and its joins (R205, R284). -/
def State.engineRoom (s : State) (core : Nat) (n : Nat) (js : List Join) : Bool :=
  (s.core core).mq.length + n ≤ 32 && s.joinRoom js
/-- The joins of a collective in every live thread of its band (R209). -/
def bandJoins (gid band : Nat) (b : Band) : List Join := joinsOf gid band b b.live
/-- A command of the issuing band: it waits for room, or enters the queue, joins the band's batches and the band goes on
(R209, R210, R30). What the band's loads have read before it stands, and what happens before it happens before the operation (R310). -/
def State.engineCmd (s : State) (e : Env) (k : MKind) : State :=
  let js := bandJoins e.c.gid e.c.band e.b
  if !s.engineRoom e.g.core 1 js then s.holdLanes e.c e.c.active (.queue .engine)
  else
    let (id, s) := ((s.freezeBand e.c.gid e.c.band e.c.active).passOn e.c.gid e.g.die .gr).fresh
    (((s.enqueue e.g.core ⟨id, e.g.ctx, e.c.gid, e.c.band, e.c.pc, k, js, none, []⟩).startJoins js).commandIssued e.c
      e.c.active).advanceSplit e.c

/-! ### Reading plane and scale tiles (R45, R211, R212) -/

/-- Bit planes of a format (R47). -/
def planesOf (ty : Ty) : Nat := ty.bits
/-- A 32-bit word of a group's allotment as scratchpad holds it (R305). -/
def State.scratchWord (s : State) (gid off : Nat) : Nat := natOfBytes ((List.range 4).map fun i => memGet s.mem (scratchKey gid (off + i)))
/-- A word of a command's operand (R221, R310): what the command has read of it already, or what it reads now. -/
def State.cmdWord (s : State) (cmd : MCmd) (off : Nat) : Nat := (tabGet cmd.got off).getD (s.scratchWord cmd.gid off)
/-- A byte of what a word reader gives. -/
def byteOfWord (rd : Nat → Nat) (off : Nat) : Nat := rd (off / 4 * 4) / 2 ^ (8 * (off % 4)) % 256
/-- The element code whose bits the words of the planes hold at column k. -/
def planeCode : List Nat → Nat → Nat
  | [], _ => 0
  | w :: ws, k => w / 2 ^ k % 2 + 2 * planeCode ws k
/-- The codes of a row of a plane tile (R211), by a word reader. -/
def planeRow (rd : Nat → Nat) (off : Nat) (ty : Ty) (r : Nat) : List Nat :=
  let ws := (List.range (planesOf ty)).map fun p => rd (off + 256 * p + 4 * r)
  (List.range 32).map (planeCode ws)
/-- The place of row r's entry in a scale tile (R212). -/
def scaleAt (r : Nat) : Nat := 2 * (r % 4 * 16 + r / 4)
/-- The scale and X of row r (R45, R212). -/
def scaleEntry (rd : Nat → Nat) (off r : Nat) : Nat × Nat :=
  (byteOfWord rd (off + scaleAt r), byteOfWord rd (off + scaleAt r + 1))
/-- Whether a scale tile raises a scale-layout halt (R45, R212). -/
def scaleBad (rd : Nat → Nat) (off plane : Nat) (ty : Ty) : Bool :=
  let w := rd (off + 0x80)
  w % 65536 != plane / 256 || w / 65536 % 256 != 64 || w / 16777216 != 1 ||
    (ty == .e2m1 && (List.range 64).any fun r => badX (scaleEntry rd off r).2)
/-- Whether an operand's scale tile is read: not that of a 16-bit operand (R221). -/
def takesScale (ty : Ty) (scl : Bool) : Bool := scl && ty != .f16 && ty != .bf16
/-- The rows of an operand as values (R45, R48). -/
def operandRows (rd : Nat → Nat) (off : Nat) (ty : Ty) (scale : Option Nat) : List (List FV) :=
  (List.range 64).map fun r =>
    let e := scale.map fun o => scaleEntry rd o r
    (planeRow rd off ty r).map fun c => elemVal ty c e

/-! ### One step (R48, R49) -/

/-- A step outside a chain (R48). -/
def stepPlain (acc : Tab Word) (as bs : List (List FV)) : Tab Word :=
  (mapIdx (fun i a => mapIdx (fun j b =>
    let k := 64 * i + j
    let v := FV.sum .rn (Fmt.fp32.read (tabGetD acc k 0).toNat :: a.zipWith FV.mul b)
    (k, BitVec.ofNat 32 (Fmt.fp32.result .rn false v).1)) bs 0) as 0).flatten
/-- A product truncated to the window's grid of least weight 2^l (R49). -/
def truncTo (l : Int) : FV → Int
  | .fin n m e =>
    let x : Int := if l ≤ e then (m * 2 ^ (e - l).toNat : Nat) else (m / 2 ^ (l - e).toNat : Nat)
    if n then -x else x
  | _ => 0
/-- The special bits of a product (R49): NaN 1, +∞ 2, −∞ 4. -/
def specOf : FV → Nat
  | .nan _ => 1
  | .inf false => 2
  | .inf true => 4
  | .fin _ _ _ => 0
/-- A step inside a chain (R49, R50). -/
def stepChain (c : Chain) (as bs : List (List FV)) : Chain :=
  let l := c.anchor - 160
  let es := (mapIdx (fun i a => mapIdx (fun j b =>
    let k := 64 * i + j
    let ps := a.zipWith FV.mul b
    (k, tabGetD c.sums k 0 + (ps.map (truncTo l)).sum, ps.foldl (fun m p => m ||| specOf p) (tabGetD c.spec k 0))) bs 0) as 0).flatten
  { c with sums := es.map (fun x => (x.1, x.2.1)), spec := es.map fun x => (x.1, x.2.2) }
/-- An element folded at MCHE (R50, R51), with the value it held at MCHB: its value, and whether the window was clamped. -/
def foldElem (c : Chain) (k : Nat) : Word × Bool :=
  let a := Fmt.fp32.read (tabGetD c.acc0 k 0).toNat
  let t := tabGetD c.sums k 0
  let hi : Int := 2 ^ 199 - 1
  let lo : Int := -(2 ^ 199)
  let w := if hi < t then hi else if t < lo then lo else t
  let sp := tabGetD c.spec k 0
  let specials := (if sp % 2 == 1 then [FV.nan false] else []) ++ (if sp / 2 % 2 == 1 then [FV.inf false] else []) ++
    if sp / 4 % 2 == 1 then [FV.inf true] else []
  let v := FV.sum .rn (a :: if specials.isEmpty then [.fin (w < 0) w.natAbs (c.anchor - 160)] else specials)
  (BitVec.ofNat 32 (Fmt.fp32.result .rn false v).1, t != w)

/-! ### Applying a command -/

/-- The engine's own fault (R323, R327): the line rises, and the engine's record keeps its reason and its PC, those of the first fault. The
command has not begun. -/
def State.engineFault (s : State) (core : Nat) (cmd : MCmd) (reason : Nat) : State :=
  let s := s.modCore core fun k => { k with mq := k.mq.map fun q => if q.id == cmd.id then { q with got := [] } else q }
  if (s.core core).mFault.isSome then s
  else
    let r := s.raiseFault cmd.ctx (engineRank core false) reason cmd.pc.val
    r.2.2.modCore core fun k => { k with mFault := some ⟨reason, 0, 0, 0, 0, r.1, r.2.1, false, some cmd.pc⟩ }
/-- Whether a command may be applied (R210, R50): no earlier command of the queue names one of its tiles, but for steps of one
open chain. -/
def cmdFree (core : Core) (cmd : MCmd) : Bool :=
  (core.mq.takeWhile fun q => q.id != cmd.id).all fun q =>
    (q.kind.tiles.all fun t => !cmd.kind.tiles.contains t) ||
      (q.kind.isStep && cmd.kind.isStep && cmd.kind.tiles.all fun t => (core.tile t).chain.isSome)
/-- Whether a command of a core is in progress (R324, R227): its turn has come, and it has read some of its operands. -/
def Core.inStep (k : Core) (cmd : MCmd) : Bool := !cmd.got.isEmpty && cmdFree k cmd
/-- The command of a queue that may start now; under a halt line only a step in progress goes on (R324). -/
def State.startable (s : State) (core id : Nat) : Option MCmd :=
  match (s.core core).mq.find? fun q => q.id == id with
  | none => none
  | some cmd => if (s.lineAt cmd.ctx core && cmd.got.isEmpty) || !cmdFree (s.core core) cmd then none else some cmd
/-- A command has completed: it leaves the queue, its batches count down, and lanes that wait for room retry. -/
def State.cmdDone (s : State) (core : Nat) (cmd : MCmd) : State :=
  ({ s with copies := s.copies.filter (fun (p : Copy) => some p.id != cmd.copy) : State }.modCore core fun k => { k with
      mq := k.mq.filter (fun q => q.id != cmd.id)
      lastPc := some cmd.pc
      lastTile := if cmd.kind.isStep then cmd.kind.tiles.head? else k.lastTile }).finishJoins cmd.joins |>.wakeEngine core
/-- Scratchpad keys of n bytes of a group's allotment. -/
def scratchKeys (gid off n : Nat) : List Key := (List.range n).map fun i => scratchKey gid (off + i)
/-- Whether some picked element of a core's tile holds an uncorrectable error (R189). -/
def State.accErr (s : State) (core tile : Nat) (pick : Nat → Bool) : Bool :=
  s.eccBad.any fun e => e % 8 == 5 && e / 8 / 2 ^ 64 == core && e / 8 % 2 ^ 64 / 16384 == tile && pick (e / 8 % 2 ^ 64 / 4 % 4096)
/-- Picked elements of a core's tile are written whole: an error they held is gone (R189). -/
def State.clearAcc (s : State) (core tile : Nat) (pick : Nat → Bool) : State :=
  if s.eccBad.isEmpty then s
  else { s with eccBad := s.eccBad.filter fun e =>
    !(e % 8 == 5 && e / 8 / 2 ^ 64 == core && e / 8 % 2 ^ 64 / 16384 == tile && pick (e / 8 % 2 ^ 64 / 4 % 4096)) }
/-- The lanes of its own band that a command joined. -/
def MCmd.lanes (cmd : MCmd) : Word :=
  cmd.joins.foldl (fun m j => if j.gid == cmd.gid && j.band == cmd.band then m ||| BitVec.twoPow 32 j.lane else m) 0#32
/-- A command met an uncorrectable error in what it read for its group (R191), in memory of a kind: it never completes, and the copy that it
follows, if it does, is gone with it. -/
def State.engineErr (s : State) (core : Nat) (cmd : MCmd) (kind : Nat) (h : W64) : State :=
  ((({ s.countErr (dieOf core) kind true with copies := s.copies.filter fun (p : Copy) => some p.id != cmd.copy } : State).modCore core
    fun k => { k with mq := k.mq.filter (fun q => q.id != cmd.id) }).memErr cmd.gid cmd.band cmd.lanes ((lanesOf cmd.lanes).headD 0) cmd.pc h 0 0).wakeEngine core
/-- A whole-tile command reads its tile, and writes a tile: an error in what it reads ends it, and what it writes is clean (R189, R191). -/
def State.tileCmd (s : State) (core : Nat) (cmd : MCmd) (reads : List Nat) (writes : List Nat) (k : State → State) : State :=
  if reads.any fun t => s.accErr core t fun _ => true then s.engineErr core cmd 2 0
  else k (writes.foldl (fun s t => s.clearAcc core t fun _ => true) s)
/-- The scratchpad words that a command reads (R221, R224): its plane and scale tiles, or the values of an ACCSC. -/
def MKind.reads : MKind → List Nat
  | .mma _ a b fa fb scl sw =>
    let tile (o : Nat) (ty : Ty) : List Nat := (List.range (64 * planesOf ty)).map fun i => o + 4 * i
    let scale (o : Nat) (ty : Ty) : List Nat := if takesScale ty scl then (List.range 33).map fun i => o + 4 * i else []
    tile a fa ++ tile b fb ++ scale ((sw.extractLsb' 0 16).toNat * 256) fa ++ scale ((sw.extractLsb' 16 16).toNat * 256) fb
  | .accsc _ off => (List.range 64).map fun i => off + 4 * i
  | _ => []
/-- Keys of the scratchpad words that a command reads. -/
def MCmd.keys (cmd : MCmd) : List Key := (cmd.kind.reads).flatMap fun o => scratchKeys cmd.gid o 4
/-- A command reads one of its operands' words ahead of the rest (R221, R310). -/
def State.readWord (s : State) (core : Nat) (cmd : MCmd) (off : Nat) : State :=
  if !(cmd.kind.reads).contains off || (tabGet cmd.got off).isSome || s.ecc (scratchKeys cmd.gid off 4) then s
  else s.modCore core fun k => { k with mq := k.mq.map fun q =>
    if q.id == cmd.id then { q with got := tabSet q.got off (s.scratchWord cmd.gid off) } else q }
/-- The command of a queue whose operands may be read (R310): from its issue on, and under a halt line only for a step in progress. -/
def State.readable (s : State) (core id : Nat) : Option MCmd :=
  ((s.core core).mq.find? fun q => q.id == id).bind fun cmd =>
    if s.lineAt cmd.ctx core && !(s.core core).inStep cmd then none else some cmd
/-- The command that a move of the engine is for, where it may make the move. -/
def State.stepCmd (s : State) (core : Nat) : CmdStep → Option MCmd
  | .read id _ => s.readable core id
  | .apply id => s.startable core id
/-- MMA_STEP (R48 to R50, R212, R221): one word of the step's operands read, or the K32 step itself. -/
def execMmaStep (core : Nat) (how : CmdStep) (s : State) : Out :=
  .next (
    match how, s.stepCmd core how with
    | .read _ off, some cmd => s.readWord core cmd off
    | .apply _, some cmd =>
      match cmd.kind with
      | .mma t a b fa fb scl sw =>
        let sa := (sw.extractLsb' 0 16).toNat * 256
        let sb := (sw.extractLsb' 16 16).toNat * 256
        let rd := s.cmdWord cmd
        if s.ecc cmd.keys then s.engineErr core cmd 1 (handleOf 0xFFFE a)
        else if (takesScale fa scl && scaleBad rd sa a fa) || (takesScale fb scl && scaleBad rd sb b fb) then
          s.engineFault core cmd rScaleLayout
        else
          let as := operandRows rd a fa (if takesScale fa scl then some sa else none)
          let bs := operandRows rd b fb (if takesScale fb scl then some sb else none)
          s.tileCmd core cmd (if ((s.core core).tile t).chain.isSome then [] else [t]) [] fun s =>
            (s.modCore core fun k => k.modTile t fun x =>
              match x.chain with
              | some c => { x with chain := some (stepChain c as bs) }
              | none => { x with acc := stepPlain x.acc as bs }).cmdDone core cmd
      | _ => s
    | _, none => s)
/-- MCHB_APPLY (R49, R223). -/
def execMchbApply (core id : Nat) (s : State) : Out :=
  .next (
    match s.startable core id with
    | none => s
    | some cmd =>
      match cmd.kind with
      | .mchb t a => (s.modCore core fun k => k.modTile t fun x => { x with chain := some ⟨a, x.acc, [], []⟩ }).cmdDone core cmd
      | _ => s)
/-- MCHE_APPLY (R50, R51, R223). -/
def execMcheApply (core id : Nat) (s : State) : Out :=
  .next (
    match s.startable core id with
    | none => s
    | some cmd =>
      match cmd.kind with
      | .mche t =>
        s.tileCmd core cmd [t] [] fun s => (s.modCore core fun k => k.modTile t fun x =>
          match x.chain with
          | none => x
          | some c =>
            let es := (List.range 4096).map fun k => (k, foldElem c k)
            { x with acc := es.map (fun e => (e.1, e.2.1)), ovf := x.ovf || es.any (fun e => e.2.2), chain := none }).cmdDone core cmd
      | _ => s)
/-- ACCZ_APPLY (R224). -/
def execAcczApply (core id : Nat) (s : State) : Out :=
  .next (
    match s.startable core id with
    | none => s
    | some cmd =>
      match cmd.kind with
      | .accz t => s.tileCmd core cmd [] [t] fun s => (s.modCore core fun k => k.modTile t fun x => { x with acc := [], ovf := false }).cmdDone core cmd
      | _ => s)
/-- ACCSC_APPLY (R224): one word of its values read, or the whole tile scaled. -/
def execAccscApply (core : Nat) (how : CmdStep) (s : State) : Out :=
  .next (
    match how, s.stepCmd core how with
    | .read _ off, some cmd => s.readWord core cmd off
    | .apply _, some cmd =>
      match cmd.kind with
      | .accsc t off =>
        if s.ecc cmd.keys then s.engineErr core cmd 1 (handleOf 0xFFFE off)
        else
          s.tileCmd core cmd [t] [] fun s => (s.modCore core fun k => k.modTile t fun x => { x with acc := (List.range 4096).map fun e =>
            let m := FV.mul (Fmt.fp32.read (tabGetD x.acc e 0).toNat) (Fmt.fp32.read (s.cmdWord cmd (off + 4 * (e / 64))))
            (e, BitVec.ofNat 32 (Fmt.fp32.result .rn false m).1) }).cmdDone core cmd
      | _ => s
    | _, none => s)
/-- The least e from a start on, within k tries, with m · 2^q ≤ M · 2^e. -/
def leastExp (m : Nat) (q : Int) (top : Nat) : Nat → Int → Int
  | 0, e => e
  | k + 1, e => if magGt m q top e then leastExp m q top k (e + 1) else e
/-- The scale exponent of a block under SCL (R225). -/
def blockExp (top : Nat) (vs : List FV) : Int :=
  let big := vs.foldl (fun (a : Nat × Int) v =>
    match v with
    | .fin _ m e => if magGt m e a.1 a.2 then (m, e) else a
    | _ => a) (0, 0)
  if big.1 == 0 then 0
  else
    let e := leastExp big.1 big.2 top 8 (big.2 + (Nat.log2 big.1 : Int) - (Nat.log2 top : Int) - 2)
    if e < -127 then -127 else if 127 < e then 127 else e
/-- The largest finite magnitude that ACCCVT scales to (R225). -/
def cvtTop : Ty → Nat
  | .e2m1 => 6
  | .e4m3 => 448
  | .e5m2 => 57344
  | _ => 127
/-- An element converted at ACCCVT (R44, R225). -/
def cvtElem (ty : Ty) (e : Int) (v : FV) : Nat :=
  let v' : FV :=
    match v with
    | .fin n m q => .fin n m (q - e)
    | x => x
  if ty == .i8 then (FV.toInt .rn true 8 v').1 else ((fmtOf ty).narrow .rn false false v').1
/-- The word of a plane at a row, from the codes of the row. -/
def planeWordOf (codes : List Nat) (p : Nat) : Nat := (mapIdx (fun k c => c / 2 ^ p % 2 * 2 ^ k) codes 0).sum
/-- The bytes of a plane tile at an offset, from its rows of codes (R211). -/
def planeTile (gid off planes : Nat) (rows : List (List Nat)) : List (Key × Byte) :=
  (List.range planes).flatMap fun p => (mapIdx (fun r cs =>
    mapIdx (fun i b => (scratchKey gid (off + 256 * p + 4 * r + i), b)) (bytesOfNat 4 (planeWordOf cs p)) 0) rows 0).flatten
/-- The first 132 bytes of a scale tile (R212): its entries and its binding word. -/
def scaleTile (gid off plane : Nat) (es : List Int) : List (Key × Byte) :=
  (mapIdx (fun r e => [(scratchKey gid (off + scaleAt r), BitVec.ofNat 8 (e + 127).toNat),
    (scratchKey gid (off + scaleAt r + 1), 0#8)]) es 0).flatten
    ++ mapIdx (fun i b => (scratchKey gid (off + 0x80 + i), b)) (bytesOfNat 4 (plane / 256 + 64 * 65536 + 16777216)) 0
/-- ACCCVT_APPLY (R225). The bytes of a scale tile that nothing reads (R212) are free values (log entry 5). -/
def execAcccvtApply (core id : Nat) (s : State) : Out :=
  .next (
    match s.startable core id with
    | none => s
    | some cmd =>
      match cmd.kind with
      | .acccvt t ty scl out sout =>
        let x := (s.core core).tile t
        let half (s : State) (h : Nat) : State :=
          let rows := (List.range 64).map fun i => (List.range 32).map fun k =>
            Fmt.fp32.read (tabGetD x.acc (64 * i + 32 * h + k) 0).toNat
          let es := rows.map fun r => if scl then blockExp (cvtTop ty) r else 0
          let codes := rows.zipWith (fun r e => r.map (cvtElem ty e)) es
          let plane := out + h * planesOf ty * 256
          let s := s.putBytes (planeTile cmd.gid plane (planesOf ty) codes)
          if scl then
            let so := sout + 256 * h
            let (bs, s) := s.freeBytes 124
            s.putBytes (scaleTile cmd.gid so plane es ++ mapIdx (fun i b => (scratchKey cmd.gid (so + 0x84 + i), b)) bs 0)
          else s
        s.tileCmd core cmd [t] [] fun s => (half (half s 0) 1).cmdDone core cmd
      | _ => s)
/-- STA_APPLY (R226). -/
def execStaApply (core id : Nat) (s : State) : Out :=
  .next (
    match s.startable core id with
    | none => s
    | some cmd =>
      match cmd.kind with
      | .sta t row vals =>
        ((s.clearAcc core t fun e => vals.any fun v => e / 2 == 32 * row + v.1).modCore core fun k => k.modTile t fun x => { x with
          acc := vals.foldl (fun a v =>
          tabSet (tabSet a (64 * row + 2 * v.1) v.2.1) (64 * row + 2 * v.1 + 1) v.2.2) x.acc }).cmdDone core cmd
      | _ => s)
/-- The guidance formula (R52). -/
def guideElem (w c u : FV) : Word :=
  let d := FV.sum .rn [c, u.negate]
  BitVec.ofNat 32 (Fmt.fp32.result .rn false (FV.sum .rn [u, w.mul d])).1
/-- GUIDE_APPLY (R52, R228). -/
def execGuideApply (core id : Nat) (s : State) : Out :=
  .next (
    match s.startable core id with
    | none => s
    | some cmd =>
      match cmd.kind with
      | .guide d c u w =>
        let k := s.core core
        let el (t e : Nat) : FV := Fmt.fp32.read (tabGetD (k.tile t).acc e 0).toNat
        let r := (List.range 4096).map fun e => (e, guideElem (Fmt.fp32.read w.toNat) (el c e) (el u e))
        s.tileCmd core cmd [c, u] [d] fun s => (s.modCore core fun k => k.modTile d fun x => { x with acc := r }).cmdDone core cmd
      | _ => s)

/-! ### Issuing (R221 to R229) -/

/-- Whether n bytes at a scratchpad offset lie in a group's allotment. -/
def Group.inScratch (g : Group) (off n : Nat) : Bool := off + n ≤ g.scratchLimit
/-- The checks of MMA at issue (R221). The guided example without `.twin` fails here, at its first MMA, where R371 names its first GUIDE (log
entry 96). -/
def mmaBad (g : Group) (a b : Nat) (fa fb : Ty) (scl : Bool) (sw : Word) : Bool :=
  a % 256 != 0 || b % 256 != 0 || !g.inScratch a (planesOf fa * 256) || !g.inScratch b (planesOf fb * 256) ||
    (!scl && (fa == .e2m1 || fb == .e2m1)) ||
    (takesScale fa scl && !g.inScratch ((sw.extractLsb' 0 16).toNat * 256) 256) ||
    (takesScale fb scl && !g.inScratch ((sw.extractLsb' 16 16).toNat * 256) 256)
/-- What the twin rule says of a band at a shareable MMA (R222). -/
inductive TwinSays where
  | go | share | wait
  deriving DecidableEq, Repr
/-- The twin rule (R222): a band at a shareable MMA with a PC. -/
def State.twinRule (s : State) (gid band : Nat) (pc : PC) : TwinSays :=
  match s.group? gid, s.band? gid band, s.band? gid (twinBand band) with
  | some g, some b, some w =>
    if s.twinOf g band == 0 || !b.paired || !w.paired || w.live == 0#32 then .go
    else
      let ahead := (w.mmaCount - b.mmaCount).toNat
      if ahead != 0 && ahead < 2 ^ 31 then .go
      else
        let ts := w.threads.filter (·.here)
        if ts.all fun t => t.wait == .twin then
          if (ts.all fun t => t.pc == pc) && ahead == 0 then .share else .go
        else if ts.any fun t => t.wait == .none && t.nap == 0 && !t.stopped then .wait
        else .go
  | _, _, _ => .go
/-- An MMA leaves for the queue (R221): its band's count rises, and the band's lanes go on. -/
def State.enterMma (s : State) (e : Env) (k : MKind) : State :=
  let js := bandJoins e.c.gid e.c.band e.b
  let (id, s) := ((s.freezeBand e.c.gid e.c.band e.c.active).passOn e.c.gid e.g.die .gr).fresh
  (((s.enqueue e.g.core ⟨id, e.g.ctx, e.c.gid, e.c.band, e.c.pc, k, js, none, []⟩).startJoins js).commandIssued e.c e.c.active).modBand
    e.c.gid e.c.band fun b => { (b.onLanes b.live fun _ t => t.advance e.c.next) with mmaCount := b.mmaCount + 1 }
/-- MMA (R221, R222). -/
def execMma (h : Hdr) (ty ty2 : Ty) (scl : Bool) (d a b c : Opd) (s : State) : Out :=
  collOp s h [] fun e =>
    let kindOf (e : Env) : MKind :=
      .mma (accTile d) (e.read32 a).toNat (e.read32 b).toNat ty ty2 scl (if scl then e.read32 c else 0)
    if mmaBad e.g (e.read32 a).toNat (e.read32 b).toNat ty ty2 scl (e.read32 c) then s.haltSplit e.c rIllegalOperand 0
    else
      let js := bandJoins e.c.gid e.c.band e.b
      match if h.hy == .s then .go else s.twinRule e.c.gid e.c.band e.c.pc with
      | .wait => s.holdLanes e.c e.c.active .twin
      | .go =>
        if s.engineRoom e.g.core 1 js then s.enterMma e (kindOf e) else s.holdLanes e.c e.c.active (.queue .engine)
      | .share =>
        match s.band? e.c.gid (twinBand e.c.band) with
        | none => s
        | some w =>
          let e2 := bandEnv s { e.c with band := twinBand e.c.band, active := w.live } e.g w
          if !s.engineRoom e.g.core 2 (js ++ bandJoins e.c.gid (twinBand e.c.band) w) then
            s.holdLanes e.c e.c.active (.queue .engine)
          else if e.c.band % 2 == 0 then (s.enterMma e (kindOf e)).enterMma e2 (kindOf e2)
          else (s.enterMma e2 (kindOf e2)).enterMma e (kindOf e)
/-- TWIN_WAIT_RESOLVE (R222): a twin wait is evaluated again; when it need not wait longer the band issues its MMA anew. -/
def execTwinWaitResolve (gid band : Nat) (s : State) : Out :=
  .next (
    match s.thawedBand? gid band with
    | none => s
    | some b =>
      match b.threads.find? fun t => t.here && t.wait == .twin with
      | none => s
      | some t => if s.twinRule gid band t.pc == .wait then s else s.wakeRetry gid band (· == .twin))
/-- MCHB (R223): the anchor is read as I32. -/
def execMchb (h : Hdr) (d a : Opd) (s : State) : Out :=
  collOp s h [] fun e =>
    let x := (e.read32 a).toInt
    if x < -1024 || 1023 < x then s.haltSplit e.c rIllegalOperand (BitVec.ofInt 64 x)
    else if s.openIssued e.g.core (accTile d) then s.haltSplit e.c rIllegalOperand 0
    else s.engineCmd e (.mchb (accTile d) x)
/-- MCHE (R223). -/
def execMche (h : Hdr) (d : Opd) (s : State) : Out :=
  collOp s h [] fun e =>
    if s.openIssued e.g.core (accTile d) then s.engineCmd e (.mche (accTile d)) else s.haltSplit e.c rIllegalOperand 0
/-- ACCZ (R224). -/
def execAccz (h : Hdr) (d : Opd) (s : State) : Out :=
  collOp s h [] fun e =>
    if s.openIssued e.g.core (accTile d) then s.haltSplit e.c rIllegalOperand 0 else s.engineCmd e (.accz (accTile d))
/-- ACCSC (R224). -/
def execAccsc (h : Hdr) (d a : Opd) (s : State) : Out :=
  collOp s h [] fun e =>
    let o := (e.read32 a).toNat
    if s.openIssued e.g.core (accTile d) || o % 4 != 0 || !e.g.inScratch o 256 then s.haltSplit e.c rIllegalOperand 0
    else s.engineCmd e (.accsc (accTile d) o)
/-- ACCCVT (R225). -/
def execAcccvt (h : Hdr) (ty : Ty) (scl : Bool) (a b c : Opd) (s : State) : Out :=
  collOp s h [] fun e =>
    let o := (e.read32 b).toNat
    let so := (e.read32 c).toNat
    if s.openIssued e.g.core (accTile a) || o % 256 != 0 || !e.g.inScratch o (2 * planesOf ty * 256) ||
        (scl && (so % 256 != 0 || !e.g.inScratch so 512)) then
      s.haltSplit e.c rIllegalOperand 0
    else s.engineCmd e (.acccvt (accTile a) ty scl o (if scl then so else 0))
/-- LDA (R210, R226): it waits until every queued command naming its tile has completed, and then reads. It starts no engine operation (R209),
and is not taken for an engine command that empties the threads' spin records (R30; DESIGN CHOICE, log entry 94). -/
def execLda (h : Hdr) (d a b : Opd) (s : State) : Out :=
  collOp s h [(d, 2)] fun e =>
    let r := (e.read32 b).toNat
    let k := s.core e.g.core
    if 63 < r then s.haltSplit e.c rIllegalOperand (BitVec.ofNat 64 r)
    else if s.openIssued e.g.core (accTile a) then s.haltSplit e.c rIllegalOperand 0
    else if k.mq.any fun q => q.kind.tiles.contains (accTile a) then s.holdLanes e.c e.c.active (.queue .engine)
    else if s.accErr e.g.core (accTile a) fun x => x / 64 == r then
      let s := (s.countErr e.g.die 2 true).memErrSplit e.c ((lanesOf e.c.active).headD 0) 0 0
      if s.gone e.c.gid then s.advanceSplit e.c else s
    else
      let x := k.tile (accTile a)
      s.modBand e.c.gid e.c.band fun bd => bd.onLanes e.c.active fun i t =>
        (t.put64 d (tabGetD x.acc (64 * r + 2 * i + 1) 0 ++ tabGetD x.acc (64 * r + 2 * i) 0)).advance e.c.next
/-- STA (R226): the lanes' pairs are read at issue. -/
def execSta (h : Hdr) (d a b : Opd) (s : State) : Out :=
  collOp s h [(a, 2)] fun e =>
    let r := (e.read32 b).toNat
    if 63 < r then s.haltSplit e.c rIllegalOperand (BitVec.ofNat 64 r)
    else if s.openIssued e.g.core (accTile d) then s.haltSplit e.c rIllegalOperand 0
    else
      s.engineCmd e (.sta (accTile d) r (e.actives.map fun x =>
        (x.lane, (x.read true a).extractLsb' 0 32, (x.read true a).extractLsb' 32 32)))
/-- A band of a pair that has met in GUIDE goes on, and its GUIDE count rises (R205, R228). -/
def Band.leaveGuide (b : Band) (next : PC) : Band :=
  { (b.onLanes b.live fun _ t => t.advance next) with guide := none, guideCount := b.guideCount + 1 }
/-- GUIDE (R228): it waits for its twin's; the pair executes once, at the place of the later. -/
def execGuide (h : Hdr) (d a b : Opd) (s : State) : Out :=
  collOp s h [] fun e =>
    let tw := twinBand e.c.band
    let w := BitVec.ofNat 32 (e.fread .fp32 false b)
    let open_ (t : Nat) : Bool := s.openIssued e.g.core t
    if s.twinOf e.g e.c.band == 0 then s.haltSplit e.c rIllegalOperand 0
    else if open_ (accTile d) || open_ (accTile a) then s.haltSplit e.c rIllegalOperand 0
    else
      match s.band? e.c.gid tw with
      | none => s.haltSplit e.c rTwin 0
      | some o =>
        if o.live == 0#32 then s.haltSplit e.c rTwin 0
        else
          match o.guide with
          | none =>
            (s.holdLanes e.c e.c.active .guide).modBand e.c.gid e.c.band fun b =>
              { b with guide := some ⟨accTile d, accTile a, w, e.c.pc, b.guideCount⟩ }
          | some p =>
            if p.d != accTile d || p.w != w then
              let own (s : State) : State := s.haltSplit e.c rIllegalOperand 0
              let other (s : State) : State := s.haltBand e.c.gid tw rIllegalOperand o.live 0
              -- the primary is the band that ranks first (R323)
              if e.b.slice * 16 + e.b.seat < o.slice * 16 + o.seat then other (own s) else own (other s)
            else if open_ p.a then s.haltSplit e.c rIllegalOperand 0
            else
              let js := bandJoins e.c.gid e.c.band e.b ++ bandJoins e.c.gid tw o
              if !s.engineRoom e.g.core 1 js then s.holdLanes e.c e.c.active (.queue .engine)
              else
                let (c, u) := if e.c.band % 2 == 0 then (accTile a, p.a) else (p.a, accTile a)
                let onext := ((o.threads.find? (·.here)).map (·.next)).getD e.c.next
                let (id, s) := (((s.freezeBand e.c.gid e.c.band e.b.live).freezeBand e.c.gid tw o.live).passOn e.c.gid e.g.die .gr).fresh
                let s := ((s.enqueue e.g.core ⟨id, e.g.ctx, e.c.gid, e.c.band, e.c.pc, .guide (accTile d) c u w, js, none, []⟩).startJoins
                  js).commandIssued e.c e.c.active
                ((s.commandIssued { e.c with band := tw } o.live).modBand e.c.gid e.c.band fun b => b.leaveGuide e.c.next).modBand e.c.gid tw
                  fun b => b.leaveGuide onext
/-- PAIRX (R229). -/
def execPairx (h : Hdr) (rj : Bool) (s : State) : Out :=
  splitOp s h [] fun e =>
    (if s.twinOf e.g e.c.band == 0 then s
      else s.modBand e.c.gid e.c.band fun b => { b with paired := rj }).advanceSplit e.c

end Sys2Proof.Machine
end

