-- ==== Sys2Proof/Machine/Copy.lean ====
section
/-! DEFINITION. The copy engine (R205 to R220): COPYL, COPYT and COPYG, the landing of their pieces, copy faults, and the
answer to a demand page. -/

namespace Sys2Proof.Machine

/-! ### Ends of a copy (R208, R214, R218) -/

/-- Bytes of a band's private region by region offset (R208). A growth trap names the thread offset of the last byte, which is what grows
(R186). -/
def State.regionRes (s : State) (gid band : Nat) (off : Int) (n : Nat) : Res :=
  match s.group? gid, s.band? gid band with
  | some g, some b =>
    let limit := 32 * (((s.ctx? g.ctx).map (·.privMax)).getD 0 * 65536)
    if off < 0 || (limit : Int) < off + n then .halt 3 rLimit
    else if b.hwm ≤ 4 * ((off.toNat + n - 1) / 128) then .growth (handleOf 0xFFFC (4 * ((off.toNat + n - 1) / 128) : Nat))
    else .ok .single ((List.range n).map fun i => regionKey gid band (off.toNat + i))
  | _, _ => .halt 1 rNull
/-- The group whose allotment an end lies in, at issue (R183, R184). -/
def State.endGroup? (s : State) (gid : Nat) (sel : BitVec 16) (off : Int) : Option Nat :=
  if sel == 0xFFFE#16 then some gid
  else if sel == 0xFFFD#16 && 0 ≤ off then
    (s.group? gid).bind fun g => (s.inCluster g.cid (off.toNat / 0x80000)).map (·.1)
  else none
/-- An end of a copy issued by a band. -/
def State.mkEnd (s : State) (gid : Nat) (lane : Option Nat) (sel : BitVec 16) (off : Int) : CEnd :=
  ⟨sel, off, lane, s.endGroup? gid sel off⟩
/-- What an end of n bytes comes to at issue (R208, R218). A group that is being moved is no hindrance: the bytes wait when
they land (R220). -/
def State.endAtIssue (s : State) (gid band : Nat) (e : CEnd) (n : Nat) (nd : Need) : Res :=
  if e.sel == 0xFFFD#16 then
    match e.gid.bind s.group? with
    | some g => scratchRes (e.gid.getD 0) g.scratch (e.off % 0x80000) n
    | none => .halt 3 rLimit
  else if e.sel == 0xFFFC#16 && e.lane.isNone then s.regionRes gid band e.off n
  else s.resolve gid band (e.lane.getD 0) e.sel e.off n nd
/-- The handle of an end. -/
def CEnd.handle (e : CEnd) : W64 := handleOf e.sel e.off
/-- An end's access at issue. -/
def State.endAccess (s : State) (gid band : Nat) (e : CEnd) (n : Nat) (nd : Need) : Access :=
  ⟨e.lane.getD 0, e.handle, s.endAtIssue gid band e n nd⟩
/-- What an end comes to when its bytes move (R220): bytes of a group's allotment wherever the group is, unless it is on
the move; other memory as R190 has it now. -/
def State.endNow (s : State) (cp : Copy) (e : CEnd) (n : Nat) (nd : Need) : Res :=
  match e.gid with
  | some gid =>
    if ((s.group? gid).map (·.moving)).getD false then .wait
    else .ok .scratch ((List.range n).map fun i => scratchKey gid ((e.off % 0x80000).toNat + i))
  | none =>
    if e.sel == 0xFFFC#16 && e.lane.isNone then s.regionRes cp.gid cp.band e.off n
    else s.resolve cp.gid cp.band (e.lane.getD 0) e.sel e.off n nd

/-! ### Copy faults (R219) -/

/-- A copy fails (R219): what has landed stays; the issuing group is terminated under a COPYERR report, or under the
escalation bit the context halts by the copy engine's own fault. The report carries the direction (0 read, 1 write),
the lane of a COPYL (32 for a tile) and the descriptor snapshot beside R259's fields; its class-specific word is a free value (log
entry 5). -/
def State.failCopy (s : State) (cp : Copy) (e : CEnd) (dir : Nat) : State :=
  let s := { s with copies := s.copies.filter fun (q : Copy) => q.id != cp.id }
  let x := s.ctx? cp.ctx
  (if (x.map (·.escalate)).getD false then
    if (s.core cp.core).cFault.isSome then s
    else
      let r := s.raiseFault cp.ctx (engineRank cp.core true) rCopyerr cp.pc.val
      r.2.2.modCore cp.core fun k => { k with cFault := some ⟨rCopyerr, 0, 0, 0, 0, r.1, r.2.1, false, some cp.pc⟩ }
  else
    let (w, s) := s.freeWord
    ((s.postWith cp.ctx clCopyerr cp.gid cp.band cp.pc.val e.handle (w.extractLsb' 0 32) false
      ([dir, e.lane.getD 32] ++ cp.desc.map BitVec.toNat)).2.2).terminate cp.gid).wakeEngine cp.core
/-- The first end of an unlanded piece of a copy whose page is one of a segment, with its direction. -/
def State.waitingEnd (s : State) (cp : Copy) (sel : BitVec 16) (page : Nat) : Option (CEnd × Nat) :=
  let hit (e : CEnd) (n : Nat) (nd : Need) : Bool :=
    match s.endNow cp e n nd with
    | .page h => let q := s.pageOf cp.ctx h; q.1 == sel && (q.2 == page || q.2 + 1 == page)
    | _ => false
  (cp.pieces.filter fun p => !p.landed).findSome? fun p =>
    match p.src.find? fun e => hit e p.n .copyFrom with
    | some e => some (e, 0)
    | none =>
      if hit p.dst (if p.planes.isSome then 1 else p.n) .copyTo then some (p.dst, 1) else none
/-- A demand page is answered (R219, R353, R361) for the lanes and the copies that wait for it. -/
def State.answerPage (s : State) (ctx : Nat) (sel : BitVec 16) (page : Nat) (grant : Bool) : State :=
  let s := s.servePage ctx sel page grant
  if s.absent.contains (pageKey ctx sel page) then
    (s.copies.filter fun cp => cp.ctx == ctx).foldl (fun s cp =>
      match s.waitingEnd cp sel page with
      | some (e, dir) => s.failCopy cp e dir
      | none => s) s
  else s
/-- Whether a page was asked of the owner of PAGE, whose reply is still awaited (R354): the request is finished in the mode in which it
was posted. -/
def State.pageAsked (s : State) (ctx : Nat) (sel : BitVec 16) (page : Nat) : Bool :=
  s.claims.any fun c => c.cls == clPage && c.ctx == ctx && c.reply && !c.answered && s.waitsPage ctx sel page (.page c.arg false)
/-- DEMAND_PAGE_SERVICE (R353): the service pair answers for a page; for a page asked in host-assisted mode the answer is the
owner's REPLY. -/
def execDemandPageService (ctx sel page : Nat) (grant : Bool) (s : State) : Out :=
  .next (if s.pageAsked ctx (BitVec.ofNat 16 sel) page || !s.ensignRuns then s else s.answerPage ctx (BitVec.ofNat 16 sel) page grant)

/-! ### Starting a copy (R205, R209, R218) -/

/-- The 64-byte lines a piece of COPYL moves between (R217). -/
def lineOf (e : CEnd) : Nat × Nat :=
  (e.sel.toNat, if e.sel == 0xFFFC#16 then (128 * (e.off.toNat / 4) + 4 * e.lane.getD 0) / 64 else e.off.toNat / 64)
/-- Line operations of some pieces of COPYL (R217): lanes with the same two lines share one. -/
def lineOps (ps : List Piece) : Nat :=
  ((ps.filter fun p => !p.landed).map fun p => (p.src.map lineOf, lineOf p.dst)).eraseDups.length
/-- Bytes that a piece lands. -/
def Piece.landBytes (p : Piece) : Nat :=
  match p.planes with
  | some ty => 256 * planesOf ty
  | none => p.n
/-- Line operations of a part of a row, an element or a tile: one for each 64-byte line it lands in (log entry 86). -/
def Piece.lines (p : Piece) : Nat := (p.dst.off.toNat + p.landBytes - 1) / 64 - p.dst.off.toNat / 64 + 1
/-- Line operations that a copy has started and not landed (R205, R327): those of a COPYL's lanes, and those of the pieces of a tiled copy
(log entry 86). -/
def Copy.linesUp (cp : Copy) : Nat :=
  let ps := cp.pieces.filter (·.started)
  if cp.tiled then ((ps.filter fun p => !p.landed).map Piece.lines).sum else lineOps ps
/-- Line operations that a core's copy engine has in flight or has taken on (R205, R209): every one of a COPYL from its issue on, and those
that tiled copies have started. Copies that have gone into a save image keep no others than these. -/
def State.linesOf (s : State) (core : Nat) : Nat :=
  ((s.copies.filter fun cp => cp.core == core).map fun cp => if cp.tiled || cp.away then cp.linesUp else lineOps cp.pieces).sum
/-- Whether a core's copy engine has room for a copy (R205, R209): 64 tile and gather operations, of which those that have gone into a
save image are not the core's, and 256 line operations. -/
def State.copyRoom (s : State) (core : Nat) (tiled : Bool) (ps : List Piece) : Bool :=
  if tiled then (s.copies.filter fun cp => cp.core == core && cp.tiled && !cp.away).length < 64
  else s.linesOf core + lineOps ps ≤ 256
/-- What an instruction asks of the copy engine. -/
structure CopyPlan where
  tiled : Bool
  desc : List Byte
  pieces : List Piece
  arrv : Option (Nat × List Nat)
  follow : Option MKind
/-- Whether an access does not stop a copy at issue: a page that is not resident parks nobody (R218). -/
def Access.isPage (a : Access) : Bool :=
  match a.res with
  | .page _ => true
  | _ => false
/-- Pages that a new copy finds not resident are asked for (R218); with no owner in host-assisted mode the request is
refused (R258) and the copy fails. -/
def State.askPages (s : State) (cp : Copy) (as : List Access) : State :=
  if s.mode.getLsbD 3 then s
  else
    ((as.filter Access.isPage).map fun a => s.pageOf cp.ctx a.h).eraseDups.foldl (fun s q =>
      match s.waitingEnd cp q.1 q.2 with
      | some (e, dir) =>
        let r := s.postOpen cp.ctx clPage cp.gid cp.band cp.pc.val (some e.handle) true
        if r.2.1 || !(s.copies.any fun q => q.id == cp.id) then r.2.2 else r.2.2.failCopy cp e dir
      | none => s) s
/-- A copy issues (R209, R218): its checks over all its ranges, its wait for room, and then its start; it joins the batches of
the lanes of the mask. What they have done before it is ordered before it (R310). Its ranges are translated then (R179). -/
def State.startCopy (s : State) (c : Slot) (g : Group) (b : Band) (m : Word) (as : List Access) (p : CopyPlan) : State :=
  s.checked c g.ctx (as.filter fun a => !a.isPage) (
    let js := joinsOf c.gid c.band b m
    if p.pieces.isEmpty then s.advanceSplit c
    else if !(s.copyRoom g.core p.tiled p.pieces && s.joinRoom js) then s.holdLanes c c.active (.queue .engine)
    else
      let (id, s) := (((s.cachePages g.core g.ctx c.gid c.band as).freezeBand c.gid c.band m).passOn c.gid g.die .gr).fresh
      let cp : Copy := ⟨id, g.ctx, c.gid, c.band, g.core, c.pc, p.tiled, p.desc, p.pieces, p.arrv, p.follow, js, false, false⟩
      ((({ s with copies := s.copies ++ [cp] } : State).startJoins js).commandIssued c m |>.advanceSplit c).askPages cp as)

/-! ### COPYL (R217) -/

/-- Bytes of a COPYL. -/
def copyBytes : CopySz → Nat
  | .b4 => 4
  | .b8 => 8
  | .b16 => 16
/-- COPYL (R217): all checks of all lanes first; each lane's copy is one piece. -/
def execCopyl (h : Hdr) (sz : CopySz) (d a : Opd) (s : State) : Out :=
  withRegs s [(d, 2), (a, 2)] fun c g bd =>
    let n := copyBytes sz
    let es := laneEnvs s c g bd (guarded h c bd)
    let ends := es.map fun e =>
      let f (x : W64) : CEnd := s.mkEnd c.gid (some e.lane) (hsel x) (hoff x)
      (f (e.read true a), f (e.read true d))
    let acc (e : CEnd) (nd : Need) : Access :=
      let x := s.endAccess c.gid c.band e n nd
      { x with res := x.res.orIllegal (e.off % n != 0) }
    let pieces := ends.map fun p => (⟨[p.1], p.2, n, none, none, none, [], [], false, false⟩ : Piece)
    s.startCopy c g bd (guarded h c bd) (ends.flatMap fun p => [acc p.1 .copyFrom, acc p.2 .copyTo]) ⟨false, [], pieces, none, none⟩

/-! ### COPYT (R213 to R215) -/

/-- A field of a descriptor, the lowest byte first. -/
def leAt (bs : List Byte) (off n : Nat) : Nat := natOfBytes ((bs.drop off).take n)
/-- Whether a field of a descriptor is zero. -/
def zeroAt (bs : List Byte) (off n : Nat) : Bool := leAt bs off n == 0
/-- A signed 32-bit field. -/
def i32At (bs : List Byte) (off : Nat) : Int := (BitVec.ofNat 32 (leAt bs off 4)).toInt
/-- Bytes of the allotment of an issuing split's group, as it reads them. -/
def State.scratchBytes (s : State) (c : Slot) (off n : Nat) : List Byte := (List.range n).map fun i => s.scratchByte c (scratchKey c.gid (off + i))
/-- The formats of R47. -/
def isPlane : Ty → Bool
  | .i4 | .n4 | .i8 | .n8 | .e5m2 | .e4m3 | .e2m1 | .f16 | .bf16 => true
  | _ => false
/-- A plane format by its code (R47, R63). -/
def planeTy (code : Nat) : Option Ty := (Ty.ofCode (BitVec.ofNat 5 code)).filter fun t => isPlane t && code < 32
/-- The follow-on MMA of a descriptor (R215): none where the block is malformed or fails a check of MMA. A scale word that SCL does not call
for is ignored (DESIGN CHOICE, log entry 97). -/
def followOf (g : Group) (bs : List Byte) : Option MKind :=
  match planeTy (leAt bs 0x41 1), planeTy (leAt bs 0x42 1) with
  | some fa, some fb =>
    let t := leAt bs 0x40 1
    let f := leAt bs 0x43 1
    let a := leAt bs 0x44 4
    let b := leAt bs 0x48 4
    let sw := BitVec.ofNat 32 (leAt bs 0x4C 4)
    if 16 ≤ t || 2 ≤ f || mmaBad g a b fa fb (f == 1) sw then none
    else some (.mma t a b fa fb (f == 1) (if f == 1 then sw else 0))
  | _, _ => none
/-- A tile descriptor, read (R213). -/
structure TileDesc where
  planes : Option Ty
  mcast : Bool
  scales : Bool
  rows : Nat
  rowBytes : Nat
  src : W64
  srcStride : Int
  dstStride : Int
  dst : W64
  mask : Nat
  arrv : Option Nat
  bound : BitVec 16
  follow : Option MKind
/-- The descriptor of COPYT (R213 to R215): none where a reserved field is not zero or a combination is forbidden. -/
def tileDesc (g : Group) (bs : List Byte) : Option TileDesc :=
  let fl := leAt bs 0 2
  let bit (i : Nat) : Bool := fl / 2 ^ i % 2 == 1
  let ty := leAt bs 2 1
  let rows := leAt bs 4 2
  let rb := leAt bs 6 2
  let src := BitVec.ofNat 64 (leAt bs 8 8)
  let dst := BitVec.ofNat 64 (leAt bs 0x18 8)
  let mask := leAt bs 0x20 24
  let arr := leAt bs 0x38 1
  let bound := leAt bs 0x3A 2
  let planes := bit 0
  let mcast := bit 1
  let follow := bit 2
  let scales := bit 3
  let arrv := bit 4
  let pt := planeTy ty
  let fo := followOf g bs
  let ok :=
    fl < 32 && zeroAt bs 3 1 && zeroAt bs 0x39 1 && zeroAt bs 0x3C 4 && zeroAt bs 0x50 48 &&
    1 ≤ rows && rows ≤ 4096 && 1 ≤ rb && rb ≤ 32768 &&
    (if planes then pt.isSome && !scales && rows == 64 && rb == 4 * ((pt.map planesOf).getD 0) else ty == 0) &&
    (!(planes || scales) || (hsel dst == 0xFFFE#16 && hoff dst % 256 == 0)) &&
    (!scales || (rows == 1 && rb == 256)) &&
    (if mcast then hsel dst == 0xFFFE#16 && mask != 0 else mask == 0) &&
    (if arrv then arr ≤ 7 && (hsel dst == 0xFFFE#16 || hsel dst == 0xFFFD#16) else arr == 0) &&
    (if scales then bound ≤ 2047 else bound == 0) &&
    (if follow then fo.isSome else zeroAt bs 0x40 16)
  if ok then
    some ⟨if planes then pt else none, mcast, scales, rows, rb, src, i32At bs 0x10, i32At bs 0x14, dst, mask,
      if arrv then some arr else none, BitVec.ofNat 16 bound, if follow then fo else none⟩
  else none
/-- The groups a multicast mask names (R214). -/
def maskGroups (mask : Nat) : List Nat := (List.range 192).filter fun i => mask / 2 ^ i % 2 == 1
/-- The checks of a multicast's receivers (R214): the groups, or none where one is missing or does not hold the bytes. -/
def State.receivers (s : State) (g : Group) (mask : Nat) (dsts : List (Int × Nat)) : Option (List Nat) :=
  (maskGroups mask).foldr (fun i acc =>
    match acc, s.inCluster g.cid i with
    | some gs, some (gid, r) =>
      if dsts.all fun p => 0 ≤ p.1 && p.1 + p.2 ≤ (min r.scratch 0x80000 : Nat) then some (gid :: gs) else none
    | _, _ => none) (some [])
/-- Bytes of a row that one piece of a copy moves, of which a core's line operations hold every line (R205). -/
abbrev rowPart : Nat := 8192
/-- The pieces of a row: the offset and the length of each. -/
def partsOf (n : Nat) : List (Nat × Nat) := (List.range ((n + rowPart - 1) / rowPart)).map fun i => (i * rowPart, min rowPart (n - i * rowPart))
/-- COPYT (R213 to R215, R218): the descriptor is read at issue. -/
def execCopyt (h : Hdr) (a : Opd) (s : State) : Out :=
  collOp s h [] fun e =>
    let o := (e.read32 a).toNat
    let gid := e.c.gid
    if o % 64 != 0 then s.haltSplit e.c rIllegalOperand 0
    else if !e.g.inScratch o 128 then s.haltSplit e.c rLimit (handleOf 0xFFFE o)
    else if s.ecc (scratchKeys gid o 128) then
      let s := s.hardErr e.c e.g.die ((lanesOf e.c.active).headD 0) [scratchKey gid o] (handleOf 0xFFFE o) 0
      if s.gone gid then s.advanceSplit e.c else s
    else
      let bs := s.scratchBytes e.c o 128
      match tileDesc e.g bs with
      | none => s.haltSplit e.c rIllegalOperand 0
      | some t =>
        let srcs : List CEnd := (List.range t.rows).map fun (r : Nat) =>
          s.mkEnd gid none (hsel t.src) ((hoff t.src : Int) + ((r : Nat) : Int) * t.srcStride)
        let land_ := if t.planes.isSome then 256 * ((t.planes.map planesOf).getD 0) else t.rowBytes
        let dsts : List Int := (List.range (if t.planes.isSome then 1 else t.rows)).map fun (r : Nat) =>
          (hoff t.dst : Int) + (r : Int) * t.dstStride
        let parts : List (List CEnd) := if t.planes.isSome then [srcs] else srcs.map fun x => [x]
        let row (src : List CEnd) (dst : CEnd) : List Piece :=
          if t.planes.isSome then [⟨src, dst, t.rowBytes, t.planes, none, none, [], [], false, false⟩]
          else (partsOf t.rowBytes).map fun q =>
            ⟨src.map fun x => { x with off := x.off + q.1 }, { dst with off := dst.off + q.1 }, q.2, none,
              if t.scales then some t.bound else none, none, [], [], false, false⟩
        let srcAs := srcs.map fun x => s.endAccess gid e.c.band x t.rowBytes .copyFrom
        if t.mcast then
          let rs := s.receivers e.g t.mask (dsts.map fun d => (d, land_))
          let gs := rs.getD []
          let miss : List Access := if rs.isSome then [] else [⟨0, t.dst, .halt 3 rLimit⟩]
          let pieces := (parts.zip dsts).flatMap fun p => gs.flatMap fun r => row p.1 ⟨0xFFFE, p.2, none, some r⟩
          s.startCopy e.c e.g e.b e.b.live (srcAs ++ miss) ⟨true, bs, pieces, t.arrv.map fun i => (i, gs), t.follow⟩
        else
          let ends := dsts.map fun d => s.mkEnd gid none (hsel t.dst) d
          let dstAs := ends.map fun x => s.endAccess gid e.c.band x land_ .copyTo
          s.startCopy e.c e.g e.b e.b.live (srcAs ++ dstAs)
            ⟨true, bs, (parts.zip ends).flatMap fun p => row p.1 p.2,
              t.arrv.map fun i => (i, ((ends.head?).bind (·.gid)).toList), t.follow⟩

/-! ### COPYG (R216) -/

/-- Element bytes of COPYG by code (R216). -/
def gatherSize : Nat → Option Nat
  | 0 => some 4
  | 1 => some 8
  | 2 => some 16
  | 3 => some 64
  | _ => none
/-- COPYG (R216, R218): the descriptor and the indices are read at issue. -/
def execCopyg (h : Hdr) (a : Opd) (s : State) : Out :=
  collOp s h [] fun e =>
    let o := (e.read32 a).toNat
    let gid := e.c.gid
    if o % 64 != 0 then s.haltSplit e.c rIllegalOperand 0
    else if !e.g.inScratch o 64 then s.haltSplit e.c rLimit (handleOf 0xFFFE o)
    else if s.ecc (scratchKeys gid o 64) then
      let s := s.hardErr e.c e.g.die ((lanesOf e.c.active).headD 0) [scratchKey gid o] (handleOf 0xFFFE o) 0
      if s.gone gid then s.advanceSplit e.c else s
    else
      let bs := s.scratchBytes e.c o 64
      let cnt := leAt bs 2 2
      let list := leAt bs 4 4
      let src := BitVec.ofNat 64 (leAt bs 8 8)
      let dst := BitVec.ofNat 64 (leAt bs 0x10 8)
      let stride := leAt bs 0x18 4
      match gatherSize (leAt bs 0 1) with
      | none => s.haltSplit e.c rIllegalOperand 0
      | some n =>
        if !zeroAt bs 1 1 || cnt == 0 || 4096 < cnt || list % 4 != 0 || !zeroAt bs 0x1C 36 then s.haltSplit e.c rIllegalOperand 0
        else if !e.g.inScratch list (4 * cnt) then s.haltSplit e.c rLimit (handleOf 0xFFFE list)
        else if s.ecc (scratchKeys gid list (4 * cnt)) then
          let s := s.hardErr e.c e.g.die ((lanesOf e.c.active).headD 0) [scratchKey gid list] (handleOf 0xFFFE list) 0
          if s.gone gid then s.advanceSplit e.c else s
        else
          let pairs : List (CEnd × CEnd) := (List.range cnt).map fun k =>
            let i := natOfBytes (s.scratchBytes e.c (list + 4 * k) 4)
            (s.mkEnd gid none (hsel src) ((hoff src + i * stride : Nat) : Int), s.mkEnd gid none (hsel dst) ((hoff dst + k * n : Nat) : Int))
          let acc (x : CEnd) (nd : Need) : Access :=
            let y := s.endAccess gid e.c.band x n nd
            { y with res := y.res.orIllegal (x.off % n != 0) }
          s.startCopy e.c e.g e.b e.b.live (pairs.flatMap fun p => [acc p.1 .copyFrom, acc p.2 .copyTo])
            ⟨true, bs, pairs.map fun p => ⟨[p.1], p.2, n, none, none, none, [], [], false, false⟩, none, none⟩

/-! ### Landing (R209, R213, R215, R220) -/

/-- Element codes of a source row of a plane tile (R36, R213). -/
def rowCodes (ty : Ty) (bs : List Byte) : List Nat :=
  let v := natOfBytes bs
  (List.range 32).map fun k => v / 2 ^ (ty.bits * k) % 2 ^ ty.bits
/-- The bytes a piece lands at its destination's allotment or memory, from the bytes of its sources. -/
def Piece.value (p : Piece) (bs : List Byte) : List Byte :=
  match p.planes with
  | some ty =>
    let rows := (List.range 64).map fun r => rowCodes ty ((bs.drop (p.n * r)).take p.n)
    (List.range (planesOf ty)).flatMap fun q => rows.flatMap fun cs => bytesOfNat 4 (planeWordOf cs q)
  | none =>
    match p.bound with
    | some b => bs.take 0x80 ++ bytesOfNat 2 b.toNat ++ bs.drop 0x82
    | none => bs
/-- Bytes of a unit that a piece reads and writes at once (R217, R310): 8 of a COPYL, a word otherwise. -/
def Copy.unit (cp : Copy) (p : Piece) : Nat := if cp.tiled then 4 else min p.n 8
/-- The bytes of an end as they stand, or the reason they cannot be read now: true for an error that fails the copy. -/
def State.endBytes (s : State) (cp : Copy) (p : Piece) (e : CEnd) : Except (Bool × CEnd) (List Byte) :=
  match s.endNow cp e p.n .copyFrom with
  | .ok space ks =>
    if s.ecc ks then .error (true, e) else .ok (ks.map (s.readByte (dieOf cp.core) cp.gid cp.band engineLane space))
  | .halt _ _ => .error (true, e)
  | _ => .error (false, e)
/-- The bytes of a piece's sources, those read already as they were, or the reason they cannot be read now. -/
def State.pieceSource (s : State) (cp : Copy) (p : Piece) : Except (Bool × CEnd) (List Byte) :=
  let step (acc : Except (Bool × CEnd) (List Byte)) (e : CEnd) : Except (Bool × CEnd) (List Byte) :=
    match acc with
    | .error x => .error x
    | .ok bs =>
      match s.endBytes cp p e with
      | .ok b => .ok (bs ++ b)
      | .error x => .error x
  let n := p.n * p.src.length
  match p.buf with
  | some bs => .ok bs
  | none =>
    if p.got.length == n then .ok ((List.range n).map fun i => tabGetD p.got i 0)
    else
      match p.src.foldl step (.ok []) with
      | .error x => .error x
      | .ok bs => .ok (mapIdx (fun i b => tabGetD p.got i b) bs 0)
/-- Whether an end lies in memory of a group that has ended (R220): a scratchpad, or the issuing band's private memory. -/
def State.endDiscarded (s : State) (cp : Copy) (e : CEnd) : Bool :=
  match e.gid with
  | some gid => s.gone gid
  | none => e.sel == 0xFFFC#16 && s.gone cp.gid
/-- Where a piece's bytes go, or the reason they cannot land now. -/
def State.pieceTarget (s : State) (cp : Copy) (p : Piece) : Except (Bool × CEnd) (Space × List Key) :=
  if s.endDiscarded cp p.dst then .ok (.single, [])
  else
    match s.endNow cp p.dst p.landBytes .copyTo with
    | .ok space ks => if s.eccStore ks ks then .error (true, p.dst) else .ok (space, ks)
    | .halt _ _ => .error (true, p.dst)
    | _ => .error (false, p.dst)
/-- A copy with one of its records changed. -/
def State.modCopy (s : State) (id : Nat) (f : Copy → Copy) : State :=
  { s with copies := s.copies.map fun (p : Copy) => if p.id == id then f p else p }
/-- A copy with one of its pieces changed. -/
def State.modPiece (s : State) (id piece : Nat) (f : Piece → Piece) : State :=
  s.modCopy id fun q => { q with pieces := listMod q.pieces piece f }
/-- The copies that have landed and whose follow-on MMA is still to be entered, in the order of completion. -/
def State.waitingFollows (s : State) : List Copy := s.copies.filter fun q => q.landed && q.follow.isSome
/-- The follow-on MMA of a copy that has landed (R215, R220): it enters the queue of its group's core, waits there for room behind those that
completed before it, or is kept with a group that is swapped out or on the move. -/
def State.issueFollow (s : State) (cp : Copy) : State :=
  match cp.follow with
  | none => s
  | some k =>
    let (id, s1) := s.fresh
    let at_ (g : Group) : Bool := g.place == GPlace.seated || g.place == GPlace.phase
    let core := ((s.group? cp.gid).bind fun g => if at_ g then some g.core else none).getD cp.core
    let cmd : MCmd := ⟨id, cp.ctx, cp.gid, cp.band, cp.pc, k, cp.joins, some cp.id, []⟩
    let away := ((s.group? cp.gid).map fun g => g.moving || !(at_ g || g.place == GPlace.ended)).getD false
    if away then
      (s1.modGroup cp.gid fun g => { g with follows := g.follows ++ [cmd] }).modCopy cp.id fun q => { q with follow := none }
    else if (s.core core).mq.length < 32 && ((s.waitingFollows.find? fun q => q.core == cp.core).map (·.id)).getD cp.id == cp.id then (s1.enqueue core cmd).modCopy cp.id fun q => { q with follow := none }
    else s
/-- A copy whose last piece has landed (R209, R215, R327). What follows a WAITB that observes it is ordered after what it wrote (R310). -/
def State.copyLanded (s : State) (cp : Copy) : State :=
  let s := (s.stampDie (dieOf cp.core)).modCore cp.core fun k => { k with copyPc := some cp.pc }
  if cp.follow.isSome then
    ({ s with copies := (s.copies.filter fun q => q.id != cp.id) ++ [{ cp with landed := true }] } : State).issueFollow cp
  else (({ s with copies := s.copies.filter fun (q : Copy) => q.id != cp.id } : State).finishJoins cp.joins).wakeEngine cp.core
/-- One arrival in each receiver of a copy in which all has now landed (R213, R220): a release at cluster scope of what happens before it
(R291, R302). -/
def State.copyArrives (s : State) (cp : Copy) (p : Piece) : State :=
  match cp.arrv, p.dst.gid with
  | some (i, gs), some gid =>
    if gs.contains gid && (cp.pieces.all fun q => q.dst.gid != some gid || q.landed) && !s.gone gid then
      (s.passOn cp.gid (dieOf cp.core) .cl).modGroup gid fun g => g.arriveAt i 1
    else s
  | _, _ => s
/-- Whether a piece's line operations may go on: they have started, or may start now (R324, R335), for which those of a tiled copy need
room (R205, R209). -/
def State.pieceUp (s : State) (cp : Copy) (p : Piece) : Bool :=
  p.started || (!(cp.away || s.lineAt cp.ctx cp.core) && (!cp.tiled || s.linesOf cp.core + p.lines ≤ 256))
/-- Whether a piece's bytes move one unit at a time: not those of a COPYL of which one lane's copy touches another's destination, whose
copies are performed whole in some order (R217). -/
def State.byUnits (s : State) (cp : Copy) (piece : Nat) (p : Piece) : Bool :=
  let keys (e : CEnd) (n : Nat) (nd : Need) : List Key :=
    match s.endNow cp e n nd with
    | .ok _ ks => ks
    | _ => []
  let dst (q : Piece) : List Key := keys q.dst q.n .copyTo
  let both (q : Piece) : List Key := dst q ++ q.src.flatMap fun e => keys e q.n .copyFrom
  cp.tiled || (mapIdx (fun i q => i == piece || (!(dst q).any (both p).contains && !(dst p).any (both q).contains)) cp.pieces 0).all id
/-- The pieces that share one read of their source: the receivers of a multicast's row or tile (R214). -/
def Copy.sharers (cp : Copy) (p q : Piece) : Bool :=
  cp.tiled && cp.desc.length == 128 && leAt cp.desc 0 2 / 2 % 2 == 1 && q.src == p.src && q.dst.off == p.dst.off && !q.landed
/-- Source bytes of a piece that a piece of its destination's bytes is made of: those of the same unit, or a whole row of a plane tile. -/
def Piece.needs (p : Piece) (u i : Nat) : List Nat :=
  match p.planes with
  | some _ => (List.range p.n).map (p.n * (i % 64) + ·)
  | none => (List.range u).map (u * i + ·)
/-- A piece reads some of its source bytes ahead of the rest (R310). -/
def State.readAhead (s : State) (cp : Copy) (piece : Nat) (p : Piece) (is : List Nat) (bs : List Byte) : State :=
  let new := is.filterMap fun i => if (tabGet p.got i).isSome then none else (bs[i]?).map fun b => (i, b)
  s.modCopy cp.id fun q => { q with pieces := mapIdx (fun j (x : Piece) =>
    if j == piece || cp.sharers p x then { x with got := new.foldl (fun t y => tabSet t y.1 y.2) x.got } else x) q.pieces 0 }
/-- Bytes that a copy lands (R209, R310, R312): a write of its die to device memory; to host memory a posted write that its group sees. -/
def State.landBytes (s : State) (cp : Copy) (space : Space) (out : List (Key × Byte)) : State :=
  let bs := bytesAt (out.map (·.1)) (out.map (·.2))
  match space with
  | .host p =>
    let (id, s) := s.fresh
    { s with posted := s.posted ++ [⟨id, id, cp.gid, cp.band, engineLane, p, bs, [cp.gid], false, false, false⟩] }
  | .device => s.writeBytes (dieOf cp.core) cp.gid cp.band engineLane .device bs
  | .scratch | .peer => s.putBytes out
  | .single => { s with mem := memPut s.mem out }
/-- The posted writes to a piece's source bytes that happen before its copy have landed: the engine reads what memory holds (R305, R310). -/
def State.landSource (s : State) (cp : Copy) (p : Piece) : State :=
  if s.posted.isEmpty then s
  else p.src.foldl (fun s e =>
    match s.endNow cp e p.n .copyFrom with
    | .ok _ ks => s.landWanted fun q => (q.dev || q.vis.contains cp.gid) && q.hits ks
    | _ => s) s
/-- A piece whose source and target are at hand lands the units it has not written yet. -/
def State.landPiece (s : State) (cp : Copy) (piece : Nat) (p : Piece) (bs : List Byte) (space : Space) (ks : List Key) : State :=
  let out := (mapIdx (fun i x => (i / cp.unit p, x)) (ks.zip (p.value bs)) 0).filterMap fun x => if p.out.contains x.1 then none else some x.2
  let s1 := if out.isEmpty then s else s.landBytes cp space out
  let s2 := ((s1.cachePages cp.core cp.ctx cp.gid cp.band [⟨0, p.dst.handle, .ok space ks⟩]).clearErrors ks).modCopy cp.id fun q => { q with
    pieces := mapIdx (fun i (x : Piece) =>
      if i == piece then { x with started := true, landed := true }
      else if cp.sharers p x then { x with buf := some bs } else x) q.pieces 0 }
  match s2.copies.find? fun q => q.id == cp.id with
  | none => s2
  | some cp' =>
    let s3 := s2.copyArrives cp' p
    if cp'.pieces.all (·.landed) then s3.copyLanded cp' else s3
/-- A copy fails at an end of a piece (R219): an uncorrectable error there is counted (R189). -/
def State.failEnd (s : State) (cp : Copy) (e : CEnd) (n : Nat) (dir : Nat) : State :=
  match s.endNow cp e n (if dir == 0 then .copyFrom else .copyTo) with
  | .ok .peer _ => s.failCopy cp e dir
  | .ok _ ks => (s.countErr (dieOf cp.core) (memKind (ks.headD 0)) true).failCopy cp e dir
  | _ => s.failCopy cp e dir
/-- The piece that a part of a landing is of. -/
def stepPiece : CopyStep → Nat
  | .start k | .read k _ | .write k _ | .land k => k
/-- COPY_LANDING (R209, R213, R217, R219, R220, R310, R324): a piece of a copy starts its line operations, moves one unit of its bytes, or
lands whole, or it meets a translation that fails. -/
def execCopyLanding (id : Nat) (how : CopyStep) (s : State) : Out :=
  .next (
    let piece := stepPiece how
    match s.copies.find? fun cp => cp.id == id with
    | none => s
    | some cp =>
      if cp.landed then s.issueFollow cp
      else
        match cp.pieces[piece]? with
        | none => s
        | some p =>
          if p.landed || !s.pieceUp cp p then s
          else
            let s := s.landSource cp p
            match how, s.pieceSource cp p with
            | .start _, _ => s.modPiece id piece fun x => { x with started := true }
            | .read _ i, .ok bs =>
              if s.byUnits cp piece p then
                (s.readAhead cp piece p ((List.range (cp.unit p)).map (cp.unit p * i + ·)) bs).modPiece id piece fun x =>
                  { x with started := true }
              else s
            | .write _ i, .ok bs =>
              match s.pieceTarget cp p with
              | .ok (space, ks) =>
                if !s.byUnits cp piece p || p.out.contains i || ks.length ≤ cp.unit p * i then s
                else
                  let out := ((ks.zip (p.value bs)).drop (cp.unit p * i)).take (cp.unit p)
                  ((s.readAhead cp piece p (p.needs (cp.unit p) i) bs).landBytes cp space out).modPiece id piece fun x =>
                    { x with started := true, out := i :: x.out }
              | .error _ => s
            | .land _, .ok bs =>
              match s.pieceTarget cp p with
              | .ok (space, ks) => s.landPiece cp piece p bs space ks
              | .error (true, e) => s.failEnd cp e p.landBytes 1
              | .error (false, _) => s
            | .land _, .error (true, e) => s.failEnd cp e p.n 0
            | _, .error _ => s)
/-- COPY_FAULT (R219): a piece of a copy meets a translation failure or an uncorrectable error, which may be a new one at
its source. -/
def execCopyFault (id piece : Nat) (s : State) : Out :=
  .next (
    match s.copies.find? fun cp => cp.id == id with
    | none => s
    | some cp =>
      match cp.pieces[piece]? with
      | none => s
      | some p =>
        if p.landed || cp.landed || !s.pieceUp cp p then s
        else
          match s.pieceSource cp p with
          | .error (true, e) => s.failEnd cp e p.n 0
          | .error (false, _) => s
          | .ok _ =>
            match s.pieceTarget cp p with
            | .error (true, e) => s.failEnd cp e p.landBytes 1
            | .error (false, _) => s
            | .ok _ =>
              match p.src with
              | [] => s
              | e :: _ =>
                match s.endNow cp e p.n .copyFrom with
                | .ok .peer _ => s.failCopy cp e 0
                | .ok _ (k :: _) => (s.foundBad k).failEnd cp e p.n 0
                | _ => s)

end Sys2Proof.Machine
end

