-- ==== Sys2Proof/Machine/Mailbox.lean ====
section
/-! DEFINITION. Mailboxes (R233 to R241): submission and acceptance, completion, and MBXTAKE, MBXPOST and MBXDONE. -/

namespace Sys2Proof.Machine

/-! ### Submission, acceptance and completion (R234 to R236) -/

/-- A mailbox of a context. -/
def State.mbx? (s : State) (ctx m : Nat) : Option Mailbox := (s.ctx? ctx).bind fun x => tabGet x.mailboxes m
/-- The state with a mailbox changed. -/
def State.modMbx (s : State) (ctx m : Nat) (f : Mailbox → Mailbox) : State :=
  s.modCtx ctx fun x => { x with mailboxes := tabMod x.mailboxes m f }
/-- Bytes of a list as a number. -/
def numAt (bs : List Byte) (off n : Nat) : Nat := natOfBytes ((bs.drop off).take n)
/-- The acceptance sequence written to the acknowledge handle (R233). -/
def State.acknowledge (s : State) (ctx m : Nat) : State :=
  match s.mbx? ctx m with
  | some b => s.devWrite ctx b.ack 0 (bytesOfNat 8 b.accepted)
  | none => s
/-- MAILBOX_SUBMIT (R234): a store to a launch register. The submissions before it count as accepted. A store whose count exceeds the ring's
slots is discarded with the event too, though R234 does not list it (DESIGN CHOICE, log entry 97). -/
def execMailboxSubmit (ctx mbx : Nat) (store : List Byte) (s : State) : Out :=
  .next (
    match s.mbx? ctx mbx with
    | none => if (s.ctx? ctx).isSome then (s.postOpen ctx clMailbox s.nextId 0 0 none false).2.2 else s
    | some b =>
      let tail := numAt store 0 4
      let c := numAt store 4 2 + 1
      let fl := numAt store 6 2
      let acc := b.accepted + b.incoming.length
      let d := (tail + 2 ^ 32 - acc % 2 ^ 32) % 2 ^ 32
      if s.level == 0 || s.shut || (s.port b.port).tdi == Tdi.error then s
      else if store.length != 64 || 2 ≤ fl || b.toHost || !b.enabled || c < d || b.slots < c ||
          b.slots < acc - (b.watermark + b.done.length) + d then
        (s.postOpen ctx clMailbox s.nextId 0 0 none false).2.2
      else if d == 0 then s.acknowledge ctx mbx
      else
        s.modMbx ctx mbx fun b => { b with incoming := b.incoming ++ (List.range d).map fun i =>
          ((acc + i + 1) % 2 ^ 64, i + 1 == d, if fl == 1 && i + c == d then some (store.drop 8) else none) })
/-- RECORD_ACCEPT (R235): the next record of a submission is accepted; after its last the acknowledge handle is written. A record whose slot
holds an uncorrectable error is not accepted, nor what follows it, and the event of a discarded submission says so (R189, log entry 99). -/
def execRecordAccept (ctx mbx : Nat) (s : State) : Out :=
  .next (
    match if s.ensignRuns then s.mbx? ctx mbx else none with
    | none => s
    | some b =>
      match b.incoming with
      | [] => s
      | (seq, last, inl) :: rest =>
        let s := s.hostSync b.port [s.ensign.getD 0]
        let at_ := 64 * ((seq - 1) % max b.slots 1)
        if inl.isNone && s.devBad ctx b.ring at_ 64 then
          ((s.modMbx ctx mbx fun b => { b with incoming := [] }).postOpen ctx clMailbox s.nextId 0 0 none false).2.2
        else
        let bs := inl.getD (((s.devRead ctx b.ring at_ 64).getD []).drop 8)
        let s := s.modMbx ctx mbx fun b =>
          { b with accepted := seq, incoming := rest, recs := tabSet b.recs seq (bs ++ List.replicate (56 - bs.length) 0) }
        if last then s.acknowledge ctx mbx else s)
/-- The watermark that some completed sequences give (R236). -/
def markOf (w : Nat) (done : List Nat) : Nat :=
  (w + ((List.range done.length).takeWhile fun i => done.contains ((w + 1 + i) % 2 ^ 64)).length) % 2 ^ 64
/-- A sequence is completed with a status (R236); one that is complete already is refused. -/
def State.completeRec (s : State) (ctx m seq : Nat) (status : Word) : State :=
  match s.mbx? ctx m with
  | none => s
  | some b =>
    if seq ≤ b.watermark || b.done.contains seq then s
    else
      let s := s.devWrite ctx b.ring (64 * ((seq - 1) % max b.slots 1)) (bytesOfNat 4 status.toNat ++ bytesOfNat 4 seq)
      let done := seq :: b.done
      let w := markOf b.watermark done
      let s := s.modMbx ctx m fun b => { b with done := done.filter (w < ·), watermark := w, recs := tabDel b.recs seq }
      if w != b.watermark then s.devWrite ctx b.compl 0 (bytesOfNat 8 w) else s
/-- A mailbox after a reset or a teardown (R241, R331). -/
def Mailbox.recover (b : Mailbox) : Mailbox := { b with taken := (b.watermark + 1) % 2 ^ 64 }
/-- The sequence the next take hands out (R238, R241): completed ones are skipped. -/
def Mailbox.nextTake (b : Mailbox) : Nat :=
  (((List.range (b.done.length + 1)).map (b.taken + ·)).find? fun q => !b.done.contains q).getD b.taken

/-! ### MBXTAKE, MBXPOST and MBXDONE (R238 to R240) -/

/-- The register number of a B pair operand. -/
def pairB : Opd → Nat
  | .b i => i.toNat
  | _ => 0
/-- The band has issued a collective queue command and goes on (R30). -/
def Env.doneCmd (e : Env) (s : State) : State := (s.commandIssued e.c e.c.active).advanceSplit e.c
/-- The band goes on with a B pair written. -/
def Env.donePair (e : Env) (s : State) (d : Opd) (x : W64) : State :=
  (e.doneCmd s).modBand e.c.gid e.c.band fun b => b.setBPair (pairB d) x
/-- A release at system scope by every live thread of a band (R239, R240). -/
def Env.releaseSys (e : Env) (s : State) : State :=
  (s.freezeBand e.c.gid e.c.band e.b.live).release e.c.gid e.g.die .sy false
/-- MBXTAKE (R238): an acquire at system scope. -/
def execMbxtake (h : Hdr) (tr : Bool) (d a b : Opd) (s : State) : Out :=
  collOp s h [] fun e =>
    let m := (e.read32 a).toNat
    let o := (e.read32 b).toNat
    if 63 < m || o % 8 != 0 then s.haltSplit e.c rIllegalOperand 0
    else
      match s.mbx? e.g.ctx m with
      | none => s.haltSplit e.c rIllegalOperand 0
      | some x =>
        if x.toHost || !x.enabled || x.launcher then s.haltSplit e.c rIllegalOperand 0
        else if !e.g.inScratch o 56 then s.haltSplit e.c rLimit (handleOf 0xFFFE o)
        else
          let q := x.nextTake
          if x.accepted < q then
            if tr then e.donePair s d 0 else s.holdLanes e.c e.c.active (.queue (.take m))
          else
            let bs := (tabGet x.recs q).getD []
            let ks := (List.range 56).map fun i => scratchKey e.c.gid (o + i)
            let s := ((s.freezeBand e.c.gid e.c.band e.b.live).hostSync x.port [e.g.die]).acquire e.c.gid e.g.die
            let s := s.modMbx e.g.ctx m fun x => { x with taken := (q + 1) % 2 ^ 64 }
            e.donePair ((s.putBytes (ks.zip bs)).clearErrors ks) d (BitVec.ofNat 64 q)
/-- MBXPOST (R239). -/
def execMbxpost (h : Hdr) (tr : Bool) (d a b : Opd) (s : State) : Out :=
  collOp s h [] fun e =>
    let m := (e.read32 a).toNat
    let o := (e.read32 b).toNat
    let ks := (List.range 56).map fun i => scratchKey e.c.gid (o + i)
    if 63 < m || o % 8 != 0 then s.haltSplit e.c rIllegalOperand 0
    else
      match s.mbx? e.g.ctx m with
      | none => s.haltSplit e.c rIllegalOperand 0
      | some x =>
        if !x.toHost || !x.enabled then s.haltSplit e.c rIllegalOperand 0
        else if !e.g.inScratch o 56 then s.haltSplit e.c rLimit (handleOf 0xFFFE o)
        else if (x.slots : Int) ≤ (x.accepted : Int) - x.consumed then
          if tr then e.donePair s d 0 else s.holdLanes e.c e.c.active (.queue (.post m))
        else if s.ecc ks then
          let s := s.hardErr e.c e.g.die ((lanesOf e.c.active).headD 0) ks (handleOf 0xFFFE o) 0
          if s.gone e.c.gid then s.advanceSplit e.c else s
        else
          let q := (x.accepted + 1) % 2 ^ 64
          let s := e.releaseSys s
          let s := s.devWrite e.g.ctx x.ring (64 * ((q - 1) % max x.slots 1)) (bytesOfNat 8 q ++ ks.map (s.scratchByte e.c))
          let s := (s.modMbx e.g.ctx m fun x => { x with accepted := q }).acknowledge e.g.ctx m
          e.donePair s d (BitVec.ofNat 64 q)
/-- MBXDONE (R240). -/
def execMbxdone (h : Hdr) (d a b : Opd) (s : State) : Out :=
  collOp s h [] fun e =>
    let m := (e.read32 a).toNat
    let q := (e.b.getBPair (pairB b)).toNat
    if 63 < m then s.haltSplit e.c rIllegalOperand 0
    else
      match s.mbx? e.g.ctx m with
      | none => s.haltSplit e.c rIllegalOperand 0
      | some x =>
        if x.toHost || !x.enabled || x.launcher || q ≤ x.watermark || x.taken ≤ q || x.done.contains q then
          s.haltSplit e.c rIllegalOperand 0
        else e.doneCmd ((e.releaseSys s).completeRec e.g.ctx m q (e.read32 d))
/-- Whether a wait is for a mailbox that has room or a record now. -/
def State.mbxReady (s : State) (ctx : Nat) (w : Wait) : Bool :=
  match w with
  | .queue (.take m) => ((s.mbx? ctx m).map fun x => decide (x.nextTake ≤ x.accepted)).getD false
  | .queue (.post m) => ((s.mbx? ctx m).map fun x => decide ((x.accepted : Int) - x.consumed < x.slots)).getD false
  | _ => false
/-- Whether a wait is a take's. -/
def Wait.isTake : Wait → Bool
  | .queue (.take _) => true
  | _ => false
/-- Whether a wait is a post's. -/
def isPostWait : Wait → Bool
  | .queue (.post _) => true
  | _ => false
/-- Waiting lanes of a band whose wait can end retry (R238, R239). -/
def State.wakeMbx (s : State) (gid band : Nat) (kind : Wait → Bool) : State :=
  match s.group? gid with
  | some g => s.thaw gid <| s.wakeRetry gid band fun w => kind w && s.mbxReady g.ctx w
  | none => s
/-- MBXTAKE_WAKE (R238): a record has been accepted for a waiting take, which is made anew. -/
def execMbxtakeWake (gid band : Nat) (s : State) : Out := .next (s.wakeMbx gid band Wait.isTake)
/-- MBXPOST_WAKE (R239): the host has freed a slot for a waiting post, which is made anew. -/
def execMbxpostWake (gid band : Nat) (s : State) : Out := .next (s.wakeMbx gid band isPostWait)

end Sys2Proof.Machine
end

