-- ==== Sys2Proof/Machine/Launch.lean ====
section
/-! DEFINITION. Launch blocks (R12 to R16, R99, R100, R272, R273), the occupancy of a core and the placement of bands (R21, R22,
R107), bind records (R17 to R20, R270), and the groups an admission seats (R23). -/

namespace Sys2Proof.Machine

/-! ### Launch blocks -/

/-- The generator sets of R272 for a launch: each generator names axes of extent 2 or more, a transposition two equal ones,
a shift a multiple of the group extent; two generators name disjoint axes. A shift that is not zero in a generator of another kind than 6 makes
the block malformed (DESIGN CHOICE, log entry 97). -/
def gensOk (b : Block) : Bool :=
  let ext := b.extents
  let order (g : Gen) : Nat := g.order ext
  let one (g : Gen) : Bool :=
    (g.axes.all fun a => a < 3 && 2 ≤ axisOf ext a) &&
    (if g.kind ≤ 3 then
      g.kind != 0 && g.axis1 != g.axis2 && axisOf b.shape g.axis1 == axisOf b.shape g.axis2 &&
        axisOf b.cluster g.axis1 == axisOf b.cluster g.axis2 && axisOf b.box g.axis1 == axisOf b.box g.axis2 && g.shift == 0
    else if g.kind ≤ 5 then g.shift == 0
    else g.kind == 6 && g.shift % axisOf b.shape g.axis1 == 0 && 1 ≤ g.shift && g.shift < axisOf ext g.axis1 && order g ≤ 64)
  match b.gens with
  | [g] => one g
  | [g, k] =>
    one g && one k && (g.axes.all fun a => !k.axes.contains a) &&
      (if g.kind == 6 && k.kind == 6 then order g * order k ≤ 64
      else if g.kind == 6 || k.kind == 6 then order g * order k ≤ 8
      else true)
  | _ => false
/-- Threads of a group (R13). -/
def Block.threads (b : Block) : Nat := b.shape.1 * b.shape.2.1 * b.shape.2.2
/-- Bands of a group (R13). -/
def Block.bands (b : Block) : Nat := (b.threads + 31) / 32
/-- Spatial positions of a cluster (R14). -/
def Block.spots (b : Block) : Nat := b.cluster.1 * b.cluster.2.1 * b.cluster.2.2
/-- Clusters of a launch. -/
def Block.clusters (b : Block) : Nat := b.box.1 * b.box.2.1 * b.box.2.2
/-- Groups of one gang (R16). -/
def Block.perGang (b : Block) : Nat := (b.stages.map (·.groups)).sum
/-- The coordinates of a number in a box, x fastest (R13 to R15). -/
def unrank (e : Nat × Nat × Nat) (k : Nat) : Nat × Nat × Nat := (k % e.1, k / e.1 % e.2.1, k / e.1 / e.2.1)
/-- The base coordinate, in groups, of a position of a cluster on an axis (R15, R273). -/
def Block.groupAt (b : Block) (cluster pos a : Nat) : Nat :=
  axisOf (unrank b.box cluster) a * axisOf b.cluster a + axisOf (unrank b.cluster pos) a
/-- Whether a position is in the fundamental domain (R273). -/
def Block.inDomain (b : Block) (cluster pos : Nat) : Bool :=
  b.gens.all fun g =>
    let c := b.groupAt cluster pos g.axis1
    let n := axisOf b.extents g.axis1
    let sz := axisOf b.shape g.axis1
    if g.kind ≤ 3 then c ≤ b.groupAt cluster pos g.axis2
    else if g.kind ≤ 5 then 2 * c ≤ n / max sz 1 - 1
    else c * sz < Nat.gcd n g.shift
/-- The positions of a cluster that the walker issues, in order (R273). -/
def Block.domain (b : Block) (cluster : Nat) : List Nat := (List.range b.spots).filter (b.inDomain cluster)
/-- Whether a thread is canonical (R273). -/
def Block.canonical (b : Block) (ix : Nat × Nat × Nat) : Bool :=
  b.gens.all fun g =>
    let x := axisOf ix g.axis1
    if g.kind ≤ 3 then x ≤ axisOf ix g.axis2
    else if g.kind ≤ 5 then 2 * x ≤ axisOf b.extents g.axis1 - 1
    else true
/-- The global coordinates of a thread (R15). -/
def Block.index (b : Block) (cluster pos k : Nat) : Nat × Nat × Nat :=
  let t := unrank b.shape k
  let f (a : Nat) : Nat := b.groupAt cluster pos a * axisOf b.shape a + axisOf t a
  (f 0, f 1, f 2)

/-! ### Occupancy and placement (R21, R22, R107) -/

/-- What a core has given away: seats, rows of each slice's lane banks, register counts reserved by team pools, and scratchpad. -/
structure Occ where
  seats : List (Nat × Nat)
  budgets : List (Nat × Nat)
  rows : List (Nat × Nat × Nat)
  pools : List (Nat × Nat × Nat)
  scratch : List (Nat × Nat)
/-- An empty core. -/
def Occ.empty : Occ := ⟨[], [], [], [], []⟩
/-- Registers taken on a slice of each lane bank (R21). -/
def Occ.regs (o : Occ) (slice : Nat) : Nat :=
  ((o.budgets.filter fun p => p.1 == slice).map (·.2)).sum +
    ((o.pools.filter fun p => p.2.1 == slice).map fun p => 16 * p.2.2).sum
/-- Free seats of a slice. -/
def Occ.freeSeats (o : Occ) (slice : Nat) : List Nat := (List.range 16).filter fun k => !o.seats.contains (slice, k)
/-- Free seats of a slice at which a pair of sleeves can start. -/
def Occ.freePairs (o : Occ) (slice : Nat) : List Nat :=
  (o.freeSeats slice).filter fun k => k % 2 == 0 && !o.seats.contains (slice, k + 1)
/-- The lowest free run of n bytes or rows among taken runs, with all ends of runs as candidates. -/
def freeRun (used : List (Nat × Nat)) (n : Nat) : Nat :=
  let cands := 0 :: used.map fun u => u.1 + u.2
  ((cands.filter fun r => !(used.any fun u => rowsMeet r n u.1 u.2)).foldl (fun (a : Option Nat) r =>
    match a with
    | some x => some (min x r)
    | none => some r) none).getD 0
/-- A band put on a seat of a slice of a core, for a team with a pool (R21, R107). -/
def Occ.seat (o : Occ) (lid pool slice k budget : Nat) : (Nat × Nat × Nat) × Occ :=
  let row := freeRun ((o.rows.filter fun p => p.1 == slice).map (·.2)) budget
  let pools := if o.pools.any fun p => p.1 == lid && p.2.1 == slice then o.pools else (lid, slice, pool) :: o.pools
  ((slice, k, row),
    { o with
      seats := (slice, k) :: o.seats, budgets := (slice, budget) :: o.budgets, rows := (slice, row, budget) :: o.rows, pools := pools })
/-- The slice R22 chooses: the one with more free seats, slice 0 on a tie; on a fixed slice where a restore asks for it. With sleeves it is
still the free seats that are counted, and a slice without a free pair leaves the other (DESIGN CHOICE, log entry 97). -/
def Occ.choose (o : Occ) (a b : List Nat) : Nat :=
  if b.isEmpty then 0 else if a.isEmpty then 1 else if (o.freeSeats 0).length < (o.freeSeats 1).length then 1 else 0
/-- The bands of a group placed in band order (R22): each place is a slice, a seat and a first row. With sleeves they go in
pairs. -/
def Occ.place (lid pool budget : Nat) (twin : Bool) : Nat → Occ → List (Nat × Nat × Nat) → Option (List (Nat × Nat × Nat) × Occ)
  | 0, o, ps => some (ps.reverse, o)
  | n + 1, o, ps =>
    if twin && ps.length % 2 == 1 then
      match ps with
      | (sl, k, _) :: _ => let r := o.seat lid pool sl (k + 1) budget; Occ.place lid pool budget twin n r.2 (r.1 :: ps)
      | [] => none
    else
      let f0 := if twin then o.freePairs 0 else o.freeSeats 0
      let f1 := if twin then o.freePairs 1 else o.freeSeats 1
      let sl := o.choose f0 f1
      match (if sl == 0 then f0 else f1) with
      | k :: _ => let r := o.seat lid pool sl k budget; Occ.place lid pool budget twin n r.2 (r.1 :: ps)
      | [] => none
/-- A group placed on a core when R21 holds: its bands' places, its scratchpad base, and what is then taken. -/
def Occ.group (o : Occ) (lid pool budget scratch bands : Nat) (twin : Bool) : Option (List (Nat × Nat × Nat) × Nat × Occ) :=
  match Occ.place lid pool budget twin bands o [] with
  | none => none
  | some (ps, o') =>
    let base := freeRun o.scratch scratch
    if 1024 < o'.regs 0 || 1024 < o'.regs 1 || Config.scratchBytes < (o.scratch.map (·.2)).sum + scratch then none
    else some (ps, base, { o' with scratch := if scratch == 0 then o'.scratch else (base, scratch) :: o'.scratch })
/-- The stages and units of a gang in group order (R14): stage, unit. -/
def Block.gang1 (b : Block) : List (Nat × Nat × Stage) :=
  (mapIdx (fun i (st : Stage) => (List.range st.groups).map fun u => (i, u, st)) b.stages 0).flatten
/-- A whole gang placed on a core (R16, R21). -/
def Occ.gang (lid pool bands : Nat) (twin : Bool) : List (Nat × Nat × Stage) → Occ →
    Option (List (List (Nat × Nat × Nat) × Nat) × Occ)
  | [], o => some ([], o)
  | (_, _, st) :: t, o =>
    match o.group lid pool st.regs st.scratch bands twin with
    | none => none
    | some (ps, base, o) =>
      match Occ.gang lid pool bands twin t o with
      | some (r, o) => some ((ps, base) :: r, o)
      | none => none
/-- Bands put on given seats. -/
def Occ.put (lid pool budget : Nat) : List (Nat × Nat) → Occ → List (Nat × Nat × Nat) × Occ
  | [], o => ([], o)
  | (sl, k) :: t, o =>
    let r := o.seat lid pool sl k budget
    let q := Occ.put lid pool budget t r.2
    (r.1 :: q.1, q.2)
/-- A gang put on given seats: each group's places and its scratchpad base, and what is then taken. -/
def Occ.putGang (lid pool : Nat) : List (Nat × Nat × Stage) → List (List (Nat × Nat)) → Occ →
    List (List (Nat × Nat × Nat) × Nat) × Occ
  | (_, _, st) :: t, ps :: rest, o =>
    let r := Occ.put lid pool st.regs ps o
    let base := freeRun o.scratch st.scratch
    let q := Occ.putGang lid pool t rest { r.2 with scratch := if st.scratch == 0 then r.2.scratch else (base, st.scratch) :: r.2.scratch }
    ((r.1, base) :: q.1, q.2)
  | _, _, o => ([], o)
/-- Whether some given seats are free, and with a gang on them the registers and the scratchpad suffice (R21). -/
def Occ.takes (lid pool : Nat) (gang1 : List (Nat × Nat × Stage)) (places : List (List (Nat × Nat))) (o : Occ) : Bool :=
  let o' := (Occ.putGang lid pool gang1 places o).2
  places.all (fun ps => ps.all fun p => !o.seats.contains p) && o'.regs 0 ≤ 1024 && o'.regs 1 ≤ 1024 &&
    (o'.scratch.map (·.2)).sum ≤ Config.scratchBytes
/-- What the groups of a core hold now: seated groups hold all, a group between phases its scratchpad and none of its registers (R249 step
5; R33 says all but the carry set, log entry 64). -/
def State.occ (s : State) (core : Nat) : Occ :=
  (s.groups.filter fun p => p.2.core == core).foldl (fun o p =>
    let g := p.2
    if g.place == GPlace.seated then
      let pool := s.poolOf g
      { seats := (g.bands.map fun b => (b.slice, b.seat)) ++ o.seats
        budgets := (g.bands.map fun b => (b.slice, g.budget)) ++ o.budgets
        rows := (g.bands.flatMap fun b => (b.slice, b.row0, g.budget) :: b.allChunks.map fun r => (b.slice, r, 16)) ++ o.rows
        pools := g.bands.foldl (fun ps b =>
          if ps.any fun q => q.1 == g.lid && q.2.1 == b.slice then ps else (g.lid, b.slice, pool) :: ps) o.pools
        scratch := if g.scratch == 0 then o.scratch else (g.scratchBase, g.scratch) :: o.scratch }
    else if g.place == GPlace.phase && g.scratch != 0 then { o with scratch := (g.scratchBase, g.scratch) :: o.scratch }
    else o) .empty

/-! ### Reading and checking a block (R12, R99) -/

/-- A launch block read from its 128 bytes, its box's x extent multiplied (R245): none where it is malformed (R12, R99,
R261, R272). -/
def Context.block (x : Context) (bs : List Byte) (mul : Nat) : Option Block :=
  let at_ (off n : Nat) : Nat := numAt bs off n
  let fl := at_ 0 2
  let bit (i : Nat) : Bool := fl / 2 ^ i % 2 == 1
  let k := at_ 2 1
  let tri (off : Nat) : Nat × Nat × Nat := (at_ off 2, at_ (off + 2) 2, at_ (off + 4) 2)
  let shape := tri 4
  let cluster := tri 0xA
  let box0 := tri 0x10
  let box := (box0.1 * mul, box0.2)
  let sym := at_ 0x16 2
  let sel := BitVec.ofNat 16 (at_ 0x66 2)
  let stages : List Stage := (List.range k).map fun i =>
    ⟨BitVec.ofNat 32 (at_ (0x20 + 16 * i) 4), at_ (0x24 + 16 * i) 2, at_ (0x26 + 16 * i) 2, at_ (0x28 + 16 * i) 4⟩
  let syms := ((tabGet x.codes sel.toNat).map (·.syms)).getD []
  let gens : Option (List Gen) := if bit 2 then ((syms[sym]?).join) else some []
  let b : Block :=
    { gang := bit 0, twin := bit 1, sym := bit 2, node := bit 3, shape := shape, cluster := cluster, box := box,
      gens := gens.getD [], recBytes := at_ 0x18 2, perGroup := at_ 0x1A 2, countdown := at_ 0x1C 4, stages := stages, code := sel }
  let n := b.threads
  let ext := b.extents
  let pos (t : Nat × Nat × Nat) : Bool := 1 ≤ t.1 && 1 ≤ t.2.1 && 1 ≤ t.2.2
  let ok :=
    bs.length == 128 && fl < 16 && 1 ≤ k && k ≤ 4 && at_ 3 1 == 0 && pos shape && pos cluster && pos box &&
    box.1 ≤ 65535 && 32 ≤ n && n ≤ 1024 && b.spots ≤ 192 && (!b.twin || n % 64 == 0) &&
    (stages.all fun st => st.regs % 8 == 0 && 16 ≤ st.regs && st.regs ≤ 256 && 1 ≤ st.groups && st.groups ≤ 8 &&
      st.scratch % 1024 == 0 && st.scratch ≤ Config.scratchBytes) &&
    ((List.range 4).all fun i => at_ (0x2C + 16 * i) 4 == 0 && (i < k || (at_ (0x20 + 16 * i) 8 == 0 && at_ (0x28 + 16 * i) 4 == 0))) &&
    b.spots * b.perGang ≤ 192 && ext.1 < 2 ^ 31 && ext.2.1 < 2 ^ 31 && ext.2.2 < 2 ^ 31 &&
    (at_ 0x68 8 == 0 && at_ 0x70 8 == 0 && at_ 0x78 8 == 0) &&
    (if bit 2 then gens.isSome else sym == 0xFFFF) && (bit 3 || at_ 0x18 8 == 0) &&
    (at_ 0x60 6 == 0 && !selFixed sel && (x.desc sel).kind == 4)
  if ok && (!b.sym || gensOk b) && (Occ.gang 0 x.pool b.bands b.twin b.gang1 .empty).isSome then some b else none

/-! ### Launches and bind records (R17, R18, R270) -/

/-- A launch accepted (R12, R273): its clusters with a position in the domain are to be admitted. -/
def State.newLaunch (s : State) (ctx : Nat) (b : Block) (handle arg : W64) (parent : Option Nat) (mbx : Option (Nat × Nat))
    (graph : Option Nat) (records : List (List Byte)) : Nat × State :=
  let (lid, s) := s.fresh
  let live := (List.range b.clusters).filter fun k => !(b.domain k).isEmpty
  let l : Launch :=
    { ctx := ctx, block := b, handle := handle, arg := arg, fixed := 0, parent := parent, mbx := mbx, graph := graph,
      records := records, toCommit := live.length,
      groupsLeft := ((live.map fun k => (b.domain k).length).sum) * b.perGang, bound := [] }
  (lid, { s with launches := tabSet s.launches lid l })
/-- Whether a group belongs to a partition that is held in a shadow slot (R339). -/
def State.inShadow (s : State) (gid : Nat) : Bool := s.shadows.any fun p => p.2.gids.contains gid
/-- Whether a partition holds nothing: no group that has not ended on its cores, those of a saved image apart, and no record in their slot
tables. -/
def State.partIdle (s : State) (part : Nat) : Bool :=
  !(s.groups.any fun p => partOf p.2.core == part && p.2.place != GPlace.ended && !s.inShadow p.1) &&
    !(s.cores.any fun p => partOf p.1 == part && !p.2.slots.isEmpty)
/-- The shadow slot and image that a save of a partition is still filling (R335, R339). -/
def State.saving (s : State) (part : Nat) : Option (Nat × Shadow) :=
  s.shadows.find? fun p => p.2.part == part && p.2.gids.any fun gid => ((s.group? gid).map fun g => g.moving).getD false
/-- A core on which groups are seated: its next age number, and what its free storage holds is no longer known (R108, R332, log entry 82). -/
def Core.reseat (k : Core) : Core := { k with teamNext := k.teamNext + 1, vacant := [], blank := false }
/-- A partition starts for a context (R17, R179): its accumulator memory is +0, and what its cores' other storage holds is no longer known. -/
def State.startPart (s : State) (part ctx : Nat) : State :=
  { s.modPart part fun p => { p with owner := some ctx } with
    cores := s.cores.map fun p =>
      if partOf p.1 == part then (p.1, { p.2 with tiles := [], vacant := [], blank := false }) else p }
/-- A partition as a writer of bind records for a context finds it: an idle one passes to that context (log entry 15). -/
def State.claimPart (s : State) (part ctx : Nat) : State :=
  if s.partIdle part && (s.saving part).isNone && (s.part part).owner != some ctx then s.startPart part ctx else s
/-- A bind record written to a core's slot table; none where the ring is full (R270). A record of the context whose partition is being saved
goes into the image (R25). -/
def State.writeSlot (s : State) (core : Nat) (r : BindRec) : Option State :=
  match (s.saving (partOf core)).filter fun p => p.2.partition.owner == some r.ctx with
  | some (slot, sh) =>
    let k := tabGetD sh.cores core .zero
    if 64 ≤ k.slots.length then none
    else some { s with shadows := tabSet s.shadows slot { sh with cores := tabSet sh.cores core { k with slots := k.slots ++ [r] } } }
  | none =>
    if 64 ≤ (s.core core).slots.length then none
    else some ((s.claimPart (partOf core) r.ctx).modCore core fun k => { k with slots := k.slots ++ [r] })
/-- The clusters of a launch that are to be admitted (R273). -/
def Launch.live (l : Launch) : List Nat := (List.range l.block.clusters).filter fun k => !(l.block.domain k).isEmpty
/-- Those of them that no bind record has been written for (R17). -/
def Launch.unbound (l : Launch) : List Nat := l.live.filter fun k => !l.bound.contains k
/-- The bind records of a launch's next clusters as a policy's decisions place them (R17, R19): for each its partition,
with a tag of that partition, and for each gang its core. A `.gang` launch takes one tag in each partition (R19). -/
def bindsOf (l : Launch) (lid : Nat) (pol : Policy) (tagOf : Nat → Nat → Word) : List (Nat × BindRec) :=
  (mapIdx (fun i k =>
    let part := pol.parts.getD i 0
    (mapIdx (fun j pos =>
      (part * Config.coresPerCluster + (pol.cores.getD i []).getD j 0,
        ({ kind := 1, cls := (pol.cls.getD i []).getD j 0, gang := l.block.gang, rsv := false, ctx := l.ctx, tag := tagOf i part, handle := l.handle,
           cluster := k, position := pos, arg := l.arg, lid := some lid, gid := none, reserved := false, hold := .zero, places := [] } : BindRec)))
      (l.block.domain k) 0)) (l.unbound.take pol.parts.length) 0).flatten
/-- Whether a policy's decisions are decisions for the next clusters of a launch: a partition, and for each gang a class and a core;
those of a `.gang` launch are placed together (R19, log entry 72). -/
def polOk (l : Launch) (pol : Policy) : Bool :=
  let n := pol.parts.length
  1 ≤ n && n ≤ l.unbound.length && (!l.block.gang || n == l.unbound.length) && pol.cores.length == n && pol.cls.length == n &&
    (pol.parts.all (· < Config.partitions)) &&
    ((l.unbound.zip pol.cores).all fun p => p.2.length == (l.block.domain p.1).length && p.2.all (· < Config.coresPerCluster)) &&
    (l.unbound.zip pol.cls).all fun p => p.2.length == (l.block.domain p.1).length && p.2.all (· ≤ 3)
/-- How many clusters before the i-th go to its partition. -/
def priorIn (parts : List Nat) (i : Nat) : Nat := ((parts.take i).filter fun p => some p == parts[i]?).length
/-- The policy writes the bind records of a launch's next clusters (R17): none where the decisions are none, the partitions belong to other
contexts, or a slot table is full. -/
def State.writeBinds (s : State) (lid : Nat) (pol : Policy) : Option State :=
  match s.launch? lid with
  | none => none
  | some l =>
    let s1 := pol.parts.foldl (fun s p => s.claimPart p l.ctx) s
    if !polOk l pol || !(pol.parts.all fun p => (s1.part p).owner == some l.ctx) then none
    else
      let tagOf (i part : Nat) : Word :=
        (s1.part part).nextTag + (if l.block.gang then 0 else BitVec.ofNat 32 (priorIn pol.parts i))
      let s2 := (bindsOf l lid pol tagOf).foldl (fun (a : Option State) r => a.bind fun s => s.writeSlot r.1 r.2) (some s1)
      s2.map fun s => (pol.parts.eraseDups.foldl (fun s p => s.modPart p fun q =>
        { q with nextTag := q.nextTag + (if l.block.gang then 1 else BitVec.ofNat 32 ((pol.parts.filter (· == p)).length)) }) s).modLaunch
          lid fun l => { l with bound := l.bound ++ l.unbound.take pol.parts.length }
/-- A launch that some clusters are still to be placed for, if one meets a test: the policy finishes it before it takes another. -/
def State.unfinished (s : State) (mine : Nat → Launch → Bool) : Option Nat :=
  (s.launches.find? fun p => mine p.1 p.2 && !p.2.unbound.isEmpty).map (·.1)

/-! ### Seating (R19 to R25) -/

/-- A thread as its group is first seated (R23). -/
def newThread (b : Block) (cluster pos k : Nat) (entry : PC) (record : Option (List Byte)) : Thread :=
  let ix := b.index cluster pos k
  { pc := entry, live := k < b.threads, stopped := false, breakPassed := false, demoted := false, yielded := false, depth := 0,
    xstack := [], wait := .none, next := ⟨0, 0⟩, nap := 0, spin := none, v := [], vUnder := [], o := [], lq := .zero, pend := [], p := 0,
    fflags := 0, batch := 0, bdone := 0, openOps := 0, sealed := [], ix := BitVec.ofNat 32 ix.1, iy := BitVec.ofNat 32 ix.2.1,
    iz := BitVec.ofNat 32 ix.2.2, canon := b.canonical ix, record := record, pcChanged := true, woken := false, fences := [] }
/-- A band as its group is first seated on a slice, a seat and a first row (R23, R205). -/
def newBand (b : Block) (cluster pos cls : Nat) (entry : PC) (arg : W64) (records : List (List Byte)) (i : Nat)
    (place : Nat × Nat × Nat) : Band :=
  { slice := place.1, seat := place.2.1, cls := cls,
    threads := (List.range 32).map fun l => newThread b cluster pos (32 * i + l) entry records[32 * i + l]?,
    b := [(0, arg.extractLsb' 0 32), (1, arg.extractLsb' 32 32)], q := 0, held := 0, paired := b.twin, mmaCount := 0,
    guideCount := 0, hwm := 65536, cbase := arg, row0 := place.2.2, chunks := [], under := [], brk := none, guide := none, fault := none }
/-- The group of a stage and unit at a place (R14, R23), with its age among the groups of its core (R108): by the cycle in which it was
seated, and in one cycle by S.GROUP. -/
def newGroup (l : Launch) (lid cid core : Nat) (r : BindRec) (idx : Nat) (su : Nat × Nat × Stage)
    (place : List (Nat × Nat × Nat) × Nat) (team : Nat) : Group :=
  let entry : PC := ⟨l.block.code, su.2.2.entry⟩
  { ctx := l.ctx, lid := lid, cid := cid, number := r.position * l.block.perGang + idx, unit := su.2.1, stage := su.1,
    position := r.position, n := l.block.threads, budget := su.2.2.regs, scratch := su.2.2.scratch, scratchBase := place.2,
    entry := entry, core := core, place := .seated, moving := false,
    teamOrder := 256 * team + (r.position * l.block.perGang + idx),
    bands := mapIdx (fun i p => newBand l.block r.cluster r.position r.cls entry l.arg l.records i p) place.1 0,
    accMask := 0, inlmax := 0, inl := [], arrive := [], cbarCount := 0, graph := l.graph, node := l.block.node, halted := false,
    tiles := [], saveQ := [], follows := [], known := [] }
/-- The places of a gang's groups on the seats that its record has reserved. -/
def State.gangPlaces (s : State) (core lid : Nat) (l : Launch) (r : BindRec) : List (List (Nat × Nat × Nat) × Nat) :=
  (Occ.putGang lid (((s.ctx? l.ctx).map (·.pool)).getD 0) l.block.gang1 r.places (s.occ core)).1
/-- Whether a placement of a gang runs past the end of a lane bank or of the scratchpad. -/
def placesOver (b : Block) (places : List (List (Nat × Nat × Nat) × Nat)) : Bool :=
  (b.gang1.zip places).any fun q =>
    q.2.1.any (fun p => 1024 < p.2.2 + q.1.2.2.regs) || Config.scratchBytes < q.2.2 + q.1.2.2.scratch
/-- A gang seated on a core under a bind record, on the seats it has reserved (R16, R19, R21, R23). What happens before it happens before
whatever its groups do. -/
def State.seatGang (s : State) (core lid cid : Nat) (l : Launch) (r : BindRec) : State :=
  let s := s.packSeats core fun s => placesOver l.block (s.gangPlaces core lid l r)
  (mapIdx (fun i p => (i, p)) (l.block.gang1.zip (s.gangPlaces core lid l r)) 0).foldl (fun s q =>
    let (gid, s) := s.fresh
    let g := newGroup l lid cid core r q.1 q.2.1 q.2.2 (s.core core).teamNext
    { s with groups := tabSet s.groups gid { g with known := s.writes.map (·.id) } }) s
/-- Whether a partition runs at a service level (R356). -/
def State.partRuns (s : State) (part : Nat) : Bool :=
  if s.level == 0 then false else if s.level == 1 then s.ensign == some (part / 2) else true
/-- Whether seating is open to a context: its halt line is low (R25). -/
def State.lineLow (s : State) (ctx : Nat) : Bool := ((s.ctx? ctx).map fun x => !x.line).getD false

/-- A bind record discarded at the head of a slot table, with a PLACEMENT event (R17, R20, R270). The event follows the claim map of the
record's context; where that context does not exist there is none (log entry 94). -/
def State.dropHead (s : State) (core : Nat) (r : BindRec) : State :=
  let s := s.modCore core fun k => { k with slots := k.slots.drop 1 }
  if (s.ctx? r.ctx).isSome then (s.postOpen r.ctx clPlacement s.nextId 0 0 none false).2.2 else s
/-- What the groups of a core and its reserved records have taken (R19). -/
def State.reservedOcc (s : State) (core : Nat) : Occ :=
  ((s.core core).slots.filter (·.reserved)).foldl (fun o r =>
    match r.lid.bind s.launch?, r.lid with
    | some l, some lid => (Occ.putGang lid (((s.ctx? l.ctx).map (·.pool)).getD 0) l.block.gang1 r.places o).2
    | _, _ => o) (s.occ core)
/-- Records that no longer hold what they had reserved, because an earlier source of the core has taken it (R24): from the first whose seats,
registers or scratchpad are gone, they wait for it again. -/
def State.keepReserved (s : State) : List BindRec → Occ → List BindRec
  | [], _ => []
  | r :: t, o =>
    match r.reserved, r.lid.bind s.launch?, r.lid with
    | true, some l, some lid =>
      let pool := ((s.ctx? l.ctx).map (·.pool)).getD 0
      if Occ.takes lid pool l.block.gang1 r.places o then r :: s.keepReserved t (Occ.putGang lid pool l.block.gang1 r.places o).2
      else (r :: t).map fun q => { q with reserved := false, places := [] }
    | _, _, _ => r :: s.keepReserved t o
/-- The budget of every band that a record asks for, and its scratchpad bytes. -/
def State.demand (s : State) (r : BindRec) : List Nat × Nat :=
  match r.kind, r.lid.bind s.launch?, r.gid.bind s.group? with
  | 1, some l, _ =>
    (l.block.gang1.flatMap fun q => List.replicate l.block.bands q.2.2.regs, (l.block.gang1.map fun q => q.2.2.scratch).sum)
  | 2, _, some g => (List.replicate g.bands.length g.budget, g.scratch)
  | _, _, _ => ([], 0)
/-- Seats and registers held for a record of a launch as far as they are free (R19): a seat for each band, on the slice R22 chooses, with as
much of its budget, and of the team's pool where the slice has none yet (R21), as is left there. -/
def Occ.holdBands (lid pool : Nat) : List Nat → Occ → Hold → Hold
  | [], _, h => h
  | bg :: t, o, h =>
    let sl := o.choose (o.freeSeats 0) (o.freeSeats 1)
    match (o.freeSeats sl).head? with
    | none => h
    | some k =>
      let want := bg + if o.pools.any fun p => p.1 == lid && p.2.1 == sl then 0 else 16 * pool
      let n := min want (1024 - o.regs sl)
      Occ.holdBands lid pool t { o with seats := (sl, k) :: o.seats, budgets := (sl, n) :: o.budgets, pools := (lid, sl, 0) :: o.pools }
        (if sl == 0 then { h with seats0 := h.seats0 + 1, regs0 := h.regs0 + n } else { h with seats1 := h.seats1 + 1, regs1 := h.regs1 + n })
/-- The launch of a bind record, and its team's pool (R106). -/
def State.teamOf (s : State) (r : BindRec) : Nat × Nat :=
  match r.gid.bind s.group? with
  | some g => (g.lid, s.poolOf g)
  | none => (r.lid.getD 0, ((s.ctx? r.ctx).map (·.pool)).getD 0)
/-- What a core holds for a record whose demand does not fit yet. -/
def Occ.holdFor (o : Occ) (team : Nat × Nat) (d : List Nat × Nat) : Hold :=
  { Occ.holdBands team.1 team.2 d.1 o .zero with scratch := min d.2 (Config.scratchBytes - (o.scratch.map (·.2)).sum) }
/-- Where the bands of the group at the head of a core's phase queue go, when its seats and budgets fit (R21, R250). What the head
of the slot table has reserved or holds is no hindrance: it does not block an earlier source (R24). -/
def State.phaseFit (s : State) (core : Nat) : Option (Nat × Group × List (Nat × Nat × Nat)) :=
  match (s.core core).phaseQ with
  | [] => none
  | gid :: _ =>
    match s.group? gid with
    | some g =>
      if !s.lineLow g.ctx || !s.partRuns (partOf core) then none
      else
        match Occ.place g.lid (s.poolOf g) g.budget (s.sleeves g) g.bands.length (s.occ core) [] with
        | none => none
        | some (ps, o') => if 1024 < o'.regs 0 || 1024 < o'.regs 1 then none else some (gid, g, ps)
    | none => none
/-- A slot table's records with their first unreserved one changed. -/
def modHead (f : BindRec → BindRec) : List BindRec → List BindRec
  | [] => []
  | r :: t => if r.reserved then r :: modHead f t else f r :: t
/-- SEATING (R19, R20, R24, R25): the head of a core's slot table is discarded, waits and holds what becomes free, or, with the partition's
current tag, has its seats, registers and scratchpad reserved, on the seats R22 gives it now; records of one admission that follow it are then
served likewise. The head of the phase queue goes first. A tag is below another when the difference of the two is 2^31 or more (log entry 62),
and a record whose launch is not known is discarded without its tag's being passed (log entry 63). -/
def execSeating (core : Nat) (s : State) : Out :=
  .next (
    let part := partOf core
    let p := s.part part
    let slots := (s.core core).slots
    match slots.find? fun r => !r.reserved with
    | none => s
    | some r =>
      let atHead := (slots.head?).map (·.reserved) != some true
      let stopped := ((s.ctx? r.ctx).map (·.line)).getD false
      let bad := r.rsv || !(r.kind == 1 || r.kind == 2) || p.owner != some r.ctx || (r.tag - p.tag).toNat ≥ 2 ^ 31
      -- the image a RESUME record names is gone: its context was torn down (log entry 33)
      let lost := r.kind == 2 && r.tag == p.tag && ((r.gid.map s.gone).getD true)
      let keep (o : Occ) : State := s.modCore core fun k => { k with
        slots := modHead (fun r => { r with hold := o.holdFor (s.teamOf r) (s.demand r) }) k.slots }
      if stopped || (s.phaseFit core).isSome then s
      else if atHead && bad then s.dropHead core r
      else if atHead && lost then (s.dropHead core r).modPart part fun p => { p with tag := p.tag + 1 }
      else if bad || !s.partRuns part || r.tag != p.tag then s
      else if r.kind == 2 then
        if atHead then keep (s.reservedOcc core) else s
      else
        match r.lid.bind s.launch?, r.lid with
        | some l, some lid =>
          match Occ.gang lid (((s.ctx? l.ctx).map (·.pool)).getD 0) l.block.bands l.block.twin l.block.gang1 (s.reservedOcc core) with
          | none => keep (s.reservedOcc core)
          | some (ps, _) =>
            s.modCore core fun k => { k with slots := modHead (fun r =>
              { r with reserved := true, hold := .zero, places := ps.map fun q => q.1.map fun p => (p.1, p.2.1) }) k.slots }
        | _, _ => if atHead then s.dropHead core r else s)
/-- The reserved records of a launch, with their cores. -/
def State.reservedOf (s : State) (lid : Nat) : List (Nat × BindRec) :=
  s.cores.flatMap fun p => (p.2.slots.filter fun r => r.reserved && r.lid == some lid).map fun r => (p.1, r)
/-- Seat tables of a partition in use (R271); those of an image in a shadow slot are in the slot (R339). -/
def State.tablesUsed (s : State) (part : Nat) : Nat :=
  (s.clusters.filter fun p => p.2.part == part && s.groups.any fun g => g.2.cid == p.1 && g.2.place != GPlace.ended && !s.inShadow g.1).length
/-- One cluster seated: its record, its gangs, its slots emptied (R19, R271). -/
def State.seatCluster (s : State) (lid part number : Nat) (rs : List (Nat × BindRec)) : Option State :=
  match s.launch? lid with
  | none => none
  | some l =>
    let (cid, s) := s.fresh
    let s := { s with clusters := tabSet s.clusters cid ⟨lid, part, number, 0, 0⟩ }
    let s := rs.foldl (fun s r => s.seatGang r.1 lid cid l r.2) s
    some (rs.foldl (fun s r => s.modCore r.1 fun k => { k with slots := k.slots.filter fun q => !(q == r.2) }) s)
/-- The clusters that commit together with those of a partition's current tag: one cluster, or every cluster of a `.gang`
launch (R19): the partition, cluster number and records of each. -/
def State.admission (s : State) (part : Nat) : Option (Nat × List (Nat × Nat × List (Nat × BindRec))) :=
  let tag := (s.part part).tag
  let heads := s.cores.flatMap fun p =>
    if partOf p.1 == part then (p.2.slots.filter fun r => r.reserved && r.tag == tag).map fun r => (p.1, r) else []
  match heads.head? with
  | none => none
  | some (_, r) =>
    match r.lid, r.lid.bind s.launch? with
    | some lid, some l =>
      let nums := if l.block.gang then (List.range l.block.clusters).filter fun k => !(l.block.domain k).isEmpty else [r.cluster]
      let all := s.reservedOf lid
      let sets := nums.map fun k => (k, all.filter fun q => q.2.cluster == k)
      if sets.all fun p => p.2.length == (l.block.domain p.1).length then
        some (lid, sets.map fun p => (((p.2.head?).map fun q => partOf q.1).getD part, p.1, p.2))
      else none
    | _, _ => none
/-- A launch with one more cluster committed: its mailbox record completes SEATED with the last (R237). -/
def State.committed (s : State) (lid : Nat) : State :=
  let s := s.modLaunch lid fun l => { l with toCommit := l.toCommit - 1 }
  match s.launch? lid with
  | some l =>
    match l.mbx with
    | some (m, q) => if l.toCommit == 0 then s.completeRec l.ctx m q 0 else s
    | none => s
  | none => s
/-- ADMISSION_COMMIT (R19): when every record of the current tag is reserved, every gang is seated in one cycle and the tag
rises. -/
def execAdmissionCommit (part : Nat) (s : State) : Out :=
  .next (
    match s.admission part with
    | none => s
    | some (lid, cs) =>
      let ctx := ((s.launch? lid).map (·.ctx)).getD 0
      let parts := (cs.map (·.1)).eraseDups
      let room := parts.all fun p =>
        s.tablesUsed p + (cs.filter fun c => c.1 == p).length ≤ 64 && s.partRuns p
      let cores := (cs.flatMap fun c => c.2.2.map (·.1)).eraseDups
      if !room || !s.lineLow ctx || cores.any fun k => (s.phaseFit k).isSome then s
      else
        match cs.foldl (fun (a : Option State) c => a.bind fun s => s.seatCluster lid c.1 c.2.1 c.2.2) (some s) with
        | none => s
        | some s' =>
          let s' := cores.foldl (fun s k => s.modCore k Core.reseat) s'
          let s' := cs.foldl (fun s _ => s.committed lid) s'
          parts.foldl (fun s p => s.modPart p fun q => { q with tag := q.tag + 1 }) s')
/-- LAUNCH_RECORD (R237, R17, R350): the oldest accepted record of a LAUNCHER mailbox is consumed. In hardware mode the policy's decisions
place the launch, whole or its next clusters; a block that holds an uncorrectable error counts as one that cannot be read (log entry 99); it
finishes a launch before it takes another. In host-assisted mode the lease holder's BIND requests do. -/
def execLaunchRecord (ctx mbx : Nat) (pol : Policy) (s : State) : Out :=
  .next (
    match if s.ensignRuns then s.mbx? ctx mbx else none, s.ctx? ctx with
    | some b, some x =>
      let open_ := if s.mode.getLsbD 1 then s.unfinished fun _ l => l.ctx == ctx && l.mbx.map (·.1) == some mbx else none
      let q := b.nextTake
      match open_ with
      | some lid => (s.writeBinds lid pol).getD s
      | none =>
      if !b.launcher || !b.enabled || b.accepted < q then s
      else
        let rec_ := (tabGet b.recs q).getD []
        let blockH := BitVec.ofNat 64 (numAt rec_ 0 8)
        let arg := BitVec.ofNat 64 (numAt rec_ 8 8)
        let s0 := s.hostSync b.port [0, 1, 2, 3]
        let took := s0.modMbx ctx mbx fun b => { b with taken := (q + 1) % 2 ^ 64 }
        if (rec_.drop 16).any (· != 0) then took.completeRec ctx mbx q 1
        else
          match (if selFixed (hsel blockH) then Res.halt 1 rNull else s0.descSeg x (hsel blockH) (hoff blockH) 128 .load) with
          | .halt _ _ => took.completeRec ctx mbx q 2
          | .ok sp ks =>
            if s0.ecc ks then took.completeRec ctx mbx q 2
            else
            match x.block (ks.map fun k => s0.readByte (s.ensign.getD 0) s.nextId 0 32 sp k) 1 with
            | none => took.completeRec ctx mbx q 1
            | some blk =>
              let (lid, s1) := took.newLaunch ctx blk blockH arg none (some (mbx, q)) none []
              if ((s1.launch? lid).map (·.toCommit)).getD 0 == 0 then s1.completeRec ctx mbx q 0
              else if s.mode.getLsbD 1 then (s1.writeBinds lid pol).getD s else s1
          | _ => s
    | _, _ => s)

end Sys2Proof.Machine
end

