-- ==== Sys2Proof/Machine/Queues.lean ====
section
/-! DEFINITION. Work-graph records, children and phases (R242 to R250): REC, RECGET, FORK with its swap-out and its inline
children, PHASE, and their events. -/

namespace Sys2Proof.Machine

/-! ### Records (R242 to R244) -/

/-- The graph of a record or child of a group: its own where it is a node group or the child of one (R242). -/
def Group.graphOr (g : Group) (n : Nat) : Nat := g.graph.getD n
/-- A member of a graph's ring has sent a record or a child to its cluster's first core, which never lies above it: it turns
black (R253). -/
def State.blacken (s : State) (ctx graph core : Nat) : State :=
  s.modCtx ctx fun x => if x.blacks.contains (graph, core) then x else { x with blacks := (graph, core) :: x.blacks }
/-- Lanes that wait for room in a gather buffer retry. -/
def State.wakeQueue (s : State) (ctx : Nat) (w : QWait) : State :=
  (s.bandsOf ctx).foldl (fun s p => s.wakeRetry p.1 p.2 (· == Wait.queue w)) s
/-- Whether a block may be a node of a work graph (R91, R242). The limits of R91 on its record bytes and records per group hold here too; a
countdown of 0 is accepted (log entry 69). -/
def Block.isNode (b : Block) : Bool :=
  b.node && b.stages.length == 1 && b.cluster == (1, 1, 1) && 1 ≤ b.recBytes && b.recBytes ≤ 64 && 1 ≤ b.perGroup &&
    b.perGroup ≤ b.threads
/-- One record into the gather buffer of a node in a partition; an empty buffer's countdown starts (R243). -/
def Partition.addRecord (p : Partition) (ctx : Nat) (handle : W64) (graph countdown : Nat) (r : List Byte) : Partition :=
  let mine (q : Gather) : Bool := q.ctx == ctx && q.handle == handle && q.graph == graph
  let cd := BitVec.ofNat 32 countdown
  if p.gathers.any mine then
    { p with gathers := p.gathers.map fun q => if mine q then
        { q with records := q.records ++ [r], running := true, count := if q.records.isEmpty then cd else q.count } else q }
  else { p with gathers := p.gathers ++ [⟨ctx, handle, graph, true, cd, [r]⟩] }
/-- Records a buffer holds. -/
def Partition.recordsOf (p : Partition) (ctx : Nat) (handle : W64) (graph : Nat) : Nat :=
  ((p.gathers.find? fun q => q.ctx == ctx && q.handle == handle && q.graph == graph).map (·.records.length)).getD 0
/-- The record a lane emits: the first r bytes of its registers from d on (R242). -/
def recordOf (t : Thread) (d r : Nat) : List Byte :=
  ((List.range ((r + 3) / 4)).flatMap fun i => bytesOfNat 4 (t.getV (d + i)).toNat).take r
/-- REC (R242): all checks of all lanes first; it waits whole while a buffer has no room for its records. -/
def execRecEmit (h : Hdr) (gr : BitVec 8) (d a : Opd) (s : State) : Out :=
  withRegs s [(d, 1), (a, 2)] fun c g bd =>
    let s := (laneEnvs s c g bd (guarded h c bd)).foldl (fun s e =>
      s.landAt c.gid c.band e.lane (e.access (hsel (e.read true a)) (hoff (e.read true a)) 128 .load false).res) s
    let es := laneEnvs s c g bd (guarded h c bd)
    let vd := match d with
      | .v i => i.toNat
      | _ => 0
    match s.ctx? g.ctx with
    | none => s
    | some x =>
      let items : List (Env × Access × Option Block) := es.map fun e =>
        let hd := e.read true a
        let acc := e.access (hsel hd) (hoff hd) 128 .load false
        match acc.res with
        | .ok sp ks =>
          let blk := (x.block (ks.map fun k => s.readByte g.die c.gid c.band e.lane sp k) 1).filter fun b =>
            b.isNode && vd + (b.recBytes + 3) / 4 ≤ allotment g bd
          (e, { acc with res := acc.res.orIllegal blk.isNone }, blk)
        | _ => (e, acc, none)
      s.checked c g.ctx (items.map (·.2.1)) (
        match items.find? fun i => s.ecc (keysOf [i.2.1]) with
        | some i =>
          let s := s.hardErr c g.die i.1.lane (keysOf [i.2.1]) i.2.1.h 0
          if s.gone c.gid then s.advanceSplit c else s
        | none =>
        match items.find? fun i => i.2.2.any fun b => s.ecc (fileBytes c.gid c.band i.1.lane [(d, (b.recBytes + 3) / 4)]) with
        | some i => (s.countErr g.die 3 true).memErr c.gid c.band c.active i.1.lane c.pc 0 0 3
        | none =>
        let graph := g.graphOr gr.toNat
        let part := partOf g.core
        let recs : List (W64 × List Byte × Nat) := items.filterMap fun i => i.2.2.map fun b =>
          (i.2.1.h, recordOf i.1.t vd b.recBytes, b.countdown)
        if recs.isEmpty then s.advanceSplit c
        else if recs.any fun r => 4096 < (s.part part).recordsOf g.ctx r.1 graph + (recs.filter fun q => q.1 == r.1).length then
          s.holdLanes c c.active (.queue .recs)
        else
          let s := es.foldl (fun s e => s.freezeLoads c.gid c.band e.lane) s
          let s := (s.release c.gid g.die .dv false).modPart part fun p => recs.foldl (fun p r => p.addRecord g.ctx r.1 graph r.2.2 r.2.1) p
          ((s.blacken g.ctx graph g.core).commandIssued c (guarded h c bd)).advanceSplit c)
/-- RECGET (R244), an acquire at device scope: the words, and then the predicate, are pushed; a thread without a record reads zeros. -/
def execRecget (h : Hdr) (d a : Opd) (s : State) : Out :=
  let vd := match d with
    | .v i => i.toNat
    | _ => 0
  withRegs s [(d, 1)] fun c g bd =>
    let r := ((s.launch? g.lid).map (·.block.recBytes)).getD 0
    let k := (r + 3) / 4
    if !g.node || !g.inl.isEmpty || allotment g bd < vd + k then s.haltSplit c rIllegalOperand 0
    else
      let s := if guarded h c bd == 0#32 then s else (s.freezeBand c.gid c.band (guarded h c bd)).acquire c.gid g.die
      (s.modBand c.gid c.band fun b => b.onLanes c.active fun _ t =>
        if !laneGuard h t then t.advance c.next
        else
          let bs := t.record.getD []
          let t' := (List.range k).foldl (fun (t : Thread) i =>
            t.put32 (.v (BitVec.ofNat 8 (vd + i))) (BitVec.ofNat 32 (natOfBytes ((bs.drop (4 * i)).take 4)))) t
          (match a with
            | .p i => t'.setP i t.record.isSome
            | _ => t').advance c.next).commandIssued c (guarded h c bd)
/-- A node block as the gatherer launches it: one group (R243), whatever box and unit count the block gives. -/
def Block.oneGroup (b : Block) : Block := { b with box := (1, 1, 1), stages := b.stages.map fun st => { st with groups := 1 } }
/-- NODE_COUNTDOWN_EXPIRY (R243): the gatherer of a buffer launches one group with the oldest perGroup records, when it holds so
many or its countdown has run out, through a bind record that the policy places, while the ensign pair runs (R350, log entry 84), or, in
host-assisted mode, the lease holder. The policy argument names the core. -/
def execNodeCountdownExpiry (part gather : Nat) (pol : Policy) (s : State) : Out :=
  .next (
    match (s.part part).gathers[gather]? with
    | none => s
    | some q =>
      match s.ctx? q.ctx, s.devRead q.ctx q.handle 0 128 with
      | some x, some bs =>
        match x.block bs 1 with
        | none => s
        | some b =>
          if q.records.isEmpty || !((q.running && q.count == 0#32) || b.perGroup ≤ q.records.length) || pol.parts != [part] then s
          else
            let take_ := q.records.take (max b.perGroup 1)
            let (lid, s1) := s.newLaunch q.ctx b.oneGroup q.handle 0 none none (some q.graph) take_
            match if s.mode.getLsbD 1 then (if s.ensignRuns then s1.writeBinds lid pol else none) else some s1 with
            | none => s
            | some s2 =>
              (s2.modPart part fun p => { p with
                gathers := (mapIdx (fun i (y : Gather) =>
                  if i == gather then { y with records := y.records.drop take_.length, running := true, count := BitVec.ofNat 32 b.countdown } else y) p.gathers 0).filter
                    fun y => !y.records.isEmpty }).wakeQueue q.ctx .recs
      | _, _ => s)

/-! ### Swapping a group out and in (R184, R220, R227, R245, R335) -/

/-- A band whose chunks have returned, those of the programs outside an inline child too (R110). -/
def Band.noChunks (b : Band) : Band :=
  { b with
    held := 0, chunks := [], under := b.under.map fun u => { u with held := 0, chunks := [] },
    threads := b.threads.map fun t => { t with vUnder := t.vUnder.map fun _ => [] } }
/-- The tile and gather operations of some groups go into a save image (R205, R335). -/
def State.imageCopies (s : State) (on : Bool) (gids : List Nat) : State :=
  if on then { s with copies := s.copies.map fun (cp : Copy) => if cp.tiled && gids.contains cp.gid then { cp with away := true } else cp }
  else s
/-- A saved operation that starts its remaining line operations anew (R335). -/
def Copy.unstart (cp : Copy) : Copy :=
  { cp with pieces := cp.pieces.map fun p => if p.landed then p else { p with started := false } }
/-- The tile and gather operations of a group come back from a save image, to a core (R335). -/
def State.bringCopies (s : State) (gid core : Nat) : State :=
  { s with copies := s.copies.map fun (cp : Copy) =>
      if cp.away && cp.gid == gid then { cp.unstart with away := false, core := core } else cp }
/-- Whether a core has room for a group's tile and gather operations that come back (R205). -/
def State.bringRoom (s : State) (gid core : Nat) : Bool :=
  (s.copies.filter fun cp => cp.tiled && if cp.away then cp.gid == gid else cp.core == core).length ≤ 64
/-- The ACC write mask with the tiles of a group's pending follow-ons, as they enter the queue (R179, R184, R220). -/
def Group.markFollows (g : Group) : Group := g.follows.foldl (fun g q => g.markAcc q.kind) g
/-- The follow-on MMAs of a group that wait for room in a matrix command queue go with it into its save image, in the order of completion
(R220). -/
def State.keepFollows (s : State) (gid : Nat) : State := (s.waitingFollows.filter fun q => q.gid == gid).foldl State.issueFollow s
/-- A group leaves its seats for a save image (R227, R245, R335): its accesses return, its queued matrix commands and the
tiles of its write mask go with it, a pre-empted group's tile and gather operations too, and after FORK its chunks return. The move ends
later. -/
def State.swapOut (s : State) (gid : Nat) (place : GPlace) : State :=
  match s.group? gid with
  | none => s
  | some g =>
    let s := s.returnLoads gid
    let k := s.core g.core
    if s.gone gid then s else
    let s := s.modCore g.core fun k => { k with mq := k.mq.filter fun q => q.gid != gid }
    ((s.modGroup gid fun g => { g with
      place := place
      moving := true
      saveQ := k.mq.filter fun q => q.gid == gid
      tiles := ((List.range 16).filter g.accMask.getLsbD).map fun t => (t, k.tile t)
      bands := g.bands.map fun b => if place == GPlace.forked then b.noChunks else b }).imageCopies (place == GPlace.preempted) [gid]).keepFollows gid
      |>.wakeEngine g.core
/-- Whether a wait is for a page or for private growth (R336). -/
def Wait.parks : Wait → Bool
  | .page _ _ | .growth _ => true
  | _ => false
/-- A thread as any re-seat leaves it (R23, R74, R161, R336): spin record, demoted, yield and nap are cleared, its PC is to be
checked, and a page or growth park retries. -/
def Thread.reseated (t : Thread) : Thread :=
  { t with
    spin := none, demoted := false, yielded := false, nap := 0, pcChanged := true
    woken := t.woken && !t.wait.parks, wait := if t.wait.parks then .none else t.wait }
/-- A saved group's bands placed on their slices with their chunks, which a restore after pre-emption keeps (R15, R110); the second of a
pair of sleeves goes beside the first. -/
def Occ.placeKept (lid pool budget : Nat) (twin : Bool) : List Band → Occ → Option Nat → Option (List (Nat × Nat × Nat × List Nat) × Occ)
  | [], o, _ => some ([], o)
  | b :: t, o, first =>
    match (match first with
      | some k => some (k + 1)
      | none => ((if twin then o.freePairs b.slice else o.freeSeats b.slice).head? : Option Nat)) with
    | none => none
    | some k =>
      let (p, o) := o.seat lid pool b.slice k budget
      let cs := newChunks ((o.rows.filter fun q => q.1 == b.slice).map (·.2)) b.allHeld
      match Occ.placeKept lid pool budget twin t { o with rows := (cs.map fun r => (b.slice, r, 16)) ++ o.rows }
          (if twin && first.isNone then some k else none) with
      | some (ps, o) => some ((p.1, p.2.1, p.2.2, cs) :: ps, o)
      | none => none
/-- Where the bands of a saved group go on a core, when R21 and R110 hold. -/
def State.placeSaved (s : State) (core : Nat) (g : Group) (o : Occ) : Option (List (Nat × Nat × Nat × List Nat) × Nat) :=
  let pool := s.poolOf g
  let twin := s.sleeves g
  let base := freeRun o.scratch g.scratch
  let fits (o' : Occ) : Bool :=
    o'.regs 0 ≤ 1024 && o'.regs 1 ≤ 1024 && (o.scratch.map (·.2)).sum + g.scratch ≤ Config.scratchBytes
  if g.place == GPlace.preempted then
    match Occ.placeKept g.lid pool g.budget twin g.bands o none with
    | none => none
    | some (ps, o') =>
      let chunks (sl : Nat) : Nat := ((g.bands.filter fun b => b.slice == sl).map Band.allHeld).sum
      if fits o' && (List.range 2).all fun sl => s.teamHeld core g.lid sl + chunks sl ≤ pool then some (ps, base) else none
  else
    match Occ.place g.lid pool g.budget twin g.bands.length o [] with
    | none => none
    | some (ps, o') => if fits o' then some (ps.map fun p => (p.1, p.2.1, p.2.2, []), base) else none
/-- Rows shared out again among the programs of a band, the innermost first (R246). -/
def shareRows : List Under → List Nat → List Under
  | [], _ => []
  | u :: t, cs => { u with chunks := cs.take u.held } :: shareRows t (cs.drop u.held)
/-- A group's bands with new places. -/
def Group.putBands (g : Group) (ps : List (Nat × Nat × Nat × List Nat)) : List Band :=
  (g.bands.zip ps).map fun p =>
    { p.1 with
      slice := p.2.1, seat := p.2.2.1, row0 := p.2.2.2.1, chunks := p.2.2.2.2.take p.1.held,
      under := shareRows p.1.under (p.2.2.2.2.drop p.1.held),
      threads := p.1.threads.map Thread.reseated }
/-- Whether a saved group's bands or its scratchpad would run past the end of a core's. -/
def State.restoreOver (core : Nat) (g : Group) (s : State) : Bool :=
  ((s.placeSaved core g (s.occ core)).map fun p =>
    p.1.any (fun q => 1024 < q.2.2.1 + g.budget || q.2.2.2.any (1024 < · + 16)) || Config.scratchBytes < p.2 + g.scratch).getD false
/-- Every write there is shows on every die, and every posted host write to every group: what a parent observes of its children (R248). -/
def State.showAll (s : State) : State :=
  let s := [0, 1, 2, 3].foldl (fun (s : State) d => ((s.pullAtomics d).stampDie d).everywhere d) s
  { s with posted := s.posted.map fun (p : Posted) => { p with dev := true } }
/-- Whether some group of a child launch of a group has not ended (R18). -/
def State.childRuns (s : State) (gid : Nat) : Bool := s.launches.any fun p => p.2.parent == some gid && p.2.groupsLeft != 0
/-- What a parent that FORK has swapped out observes as it comes back: every write of every child group, whoever wrote its RESUME record
(R248, R304). -/
def State.joinChildren (s : State) (gid : Nat) (g : Group) : State :=
  if g.place == GPlace.forked then s.showAll.acquire gid g.die else s
/-- GROUP_RESTORE (R24, R227, R337): the RESUME record at the head of a core's slot table, with the partition's current tag,
restores its group: its tiles and queued commands come back before any band issues, and its bands have the record's class (R18). The
head of the phase queue goes first (R24). A pre-empted group keeps its age (R135). A parent waits for its children (R18), and observes what they
wrote (R248). -/
def execGroupRestore (core : Nat) (s : State) : Out :=
  .next (
    let part := partOf core
    match (s.core core).slots.head? with
    | none => s
    | some r =>
      match r.kind == 2, r.gid, r.gid.bind s.group? with
      | true, some gid, some g =>
        if r.rsv || (s.part part).owner != some r.ctx || r.tag != (s.part part).tag || !s.partRuns part || !s.lineLow r.ctx || g.moving ||
            !(g.place == GPlace.forked || g.place == GPlace.preempted) || (g.place == GPlace.forked && s.childRuns gid) ||
            (s.phaseFit core).isSome then s
        else
          let s := s.packSeats core (State.restoreOver core g)
          match s.placeSaved core g (s.occ core) with
          | none => s
          | some (ps, base) =>
            let cmds := g.saveQ ++ g.follows
            if 32 < (s.core core).mq.length + cmds.length || !s.bringRoom gid core then s
            else
              let s := s.modGroup gid fun g => { g.markFollows with
                core := core, place := .seated, moving := true, scratchBase := base,
                bands := (g.putBands ps).map fun b => { b with cls := r.cls },
                teamOrder := if g.place == GPlace.preempted then g.teamOrder else 256 * (s.core core).teamNext + g.number,
                tiles := [], saveQ := [], follows := [] }
              let s := s.modCore core fun k => { k.reseat with
                slots := k.slots.drop 1, mq := k.mq ++ cmds,
                tiles := g.tiles.foldl (fun ts t => tabSet ts t.1 t.2) k.tiles }
              let s := s.modCtx g.ctx fun x => { x with pennants := x.pennants.map fun p =>
                if p.gid == gid then { p with start := core, at_ := core, black := false, moved := false } else p }
              ((s.bringCopies gid core).joinChildren gid g).modPart part fun p => { p with tag := p.tag + 1 }
      | _, _, _ => s)
/-- Whether what a context has on some cores has stopped (R324): the line is at every core that seats or serves it, every load has returned,
every line operation started has landed or failed, those of operations in a save image too, and no step is in progress. -/
def State.settledOn (s : State) (x : Context) (here : Nat → Bool) : Bool :=
  (s.groups.all fun p => p.2.ctx != x.number || p.2.place != GPlace.seated || !here p.2.core || x.arrived.contains p.2.core) &&
    (s.copies.all fun q => q.ctx != x.number || !here q.core ||
      ((q.away || x.arrived.contains q.core) && q.pieces.all fun p => !p.started || p.landed)) &&
    (s.cores.all fun p => !here p.1 || p.2.mq.all fun q => q.ctx != x.number || (x.arrived.contains p.1 && !p.2.inStep q)) &&
    s.loads.all fun r => ((s.group? r.gid).map fun g => g.ctx != x.number || !here g.core).getD true
/-- Whether a matrix command of a group has a step in progress (R227, R335). -/
def State.midStep (s : State) (gid : Nat) : Bool := s.cores.any fun p => p.2.mq.any fun q => q.gid == gid && p.2.inStep q
/-- GROUP_PREEMPT (R335, R340): the policy pre-empts one group; while its context is on its way to HALTED, only once the group's partition is
settled. Its stores are applied first. -/
def execGroupPreempt (gid : Nat) (s : State) : Out :=
  .next (
    match s.group? gid with
    | none => s
    | some g =>
      let skids := ((s.ctx? g.ctx).map fun x => x.halt == HaltState.halting && !s.settledOn x (partOf · == partOf g.core)).getD false
      if g.place != GPlace.seated || g.moving || skids || s.midStep gid then s else (s.release gid g.die .sy false).swapOut gid .preempted)
/-- Whether line operations that a group's moved copies had started may still land while it is being saved (R335): not those that wait for
the move itself (R220) or for a page. -/
def State.landsStill (s : State) (gid : Nat) : Bool :=
  s.copies.any fun cp => cp.gid == gid && cp.away && cp.pieces.any fun p =>
    p.started && !p.landed &&
      match s.pieceSource cp p, s.pieceTarget cp p with
      | .error (false, _), _ | _, .error (false, _) => false
      | _, _ => true
/-- MOVE_COMPLETE (R184, R220, R335, R338): a save or restore of a group ends. A save waits for the line operations that its copies had
started. Follow-on MMAs that came due while the group was being restored enter the queue of its core first, when there is room. -/
def execMoveComplete (gid : Nat) (s : State) : Out :=
  .next (
    match s.group? gid with
    | none => s
    | some g =>
      let here := g.place == GPlace.seated || g.place == GPlace.phase
      let cmds := if here then g.follows else []
      if !here && s.landsStill gid then s
      else if cmds.isEmpty then
        ({ s with copies := s.copies.map fun (cp : Copy) => if cp.away && cp.gid == gid then cp.unstart else cp } : State).modGroup gid fun g =>
          { g with moving := false }
      else if 32 < (s.core g.core).mq.length + cmds.length then s
      else
        (s.modGroup gid fun g => { g.markFollows with moving := false, follows := [] }).modCore g.core fun k => { k with mq := k.mq ++ cmds })
/-- FORK_RESUME (R18, R245): every group of a saved parent's child has ended, and the policy writes the parent's RESUME record on
a core of its cluster; a group pre-empted alone comes back likewise. -/
def execForkResume (gid core cls : Nat) (s : State) : Out :=
  .next (
    match s.group? gid with
    | none => s
    | some g =>
      let part := partOf g.core
      let queued := s.cores.any fun p => p.2.slots.any fun r => r.kind == 2 && r.gid == some gid
      if !(g.place == GPlace.forked || g.place == GPlace.preempted) || (g.place == GPlace.forked && s.childRuns gid) || queued || s.inShadow gid ||
          partOf core != part || 3 < cls || !s.mode.getLsbD 1 || !s.ensignRuns then s
      else
        let s0 := s.claimPart part g.ctx
        if (s0.part part).owner != some g.ctx then s
        else
          match s0.writeSlot core ⟨2, cls, false, false, g.ctx, (s0.part part).nextTag, BitVec.ofNat 64 gid, 0, 0, 0, none, some gid, false, .zero, []⟩ with
          | some s => s.modPart part fun p => { p with nextTag := p.nextTag + 1 }
          | none => s)

/-! ### Inline children (R246) -/

/-- Where the frame of depth d of a lane begins. -/
def frameAt (privMax v d : Nat) : Nat := privMax * 65536 / 2 + (d - 1) * 4 * (v + 48)
/-- The words of a thread's frame (R246). -/
def frameWords (b : Band) (t : Thread) (lane v : Nat) : List Word :=
  ((List.range v).map t.getV) ++ ((List.range 16).map t.getO) ++ [t.lq.l0.val, t.lq.l1.val, t.lq.l2.val, t.lq.l3.val] ++
    [t.p.setWidth 32, t.pc.off, t.pc.sel.setWidth 32 <<< (16 : Nat), BitVec.ofNat 32 t.depth, b.getB (2 * lane), b.getB (2 * lane + 1),
      if lane == 0 then b.q.setWidth 32 ||| (if b.paired then 256 else 0) else 0, t.fflags, BitVec.ofNat 32 t.xstack.length, 0, 0, 0] ++
    ((t.xstack.reverse.map fun e => (BitVec.setWidth 32 e.1 <<< (16 : Nat)) ||| (BitVec.setWidth 32 e.2 <<< (4 : Nat))) ++
      List.replicate (16 - t.xstack.length) 0)
/-- A word of a lane's private memory. -/
def State.privWord (s : State) (gid band lane off : Nat) : Word :=
  BitVec.ofNat 32 (natOfBytes ((List.range 4).map fun i => memGet s.mem (privKey gid band lane (off + i))))
/-- A thread as its frame restores it; a reserved bit that the frame holds is not restored (R34, R8). -/
def State.unframe (s : State) (gid band lane base v : Nat) (t : Thread) : Thread :=
  let w (i : Nat) : Word := s.privWord gid band lane (base + 4 * i)
  let vs := (List.range v).foldl (fun (t : Thread) i => t.setV i (w i)) t
  let os := (List.range 16).foldl (fun (t : Thread) i => t.setO i (w (v + i))) vs
  let n := min 16 ((w (v + 28)).toNat % 32)
  { os with
    lq := ⟨⟨w (v + 16), none, false⟩, ⟨w (v + 17), none, false⟩, ⟨w (v + 18), none, false⟩, ⟨w (v + 19), none, false⟩⟩
    p := (w (v + 20)).extractLsb' 0 7
    pc := ⟨(w (v + 22)).extractLsb' 16 16, w (v + 21)⟩
    depth := (w (v + 23)).toNat % 4096
    fflags := w (v + 27) &&& fflagsMask
    xstack := ((List.range n).map fun i => let e := w (v + 32 + i); (e.extractLsb' 16 16, e.extractLsb' 4 12)).reverse }
/-- The place of the program a group runs now: its block, and its cluster and position (R15, R246). -/
def State.curPlace (s : State) (g : Group) : Option (Block × Nat × Nat) :=
  match g.inl with
  | f :: _ => some (f.block, f.index / f.units, 0)
  | [] => (s.launch? g.lid).map fun l => (l.block, ((tabGet s.clusters g.cid).map (·.number)).getD 0, g.position)
/-- S.IDX and S.CANON of every thread of a group set to the place of the program it runs (R15, R246). -/
def State.setPlace (s : State) (gid : Nat) : State :=
  match (s.group? gid).bind s.curPlace with
  | none => s
  | some (b, k, pos) =>
    let one (i l : Nat) (t : Thread) : Thread :=
      let ix := b.index k pos (32 * i + l)
      { t with ix := BitVec.ofNat 32 ix.1, iy := BitVec.ofNat 32 ix.2.1, iz := BitVec.ofNat 32 ix.2.2, canon := b.canonical ix }
    s.modGroup gid fun g => { g with bands := mapIdx (fun i (bd : Band) => { bd with threads := mapIdx (one i) bd.threads 0 }) g.bands 0 }
/-- Threads of the program outside the child at the head of a group's inline stack (R246). -/
def Group.outerSize (g : Group) : Nat :=
  match g.inl.drop 1 with
  | f :: _ => f.block.threads
  | [] => g.n
/-- The lanes of a band that a frame is pushed for: every thread of the parent, exited ones too. -/
def Group.frameLanes (g : Group) (i : Nat) : List Nat := (List.range 32).filter fun l => 32 * i + l < g.outerSize
/-- The child group at the head of a group's inline stack starts (R23, R246): frames are pushed, the threads below its size begin at its
entry, the others wait. The chunks its bands hold and their registers are set aside, out of its sight, and their B registers, of which the
frames hold those of the parent's lanes. The v of a frame is the seated group's budget inside an inline child too (DESIGN CHOICE, log entry
97). The private memory of a band in which nobody is left to wait for its growth grows at once (log entry 70). The child observes what the
parent wrote (R248). -/
def State.startInline (s : State) (gid : Nat) : State :=
  match s.group? gid with
  | none => s
  | some g =>
    match g.inl with
    | [] => s
    | f :: _ =>
      let base := frameAt (((s.ctx? g.ctx).map (·.privMax)).getD 1) g.budget g.inl.length
      let frames : List (Key × Byte) := (mapIdx (fun i (b : Band) => (g.frameLanes i).flatMap fun l =>
        match b.threads[l]? with
        | none => []
        | some t => (mapIdx (fun k w => (mapIdx (fun j x => (privKey gid i l (base + 4 * k + j), x)) (bytesOfNat 4 (BitVec.toNat w)) 0))
            (frameWords b t l g.budget) 0).flatten) g.bands 0).flatten
      let st := f.block.stages.headD ⟨0, 16, 1, 0⟩
      let s := { s.passOn gid g.die .gr with mem := memPut s.mem frames }
      let top := (base + 4 * (g.budget + 48) + 65535) / 65536 * 65536
      (s.modGroup gid fun g => { g with bands := mapIdx (fun i (b : Band) =>
        { (b.onLanes (f.masks.getD i 0) fun l t =>
            let t := { t with v := t.v.filter (fun p => p.1 < g.budget), vUnder := t.v.filter (fun p => g.budget ≤ p.1) :: t.vUnder }
            if 32 * i + l < f.block.threads then
              { t with
                v := [], o := [], lq := .zero, p := 0, fflags := 0, depth := 0, xstack := [],
                wait := .none, pc := ⟨f.block.code, st.entry⟩, pcChanged := true, spin := none, demoted := false, yielded := false }
            else { t with wait := .inl }) with
          b := [(0, f.arg.extractLsb' 0 32), (1, f.arg.extractLsb' 32 32)], q := 0, paired := false, hwm := max b.hwm top,
          held := 0, chunks := [], under := ⟨b.held, b.chunks, b.b⟩ :: b.under }) g.bands 0 }).setPlace gid
/-- The frames of the child group at the head of a group's inline stack are restored, and its depth is left (R246); the B registers of lanes
that have no frame are as they were (R103). -/
def State.endInline (s : State) (gid : Nat) (f : Inline) : State :=
  match s.group? gid with
  | none => s
  | some g =>
    let v := g.budget
    let base := frameAt (((s.ctx? g.ctx).map (·.privMax)).getD 1) v g.inl.length
    ((s.clearErrors ((List.range g.bands.length).flatMap fun i => (g.frameLanes i).flatMap fun l => fileKeys gid i l v)).modGroup gid fun g =>
      { g with
      inl := g.inl.drop 1
      bands := mapIdx (fun i (b : Band) =>
        let back (l : Nat) (t : Thread) : Thread :=
          if (f.masks.getD i 0).getLsbD l then
            { (s.unframe gid i l base v { t with v := t.vUnder.headD [] }) with wait := .none, vUnder := t.vUnder.drop 1 }
          else t
        let out := b.under.headD ⟨0, [], b.b⟩
        let b := { b with threads := mapIdx back b.threads 0, held := out.held, chunks := out.chunks, b := out.b, under := b.under.drop 1 }
        let bs := (g.frameLanes i).foldl (fun (b : Band) l =>
          (b.setB (2 * l) (s.privWord gid i l (base + 4 * (v + 24)))).setB (2 * l + 1) (s.privWord gid i l (base + 4 * (v + 25)))) b
        if (g.frameLanes i).contains 0 then
          let q := s.privWord gid i 0 (base + 4 * (v + 26))
          { bs with q := q.extractLsb' 0 7, paired := q.getLsbD 8 }
        else bs) g.bands 0 }).setPlace gid
/-- The next group of a child, by the number its clusters and units give, that the walker issues (R246, R273). -/
def Inline.issued (f : Inline) : Nat → Nat → Option Nat
  | 0, _ => none
  | k + 1, i =>
    if f.block.clusters * f.units ≤ i then none
    else if (f.block.domain (i / f.units)).isEmpty then Inline.issued f k (i + 1) else some i
/-- FORK goes on past its inline child (R246). -/
def State.inlineDone (s : State) (gid : Nat) (f : Inline) : State :=
  s.modGroup gid fun g => { g with bands := mapIdx (fun i (b : Band) => b.onLanes (f.masks.getD i 0) fun _ t => t.advance f.next) g.bands 0 }
/-- The inline child's group of a number, or the end of the child. -/
def State.runInline (s : State) (gid : Nat) (f : Inline) (from_ : Nat) : State :=
  match f.issued (f.block.clusters * f.units) from_ with
  | some i => (s.modGroup gid fun g => { g with inl := { f with index := i } :: g.inl }).startInline gid
  | none => s.inlineDone gid f
/-- A register file of a group that holds an uncorrectable error where an inline child's frame would read it (R189): its band and lane. -/
def State.fileErr (s : State) (g : Group) (gid : Nat) : Option (Nat × Nat) :=
  (List.range g.bands.length).findSome? fun i => (List.range 32).findSome? fun l =>
    if s.ecc (fileKeys gid i l g.budget) || ((s.thread? gid i l).map Thread.lBad).getD false then some (i, l) else none
/-- A word of a frame that an uncorrectable error has been found in (R189): its band and lane, and its place. -/
def State.frameErr (s : State) (g : Group) (gid : Nat) : Option (Nat × Nat × Nat) :=
  let base := frameAt (((s.ctx? g.ctx).map (·.privMax)).getD 1) g.budget g.inl.length
  if s.eccBad.isEmpty then none
  else (List.range g.bands.length).findSome? fun i => (g.frameLanes i).findSome? fun l =>
    if s.ecc ((List.range (4 * (g.budget + 48))).map fun j => privKey gid i l (base + j)) then some (i, l, base) else none
/-- INLINE_CHILD_END (R246): every thread of the child group has ended its part and every operation it joined has completed; its
threads seal once more, the frames are restored, and the next child group runs, or FORK completes. What the child wrote is observed by the
parent (R248); a frame with an uncorrectable error is reported (R191). -/
def execInlineChildEnd (gid : Nat) (s : State) : Out :=
  .next (
    match s.group? gid with
    | none => s
    | some g =>
      match g.inl with
      | [] => s
      | f :: _ =>
        let ready (t : Thread) : Bool := t.openOps == 0 && t.sealed.isEmpty
        let mine (i l : Nat) : Bool := (f.masks.getD i 0).getLsbD l && 32 * i + l < f.block.threads
        let done := (mapIdx (fun i (b : Band) => (mapIdx (fun l (t : Thread) =>
          !t.here && (!mine i l || ready t)) b.threads 0).all id) g.bands 0).all id
        if !done || s.frozen gid then s
        else
          let one (i l : Nat) (t : Thread) : Thread := if mine i l then t.sealBatch else t
          match s.frameErr g gid with
          | some (i, l, base) =>
            let pc := (((s.thread? gid i l).map (·.pc)).getD f.next)
            (s.countErr g.die 0 true).memErr gid i (BitVec.twoPow 32 l) l pc (handleOf 0xFFFC base) 0 0
          | none =>
          let s := s.modGroup gid fun g => { g with bands := mapIdx (fun i (b : Band) => { b with threads := mapIdx (one i) b.threads 0 }) g.bands 0 }
          (((s.passOn gid g.die .gr).endInline gid f).modLaunch f.lid fun l => { l with groupsLeft := l.groupsLeft - 1 }).runInline gid f (f.index + 1))

/-! ### FORK (R245 to R248) -/

/-- The operands that a band of a number gives a FORK: each band reads its own, as its own live threads stand (R232). -/
def forkArgs (s : State) (c : Slot) (g : Group) (d a b : Opd) (i : Nat) (bd : Band) : W64 × Word × W64 :=
  (bd.getBPair (pairB a), (bandEnv s { c with band := i, active := bd.live } g bd).read32 b, bd.getBPair (pairB d))
/-- Whether a child may run inline in a group (R246): one stage, no sleeves, no gang, one position a cluster, and a size, budget and scratchpad
within the parent's. -/
def canInline (g : Group) (b : Block) : Bool :=
  let size := match g.inl with
    | f :: _ => f.block.threads
    | [] => g.n
  g.inl.length < g.inlmax.toNat && b.stages.length == 1 && !b.twin && !b.gang && b.cluster == (1, 1, 1) && b.threads ≤ size &&
    (b.stages.all fun st => st.regs ≤ g.curBudget && st.scratch ≤ g.scratchLimit)
/-- The bands of a group whose private memory does not reach the end of a frame yet (R186, R246). -/
def needGrowth (g : Group) (top : Nat) : List (Nat × Band) :=
  (mapIdx (fun i b => (i, b)) g.bands 0).filter fun p => p.2.live != 0#32 && p.2.hwm < top
/-- FORK (R232, R245 to R248). A thread that has exited before it takes no part in an inline child, though its index lies below the child's size
(DESIGN CHOICE, log entry 97). -/
def execFork (h : Hdr) (d a b : Opd) (s : State) : Out :=
  groupOp s fun c g =>
    match g.agree (bandGuard h), g.agreeAt (forkArgs s c g d a b) with
    | some false, _ => s.advanceGroup c.gid c.next
    | some true, some (hd, cnt, arg) =>
      if cnt.toNat == 0 || 65535 < cnt.toNat then s.haltGroup c.gid rIllegalOperand
      else
        let s := s.landAt c.gid c.band 0 (s.resolve c.gid c.band 0 (hsel hd) (hoff hd) 128 .load)
        match s.ctx? g.ctx, s.resolve c.gid c.band 0 (hsel hd) (hoff hd) 128 .load with
        | some x, .ok sp ks =>
          if s.ecc ks then
            let s := s.hardErr c g.die 0 ks hd 0
            if s.gone c.gid then s.advanceSplit c else s
          else
          match x.block (ks.map fun k => s.readByte g.die c.gid c.band 0 sp k) cnt.toNat with
          | none => s.haltGroup c.gid rIllegalOperand
          | some blk =>
            let part := partOf g.core
            let graph := g.graph
            let issued (s : State) : State := g.liveBands.foldl (fun s i => s.commandIssued { c with band := i } (BitVec.allOnes 32)) s
            let room := (s.part part).children.length < 64
            let send (put : Child → State → State) : State :=
              let (lid, s) := (issued s).newLaunch g.ctx blk hd arg (some c.gid) none graph []
              let s := put ⟨lid, g.ctx, hd, arg, cnt.toNat, c.gid, graph⟩ s
              let s := match graph with
                | some n => s.blacken g.ctx n g.core
                | none => s
              let s := g.liveBands.foldl (fun s i => (List.range 32).foldl (fun s l => s.freezeLoads c.gid i l) s) s
              ((s.release c.gid g.die .sy false).advanceGroup c.gid c.next).swapOut c.gid .forked
            -- a step in progress is finished first (R227), and a load that brings an error ends the group (R191)
            let inline := !room && canInline g blk
            let back := s.returnLoads c.gid
            if back.gone c.gid then back
            else if !inline && s.midStep c.gid then s
            else if room then send fun ch s => s.modPart part fun p => { p with children := p.children ++ [ch] }
            else if inline then
              let top := frameAt x.privMax g.budget (g.inl.length + 1) + 4 * (g.budget + 48)
              match needGrowth g top with
              | [] =>
                match s.fileErr g c.gid with
                | some (i, l) => (s.countErr g.die 3 true).memErr c.gid i (BitVec.twoPow 32 l) l c.pc 0 0 3
                | none =>
                let s := issued back
                let (lid, s) := s.newLaunch g.ctx blk hd arg none none graph []
                let s := s.modLaunch lid fun l => { l with bound := l.live }
                let masks := g.bands.map Band.live
                let held := g.bands.flatMap fun bd => (bd.threads.filter (·.here)).flatMap (·.xstack)
                s.runInline c.gid ⟨blk, hd, arg, cnt.toNat, 0, lid, masks, held, c.next⟩ 0
              | ps => ps.foldl (fun s p => s.parkGrowth { c with band := p.1, active := p.2.live } g.ctx (handleOf 0xFFFC ((top : Int) - 4))) s
            else if hsel x.spill != 0#16 && x.spillQ.length < x.spillCap then
              send fun ch s => s.modCtx g.ctx fun x => { x with spillQ := x.spillQ ++ [ch] }
            else s.haltGroup c.gid rWorkOverflow
        | some _, .page p => s.parkPage c g.ctx p false
        | some _, .growth p => s.parkGrowth c g.ctx p
        | some _, .wait => s
        | _, _ => s.haltGroup c.gid rIllegalOperand
    | _, _ => s.haltGroup c.gid rIllegalOperand
/-- Whether a child launch still waits in a child queue, a spill queue or an image's (R245, R247). -/
def State.childWaits (s : State) (lid : Nat) : Bool :=
  let mine (c : Child) : Bool := c.lid == lid
  (s.parts.any fun p => p.2.children.any mine) || (s.ctxs.any fun p => p.2.spillQ.any mine) ||
    s.shadows.any fun p => p.2.partition.children.any mine
/-- CHILD_ADMIT (R17, R245, R350): the policy takes the oldest child-queue entry of a partition and places its launch, whole or its next
clusters; it finishes a launch before it takes another. In host-assisted mode the lease holder's BIND requests do. -/
def execChildAdmit (part : Nat) (pol : Policy) (s : State) : Out :=
  .next (
    let open_ := if s.mode.getLsbD 1 then
        s.unfinished fun lid l => l.mbx.isNone && (s.part part).owner == some l.ctx && !s.childWaits lid
      else none
    if !s.ensignRuns then s
    else
      match open_, (s.part part).children with
      | some lid, _ => (s.writeBinds lid pol).getD s
      | none, [] => s
      | none, ch :: rest =>
        let s1 := s.modPart part fun p => { p with children := rest }
        if ((s1.launch? ch.lid).map (·.toCommit)).getD 0 == 0 then s1
        else if s.mode.getLsbD 1 then (s1.writeBinds ch.lid pol).getD s else s1)
/-- SPILL_REFILL (R247): the oldest spilled child of a context moves into a child queue that has room. -/
def execSpillRefill (ctx part : Nat) (s : State) : Out :=
  .next (
    match (s.ctx? ctx).map (·.spillQ) with
    | some (ch :: rest) =>
      if s.ensignRuns && (s.part part).children.length < 64 && ((s.group? ch.parent).map fun g => partOf g.core == part).getD false then
        (s.modCtx ctx fun x => { x with spillQ := rest }).modPart part fun p => { p with children := p.children ++ [ch] }
      else s
    | _ => s)

/-! ### PHASE (R249, R250) -/

/-- The carry record of a PHASE (R100, R249); a site without one carries nothing. -/
def State.carryAt (s : State) (ctx : Nat) (pc : PC) : Carry :=
  ((((s.ctx? ctx).bind fun x => tabGet x.codes pc.sel.toNat).map (·.carry)).bind fun cs => cs.find? fun r => r.site == pc.off).getD
    ⟨pc.off, [], [], [], [], [], [], false⟩
/-- A predicate file with only the listed bits kept. -/
def keepBits (p : BitVec 7) (is : List Nat) : BitVec 7 := is.foldl (fun m i => if p.getLsbD i then m ||| BitVec.twoPow 7 i else m) 0
/-- A thread after a phase (R250). -/
def Thread.phased (t : Thread) (r : Carry) (next : PC) : Thread :=
  let q (i : Nat) (e : LEntry) : LEntry := if r.l.contains i then e else .zero
  { (t.advance next) with
    v := t.v.filter (fun p => r.v.contains p.1), o := t.o.filter (fun p => r.o.contains p.1)
    lq := ⟨q 0 t.lq.l0, q 1 t.lq.l1, q 2 t.lq.l2, q 3 t.lq.l3⟩, p := keepBits t.p r.p, pend := [] }
/-- A band after a phase: what is carried, and a free value in every B register that is not (R250 states none; log entry 5). -/
def State.phaseBand (s : State) (r : Carry) (next : PC) (b : Band) : Band × State :=
  let regs := (List.range 64).map fun i => (i, if r.b.contains i then b.getB i else (Config.freeValue (s.free + i)).extractLsb' 0 32)
  let b := b.noChunks
  ({ b with
      b := regs, q := keepBits b.q r.q
      threads := b.threads.map fun t => if t.here then t.phased r next else t },
    { s with free := s.free + 64 })
/-- PHASE (R232, R249): it waits while the core's phase queue is full; a malformed carry record (R8) halts as one that names a register
beyond the budget does (log entry 66). -/
def execPhase (h : Hdr) (s : State) : Out :=
  groupOp s fun c g =>
    match g.agree (bandGuard h) with
    | none => s.haltGroup c.gid rIllegalOperand
    | some false => s.advanceGroup c.gid c.next
    | some true =>
      let r := s.carryAt g.ctx c.pc
      if r.bad || r.v.any fun i => g.curBudget ≤ i then s.haltGroup c.gid rIllegalOperand
      else if 64 ≤ (s.core g.core).phaseQ.length then s.holdGroup c.gid (.queue .phase) c.next
      else
        let s := (g.liveBands.foldl (fun s i => s.commandIssued { c with band := i } (BitVec.allOnes 32)) s).returnLoads c.gid
        if s.gone c.gid then s else
        let bands := ((s.group? c.gid).map (·.bands)).getD []
        let (bs, s) := bands.foldl (fun (acc : List Band × State) b =>
          let (b, s) := acc.2.phaseBand r c.next b
          (acc.1 ++ [b], s)) ([], s)
        (s.modGroup c.gid fun g => { g with place := .phase, bands := bs }).modCore g.core fun k => { k with phaseQ := k.phaseQ ++ [c.gid] }
/-- Whether the bands of the head of a core's phase queue would run past the end of its register files. -/
def State.phaseOver (core : Nat) (s : State) : Bool :=
  ((s.phaseFit core).map fun p => p.2.2.any fun q => 1024 < q.2.2 + p.2.1.budget).getD false
/-- PHASE_RESEAT (R24, R250): the head of a core's phase queue is re-seated when its seats and budgets fit; records of the slot table whose
reservation it takes wait for theirs again. -/
def execPhaseReseat (core : Nat) (s : State) : Out :=
  .next (
    let s := s.packSeats core (State.phaseOver core)
    match s.phaseFit core, (s.core core).phaseQ with
    | some (gid, g, ps), _ :: rest =>
      let s1 := s.modGroup gid fun g => { g with
        place := .seated, teamOrder := 256 * (s.core core).teamNext + g.number,
        bands := (g.putBands (ps.map fun p => (p.1, p.2.1, p.2.2, []))).map fun b =>
          { b with paired := s.sleeves g && g.inl.isEmpty } }
      (s1.modCore core fun k => { k.reseat with phaseQ := rest, slots := s1.keepReserved k.slots (s1.occ core) }).wakeQueue g.ctx .phase
    | _, gid :: rest => s.modCore core fun k => { k with phaseQ := if (s.group? gid).isSome then k.phaseQ else rest }
    | _, [] => s)

end Sys2Proof.Machine
end

