-- ==== Sys2Proof/Machine/Stages.lean ====
section
/-! DEFINITION. Stage queues and the pennant (R251 to R254): ROLEQ, DRAIN and their events. -/

namespace Sys2Proof.Machine

/-! ### Stage queues (R251, R252) -/

/-- A stage queue as its descriptor gives it: its group, the group's number, the descriptor's offset in the allotment, the slots, the slot
bytes and the ring. -/
structure StageQ where
  gid : Nat
  number : Nat
  off : Nat
  slots : Nat
  size : Nat
  ring : Nat
/-- What the checks of ROLEQ come to (R252): a halt, a wait for a group's move, an uncorrectable error in the descriptor (R191), or the queue. -/
inductive QRes where
  | halt (reason : Nat) (arg : W64)
  | wait
  | bad (k : Key)
  | ok (q : StageQ)
/-- The descriptor at a window offset, with the checks of R252: a segment-limit halt for what lies outside the allotment goes before an
illegal operand. -/
def State.stageQ (s : State) (cid q : Nat) : QRes :=
  let o := q % 0x80000
  match s.inCluster cid (q / 0x80000) with
  | none => .halt rLimit (handleOf 0xFFFD q)
  | some (gid, g) =>
    if g.scratch < o + 16 then .halt rLimit (handleOf 0xFFFD q)
    else if g.moving then .wait
    else if s.ecc (scratchKeys gid o 16) then .bad (scratchKey gid o)
    else
      let w0 := s.scratchWord gid (o + 8)
      let n := w0 % 65536
      let b := w0 / 65536
      let ring := s.scratchWord gid (o + 12)
      if g.scratch < ring + n * b then .halt rLimit (handleOf 0xFFFD ((q / 0x80000 * 0x80000 + ring : Nat) : Int))
      else if q % 16 != 0 || n == 0 || 1024 < n || 2 ^ Nat.log2 n != n || b % 4 != 0 || b < 8 || 32768 < b || ring % 64 != 0 then
        .halt rIllegalOperand 0
      else .ok ⟨gid, g.number, o, n, b, ring⟩
/-- The offset of a ticket's slot in its group's allotment. -/
def StageQ.slot (q : StageQ) (k : Word) : Nat := q.ring + k.toNat % q.slots * q.size
/-- A 32-bit word of a group's allotment written. -/
def State.putScratch (s : State) (gid off : Nat) (w : Word) : State :=
  s.putBytes (mapIdx (fun i b => (scratchKey gid (off + i), b)) (bytesOfNat 4 w.toNat) 0)
/-- The handle of a ticket's slot in the cluster window (R184). -/
def StageQ.at (q : StageQ) (k : Word) : W64 := handleOf 0xFFFD ((q.number * 0x80000 + q.slot k : Nat) : Int)
/-- The state of a ticket's slot. -/
def State.slotState (s : State) (q : StageQ) (k : Word) : Word := BitVec.ofNat 32 (s.scratchWord q.gid (q.slot k))
/-- What RES and TAKE put in Bd and Bd + 1 (R252). -/
def StageQ.result (q : StageQ) (k : Word) : W64 := k ++ BitVec.ofNat 32 (q.number * 0x80000 + q.slot k + 4)
/-- RES and TAKE (R252): a ticket from one of the counts, and a wait for its slot; an acquire at cluster scope (R302). -/
def roleqTicket (s : State) (h : Hdr) (d a : Opd) (isTake : Bool) : Out :=
  collOp s h [] fun e =>
    let q0 := (e.read32 a).toNat
    let s := s.landLanes e.c
    match s.stageQ e.g.cid q0 with
    | .halt r arg => s.haltSplit e.c r arg
    | .wait => s
    | .bad k => s.splitErr e.c e.g.die [k] (handleOf 0xFFFD q0)
    | .ok q =>
      let at_ := q.off + if isTake then 4 else 0
      let k := BitVec.ofNat 32 (s.scratchWord q.gid at_)
      if s.ecc (scratchKeys q.gid (q.slot k) 4) then s.splitErr e.c e.g.die [scratchKey q.gid (q.slot k)] (q.at k)
      else
      let s := (s.freezeBand e.c.gid e.c.band e.b.live).putScratch q.gid at_ (k + 1)
      if s.slotState q k == (if isTake then k + 1 else k) then e.donePair (s.acquire e.c.gid e.g.die) d (q.result k)
      else (s.commandIssued e.c e.c.active).holdLanes e.c e.c.active (.queue (.roleq q0 k isTake (BitVec.ofNat 6 (pairB d))))
/-- PUB and FREE (R252): the slot's state is checked and moved on, a release at cluster scope. -/
def roleqPut (s : State) (h : Hdr) (a b : Opd) (want next : Word → Nat → Word) : Out :=
  collOp s h [] fun e =>
    let k := e.read32 b
    let s := s.landLanes e.c
    match s.stageQ e.g.cid (e.read32 a).toNat with
    | .halt r arg => s.haltSplit e.c r arg
    | .wait => s
    | .bad x => s.splitErr e.c e.g.die [x] (handleOf 0xFFFD (e.read32 a).toNat)
    | .ok q =>
      if s.ecc (scratchKeys q.gid (q.slot k) 4) then s.splitErr e.c e.g.die [scratchKey q.gid (q.slot k)] (q.at k)
      else if s.slotState q k != want k q.slots then s.haltSplit e.c rIllegalOperand 0
      else
        let s := (s.freezeBand e.c.gid e.c.band e.b.live).passOn e.c.gid e.g.die .cl
        e.doneCmd (s.putScratch q.gid (q.slot k) (next k q.slots))
/-- ROLEQ.RES (R252). -/
def execRoleqRes (h : Hdr) (d a : Opd) (s : State) : Out := roleqTicket s h d a false
/-- ROLEQ.TAKE (R252). -/
def execRoleqTake (h : Hdr) (d a : Opd) (s : State) : Out := roleqTicket s h d a true
/-- ROLEQ.PUB (R252). -/
def execRoleqPub (h : Hdr) (a b : Opd) (s : State) : Out := roleqPut s h a b (fun k _ => k) fun k _ => k + 1
/-- ROLEQ.FREE (R252). -/
def execRoleqFree (h : Hdr) (a b : Opd) (s : State) : Out := roleqPut s h a b (fun k _ => k + 1) fun k n => k + BitVec.ofNat 32 n
/-- The stage-queue wait of a band. -/
def Band.roleqWait (b : Band) : Option (Nat × Word × Bool × BitVec 6) :=
  b.threads.findSome? fun t => match t.wait with
    | .queue (.roleq q k tk d) => if t.here then some (q, k, tk, d) else none
    | _ => none
/-- A band that waits at a stage queue meets an uncorrectable error in the queue's words (R191). -/
def State.roleqErr (s : State) (gid band : Nat) (g : Group) (b : Band) (h : W64) : State :=
  (s.countErr g.die 1 true).memErr gid band b.live ((lanesOf b.live).headD 0) ((lowestPc b.threads).getD g.entry) h 0 0
/-- ROLEQ_WAKE (R252): a waiting RES or TAKE completes when its slot's state matches, or meets an error there (R191). -/
def execRoleqWake (gid band : Nat) (s : State) : Out :=
  .next (
    match s.group? gid, s.thawedBand? gid band with
    | some g, some b =>
      match b.roleqWait with
      | none => s
      | some (q0, k, tk, d) =>
        match s.stageQ g.cid q0 with
        | .bad _ => s.roleqErr gid band g b (handleOf 0xFFFD q0)
        | .ok q =>
          if s.ecc (scratchKeys q.gid (q.slot k) 4) then s.roleqErr gid band g b (q.at k)
          else if s.slotState q k == (if tk then k + 1 else k) then
            (s.acquire gid g.die).modBand gid band fun b => ({ b with
              threads := b.threads.map fun t => if t.here then t.release else t } : Band).setBPair d.toNat (q.result k)
          else s
        | _ => s
    | _, _ => s)

/-! ### DRAIN and the pennant (R253, R254) -/

/-- The members of a graph's ring (R253), in ascending order: the cores of a context that seat a group of the graph, the first core of each
cluster, and the core that drains; one that is black stays a member until the pennant has passed it, though it seats no group any more. -/
def State.ring (s : State) (ctx graph start : Nat) : List Nat :=
  (List.range Config.cores).filter fun k =>
    k % Config.coresPerCluster == 0 || k == start || ((s.ctx? ctx).map fun x => x.blacks.contains (graph, k)).getD false ||
      (s.shadows.any fun q => q.2.partition.owner == some ctx && q.2.blacks.contains (graph, k)) ||
      s.groups.any fun p => p.2.core == k && p.2.ctx == ctx && p.2.graph == some graph && p.2.place == GPlace.seated
/-- Whether a partition holds no record and no child entry of a graph. -/
def Partition.idleFor (p : Partition) (ctx graph : Nat) : Bool :=
  !(p.gathers.any fun q => q.ctx == ctx && q.graph == graph && !q.records.isEmpty) &&
    !(p.children.any fun c => c.ctx == ctx && c.graph == some graph)
/-- Whether a member of a ring is idle (R253): a cluster's gather buffers and child queue count where they are, in the partition or in its
image in a shadow slot (R339). -/
def State.memberIdle (s : State) (ctx graph core : Nat) : Bool :=
  !(s.groups.any fun p => p.2.core == core && p.2.ctx == ctx && p.2.graph == some graph && p.2.place == GPlace.seated) &&
    (core % Config.coresPerCluster != 0 ||
      ((s.part (partOf core)).idleFor ctx graph && s.shadows.all fun p => p.2.part != partOf core || p.2.partition.idleFor ctx graph))
/-- DRAIN (R254). -/
def execDrain (h : Hdr) (a : Opd) (s : State) : Out :=
  collOp s h [] fun e =>
    let n := (e.read32 a).toNat
    let waiting := ((s.ctx? e.g.ctx).map fun x => x.pennants.any fun p => p.graph == n).getD false ||
      s.shadows.any fun p => p.2.partition.owner == some e.g.ctx && p.2.pennants.any fun p => p.graph == n
    if 255 < n || e.g.graph == some n || waiting then s.haltSplit e.c rIllegalOperand 0
    else
      ((s.modCtx e.g.ctx fun x => { x with
          pennants := x.pennants ++ [⟨n, e.c.gid, e.c.band, e.g.core, e.g.core, false, false⟩] }).commandIssued e.c e.c.active).holdLanes
        e.c e.c.active (.queue (.drain n))
/-- The ring member after one. -/
def afterIn (ring : List Nat) (k : Nat) : Nat := (ring.find? fun x => k < x).getD (ring.headD k)
/-- DRAIN completes (R254): the band observes every write there is, and goes on. -/
def State.drained (s : State) (gid band graph : Nat) : State :=
  let die := ((s.group? gid).map Group.die).getD 0
  let s := { s with posted := s.posted.map fun (p : Posted) => { p with dev := true } }
  ((s.writes.foldl (fun s w => s.forceApply die w.id) s).acquire gid die).modBand gid band fun b => { b with
    threads := b.threads.map fun t => if t.wait == Wait.queue (QWait.drain graph) then t.release else t }
/-- PENNANT_PASS (R253, R254): an idle member passes the pennant on, blackened if the member is black, which turns white; a white pennant that
comes back to an idle core completes the DRAIN, and another starts a new round. -/
def execPennantPass (ctx graph : Nat) (s : State) : Out :=
  .next (
    match s.ctx? ctx with
    | none => s
    | some x =>
      match x.pennants.find? fun p => p.graph == graph with
      | none => s
      | some p =>
        let put (f : Pennant → Pennant) (x : Context) : Context :=
          { x with pennants := x.pennants.map fun q => if q.graph == graph then f q else q }
        let gone (x : Context) : Context := { x with pennants := x.pennants.filter fun q => q.graph != graph }
        if s.gone p.gid then s.modCtx ctx gone
        else if s.frozen p.gid || !((s.group? p.gid).map fun g => g.place == GPlace.seated && !g.moving).getD false then s
        else if p.moved && p.at_ == p.start then
          if s.memberIdle ctx graph p.at_ && !p.black then (s.modCtx ctx gone).drained p.gid p.band graph
          else s.modCtx ctx (put fun q => { q with black := false, moved := false })
        else if !s.memberIdle ctx graph p.at_ then s
        else
          -- the colour of a member is in the context, or in its partition's image (R230, R339)
          let mine (q : Shadow) : Bool := q.partition.owner == some ctx && q.blacks.contains (graph, p.at_)
          let black := x.blacks.contains (graph, p.at_) || s.shadows.any fun q => mine q.2
          let clean (q : Nat × Shadow) : Nat × Shadow :=
            if mine q.2 then (q.1, { q.2 with blacks := q.2.blacks.filter fun b => b != (graph, p.at_) }) else q
          let s : State := { s with shadows := s.shadows.map clean }
          s.modCtx ctx fun x => put (fun q => { q with
              at_ := afterIn (s.ring ctx graph p.start) p.at_, black := q.black || black, moved := true })
            { x with blacks := x.blacks.filter fun b => b != (graph, p.at_) })

end Sys2Proof.Machine
end

