-- ==== Sys2Proof/Machine/Tables.lean ====
section
/-! DEFINITION. Segments and bindings (R255 to R282): the bytes of a descriptor, creating, freeing and restricting segments, LREF, LBIND,
LUNB, LQRY, SEGA, SEGF, SEGQ and SEGRT, name resolution, and the completion of an unbind. -/

namespace Sys2Proof.Machine

/-! ### Descriptors as bytes (R260, R261) -/

/-- A signed number as 8 bytes. -/
def bytes64 (x : Int) : List Byte := bytesOfNat 8 (BitVec.ofInt 64 x).toNat
/-- The 64 bytes of a descriptor as SEGQ reads them (R260, R261, R281): private bases and handles read as zero, and a free
descriptor as zero but for its generation. -/
def Desc.bytes (d : Desc) : List Byte :=
  if d.kind == 0 then List.replicate 12 0 ++ bytesOfNat 2 d.gen.toNat ++ List.replicate 50 0
  else
    bytesOfNat 8 d.limit ++ [BitVec.ofNat 8 d.kind, d.rights.setWidth 8, BitVec.ofNat 8 d.affinity, 0] ++ bytesOfNat 2 d.gen.toNat ++
      (if d.kind == 6 then bytesOfNat 2 d.viewGen.toNat ++ bytesOfNat 8 d.base else List.replicate 10 0) ++
      (if d.kind == 6 then
        bytesOfNat 2 d.under.toNat ++ [BitVec.ofNat 8 d.elem, 0] ++ bytesOfNat 4 d.nx ++ bytesOfNat 4 d.ny ++ bytesOfNat 4 d.nz ++
          bytes64 d.sx ++ bytes64 d.sy ++ bytes64 d.sz
      else if d.kind == 4 then
        bytesOfNat 2 d.slots ++ [0, 0] ++ bytesOfNat 4 d.carries ++ List.replicate 16 0 ++ bytesOfNat 2 d.syms ++
          bytesOfNat 2 d.launchSel.toNat ++ bytesOfNat 2 d.launches ++ List.replicate 10 0
      else if d.kind == 3 then bytesOfNat 2 d.device ++ bytesOfNat 2 d.peerSel.toNat ++ List.replicate 36 0
      else if d.kind == 7 then bytesOfNat 4 d.keySlot ++ List.replicate 36 0
      else List.replicate 40 0)
/-- The rights a descriptor of a kind may carry (R181). -/
def kindRights (kind : Nat) : BitVec 5 :=
  if kind == 1 || kind == 2 || kind == 3 then rtR ||| rtW ||| rtA ||| rtE
  else if kind == 4 then rtX ||| rtR
  else if kind == 5 then rtR
  else if kind == 6 then rtR ||| rtW ||| rtA
  else rtR ||| rtW ||| rtE
/-- A signed 64-bit field. -/
def i64At (bs : List Byte) (off : Nat) : Int := (BitVec.ofNat 64 (leAt bs off 8)).toInt
/-- A descriptor read from a template (R260, R261, R279), for a context: none where it breaks a rule. -/
def Context.template (x : Context) (bs : List Byte) : Option Desc :=
  let kind := leAt bs 8 1
  let rights := leAt bs 9 1
  let limit := leAt bs 0 8
  let aff := leAt bs 0xA 1
  let common := bs.length == 64 && 1 ≤ limit && limit < 2 ^ 48 && 1 ≤ kind && kind ≤ 7 && rights < 32 &&
    hasRights (kindRights kind) (BitVec.ofNat 5 rights) && aff ≤ 5 && zeroAt bs 0xB 1 && zeroAt bs 0xC 4
  let d : Desc := { Desc.zero with kind := kind, limit := limit, rights := BitVec.ofNat 5 rights, affinity := aff }
  if !common then none
  else if kind == 6 then
    let under := BitVec.ofNat 16 (leAt bs 0x18 2)
    let u := x.desc under
    let elem := leAt bs 0x1A 1
    if selFixed under || u.kind == 0 || u.kind == 6 || !hasRights u.rights (BitVec.ofNat 5 rights) || !(elem == 4 || elem == 8) ||
        !zeroAt bs 0x1B 1 || leAt bs 0x1C 4 == 0 || leAt bs 0x20 4 == 0 || leAt bs 0x24 4 == 0 || !zeroAt bs 0x16 2 then none
    else some { d with
      viewGen := u.gen, base := leAt bs 0x10 6, under := under, elem := elem, nx := leAt bs 0x1C 4, ny := leAt bs 0x20 4,
      nz := leAt bs 0x24 4, sx := i64At bs 0x28, sy := i64At bs 0x30, sz := i64At bs 0x38 }
  else if kind == 3 then
    if leAt bs 0x18 2 ≤ 255 && zeroAt bs 0x1C 36 && zeroAt bs 0x10 8 then
      some { d with device := leAt bs 0x18 2, peerSel := BitVec.ofNat 16 (leAt bs 0x1A 2) }
    else none
  else if kind == 7 then
    if zeroAt bs 0x1C 36 && zeroAt bs 0x10 8 && leAt bs 0x18 4 < Config.pageKeySlots then some { d with keySlot := leAt bs 0x18 4 } else none
  else if kind == 2 then
    -- the host says where its memory is (log entry 18)
    if zeroAt bs 0x18 40 then some { d with base := leAt bs 0x10 8 } else none
  else if zeroAt bs 0x10 48 then some d else none
/-- The lowest free selector (R260). -/
def Context.freeSel (x : Context) : Option (BitVec 16) :=
  ((List.range (x.segs.length + 1)).map fun i => BitVec.ofNat 16 (i + 1)).find? fun k => !selFixed k && (x.desc k).kind == 0
/-- The highest free selector (R262). -/
def Context.topFree (x : Context) : Option (BitVec 16) :=
  ((List.range (x.segs.length + 1)).map fun i => BitVec.ofNat 16 (0xFEFF - i)).find? fun k => !selFixed k && (x.desc k).kind == 0
/-- Bytes of the device's memory: 12 stacks of 48 GB (R1). -/
abbrev deviceBytes : Nat := 618475290624
/-- Pages that the device segments of every context reserve (R279). -/
def State.pagesUsed (s : State) : Nat :=
  (s.ctxs.map fun c => (c.2.segs.map fun p =>
    if p.2.kind == 1 || p.2.kind == 4 || p.2.kind == 5 || p.2.kind == 7 then (p.2.limit + Config.pageBytes - 1) / Config.pageBytes else 0).sum).sum
/-- Whether an own-storage key lies in a segment. -/
def keyIn (ctx : Nat) (sel : BitVec 16) (k : Key) : Bool := k % 8 == 0 && k / 8 / 2 ^ 64 == ctx * 65536 + sel.toNat
/-- A descriptor put under a selector, which keeps its generation (R279). A new segment's storage reads zero: what an earlier segment of that
selector left is gone, and none of its pages has been sealed (R361). -/
def State.putSeg (s : State) (ctx : Nat) (sel : BitVec 16) (d : Desc) : State :=
  let s := s.modCtx ctx fun x => { x with segs := tabSet x.segs sel.toNat { d with gen := (x.desc sel).gen } }
  { s with
    mem := s.mem.filter fun c => !keyIn ctx sel c.1
    versions := s.versions.filter fun p => p.1 / 2 ^ 27 != ctx * 65536 + sel.toNat
    writes := s.writes.map fun (w : WriteRec) => { w with bytes := w.bytes.filter fun b => !keyIn ctx sel b.1 } }
/-- A segment freed (R280): the kind is free and the generation rises; every core drops its translations,
and a code segment's link-cache entries. -/
def State.freeSeg (s : State) (ctx : Nat) (sel : BitVec 16) : State :=
  let s := s.modCtx ctx fun x => { x with
    segs := tabSet x.segs sel.toNat { Desc.zero with gen := (x.desc sel).gen + 1 }, codes := tabDel x.codes sel.toNat }
  let mine (k : Key) : Bool := k / 2 ^ 27 == ctx * 65536 + sel.toNat
  { s with
    cores := s.cores.map fun p => (p.1, { p.2 with
      pages := p.2.pages.filter fun k => !mine k
      links := p.2.links.filter fun e => !(e.ctx == ctx && e.sel == sel) })
    absent := s.absent.filter fun k => !mine k
    homes := s.homes.filter fun p => !mine p.1 }
/-- A segment of a template created for a context (R279): its selector, or none where there is no room. -/
def State.makeSeg (s : State) (ctx : Nat) (d : Desc) : Option (BitVec 16 × State) :=
  match (s.ctx? ctx).bind Context.freeSel with
  | none => none
  | some sel =>
    let need := if d.kind == 1 || d.kind == 5 then (d.limit + Config.pageBytes - 1) / Config.pageBytes else 0
    if deviceBytes / Config.pageBytes < s.pagesUsed + need then none else some (sel, s.putSeg ctx sel d)

/-! ### LREF, LBIND, LUNB and LQRY (R275 to R278) -/

/-- LREF (R267, R275). -/
def execLref (h : Hdr) (slot : BitVec 12) (d : Opd) (s : State) : Out :=
  withRegs s [(d, 2)] fun c g bd =>
    let m := guarded h c bd
    let sel := c.pc.sel
    if s.slotCount g.ctx sel ≤ slot.toNat then s.haltSplit c rIllegalOperand 0
    else if m == 0#32 then s.advanceSplit c
    else
      match s.useLink g.ctx c.gid c.band g.core sel slot false with
      | (.failed, s) => s.haltSplit { c with word := 0 } rUnresolved (bindArg sel slot)
      | (.park, s) => s.parkLink c m sel slot
      | (.served target _ _, s) =>
        s.modBand c.gid c.band fun b => b.onLanes c.active fun _ t =>
          (if laneGuard h t then t.put64 d target else t).advance c.next
/-- The code segment that an operand names (R274): the current one, or a selector that names a code descriptor. -/
def Env.codeSel (e : Env) (a : Option Opd) : Option (BitVec 16) :=
  match a with
  | none => some e.c.pc.sel
  | some o =>
    let sel := (e.read32 o).extractLsb' 0 16
    if !selFixed sel && (((e.s.ctx? e.g.ctx).map fun x => (x.desc sel).kind).getD 0) == 4 then some sel else none
/-- Runs a meaning on an entry's segment, with the checks of R274. -/
def withEntry (e : Env) (a : Option Opd) (slot : BitVec 12) (f : BitVec 16 → State) : State :=
  match e.codeSel a with
  | none => e.s.haltSplit e.c rIllegalOperand 0
  | some sel => if e.s.slotCount e.g.ctx sel ≤ slot.toNat then e.s.haltSplit e.c rIllegalOperand 0 else f sel
/-- The band goes on with a Q register written. -/
def Env.doneQ (e : Env) (s : State) (d : Opd) (v : Bool) : State :=
  (s.advanceSplit e.c).modBand e.c.gid e.c.band fun b =>
    match d with
    | .q i => b.setQ i v
    | _ => b
/-- LBIND (R276). -/
def execLbind (h : Hdr) (slot : BitVec 12) (d : Opd) (a : Option Opd) (b : Opd) (s : State) : Out :=
  collOp s h [] fun e =>
    withEntry e a slot fun sel =>
      let t := e.b.getBPair (pairB b)
      let kind := ((s.ctx? e.g.ctx).map fun x => (x.desc (hsel t)).kind).getD 0
      if selFixed (hsel t) then s.haltSplit e.c rNull t
      else if kind == 0 then s.haltSplit e.c rFreed t
      else
        match s.binding? e.g.ctx sel slot with
        | none => e.doneQ s d false
        | some x =>
          if x.state == BState.unbound then
            e.doneQ (s.modBinding e.g.ctx sel slot fun b => { b with state := .bound, target := t, position := 0xFF }) d true
          else e.doneQ s d false
/-- LUNB (R269, R277): it waits while the entry resolves; step 1 completes when every core has dropped the entry. -/
def execLunb (h : Hdr) (slot : BitVec 12) (d : Opd) (a : Option Opd) (s : State) : Out :=
  collOp s h [] fun e =>
    withEntry e a slot fun sel =>
      let q := match d with
        | .q i => i
        | _ => 7
      match s.binding? e.g.ctx sel slot with
      | none => e.doneQ s d false
      | some x =>
        if x.state == BState.resolving then s.holdLanes e.c e.c.active (.unbind sel slot q false)
        else
          let r := s.unbindNow e.g.ctx sel slot
          if r.1 then r.2.holdLanes e.c e.c.active (.unbind sel slot q true)
          else e.doneQ s d false
/-- The number of a binding state (R265). -/
def BState.code : BState → Nat
  | .unbound => 0
  | .resolving => 1
  | .bound => 2
  | .failed => 3
  | .revoked => 4
/-- The words in which LQRY reports an entry (R278). -/
def Binding.words (x : Binding) : Word × Word :=
  (BitVec.ofNat 32 (x.state.code + x.position * 256 + x.gen.toNat % 65536 * 65536), BitVec.ofNat 32 x.inflight)
/-- LQRY (R278). -/
def execLqry (h : Hdr) (slot : BitVec 12) (d : Opd) (a : Option Opd) (s : State) : Out :=
  splitOp s h [] fun e =>
    withEntry e a slot fun sel =>
      let w : Word × Word := ((s.binding? e.g.ctx sel slot).map Binding.words).getD (0xFF00, 0)
      (s.advanceSplit e.c).modBand e.c.gid e.c.band fun b => (b.setB (pairB d) w.1).setB (pairB d + 1) w.2

/-! ### SEGA, SEGF, SEGQ and SEGRT (R279 to R282) -/

/-- SEGA (R279): the template is read at issue. -/
def execSega (h : Hdr) (d a : Opd) (s : State) : Out :=
  collOp s h [] fun e =>
    let o := (e.read32 a).toNat
    let ks := (List.range 64).map fun i => scratchKey e.c.gid (o + i)
    let done (s : State) (x : W64) : State := (s.advanceSplit e.c).modBand e.c.gid e.c.band fun b => b.setBPair (pairB d) x
    if !e.g.inScratch o 64 then s.haltSplit e.c rLimit (handleOf 0xFFFE o)
    else if o % 64 != 0 then s.haltSplit e.c rIllegalOperand 0
    else if s.ecc ks then
      let s := s.hardErr e.c e.g.die ((lanesOf e.c.active).headD 0) ks (handleOf 0xFFFE o) 0
      if s.gone e.c.gid then s.advanceSplit e.c else s
    else
      match (s.ctx? e.g.ctx).bind fun x => x.template (ks.map (s.scratchByte e.c)) with
      | none => s.haltSplit e.c rIllegalOperand 0
      | some t =>
        if !(t.kind == 1 || t.kind == 6) then s.haltSplit e.c rIllegalOperand 0
        else
          match s.makeSeg e.g.ctx t with
          | some (sel, s) => done s (handleOf sel 0)
          | none => done s 0
/-- SEGF (R280). -/
def execSegf (h : Hdr) (a : Opd) (s : State) : Out :=
  collOp s h [] fun e =>
    let t := e.b.getBPair (pairB a)
    let kind := ((s.ctx? e.g.ctx).map fun x => (x.desc (hsel t)).kind).getD 0
    if selFixed (hsel t) then s.haltSplit e.c rNull t
    else if kind == 0 then s.haltSplit e.c rFreed t
    else if !(kind == 1 || kind == 6) then s.haltSplit e.c rIllegalOperand 0
    else (s.freeSeg e.g.ctx (hsel t)).advanceSplit e.c
/-- SEGQ (R281). -/
def execSegq (h : Hdr) (wd : BitVec 4) (d a : Opd) (s : State) : Out :=
  splitOp s h [] fun e =>
    let sel := (e.read32 a).extractLsb' 0 16
    if selFixed sel then s.haltSplit e.c rNull (handleOf sel 0)
    else
      let bs := ((s.ctx? e.g.ctx).map fun x => (x.desc sel).bytes).getD []
      (s.advanceSplit e.c).modBand e.c.gid e.c.band fun b => b.setB (pairB d) (BitVec.ofNat 32 (leAt bs (4 * wd.toNat) 4))
/-- SEGRT (R282). -/
def execSegrt (h : Hdr) (a b : Opd) (s : State) : Out :=
  collOp s h [] fun e =>
    let sel := (e.read32 a).extractLsb' 0 16
    let kind := ((s.ctx? e.g.ctx).map fun x => (x.desc sel).kind).getD 0
    if selFixed sel then s.haltSplit e.c rNull (handleOf sel 0)
    else if kind == 0 then s.haltSplit e.c rFreed (handleOf sel 0)
    else
      (s.modCtx e.g.ctx fun x => { x with
        segs := tabMod x.segs sel.toNat fun d => { d with rights := d.rights &&& (e.read32 b).extractLsb' 0 5 } }).advanceSplit e.c

/-! ### Resolution and unbinding (R263, R264, R267, R269) -/

/-- One entry of a directory: none where the resolver skips it (R263), a name of no byte or of more than 255, or rights above 31, among the
reasons (DESIGN CHOICE, log entry 97). -/
def dirEntry (bs : List Byte) (limit i : Nat) : Option (Nat × Nat × List Byte × W64) :=
  let at_ := 0x10 + 32 * i
  let len := leAt bs at_ 2
  let noff := leAt bs (at_ + 4) 4
  let kind := leAt bs (at_ + 2) 1
  let rights := leAt bs (at_ + 3) 1
  if len == 0 || 255 < len || 1 < kind || 31 < rights || !zeroAt bs (at_ + 0x10) 16 || limit < noff + len then none
  else some (kind, rights, (bs.drop noff).take len, BitVec.ofNat 64 (leAt bs (at_ + 8) 8))
/-- The search of one directory: entries skipped before the hit or the end, and the hit's target with the rights offered. -/
def searchDir (bs : List Byte) (limit : Nat) (im : Import) : List Nat → Nat → Nat × Option (W64 × BitVec 5)
  | [], k => (k, none)
  | i :: t, k =>
    match dirEntry bs limit i with
    | none => searchDir bs limit im t (k + 1)
    | some (kind, rights, name, target) =>
      if name == im.name && kind == im.kind && hasRights (BitVec.ofNat 5 rights) im.rights then (k, some (target, BitVec.ofNat 5 rights))
      else searchDir bs limit im t k
/-- The bytes of a directory segment in the view of the die that holds the context record. -/
def State.dirBytes (s : State) (ctx : Nat) (sel : BitVec 16) (n : Nat) : List Byte :=
  (List.range n).map fun i => s.viewByte (s.ensign.getD 0) (segKey ctx sel i)
/-- The search of a lookup order (R263, R264): RESOLVE events to post for what is skipped, and the hit with its position. Every byte of a
directory is read at one moment, that of the search's end (DESIGN CHOICE, log entry 97); one that holds an uncorrectable error is skipped
(R189, log entry 99). -/
def State.search (s : State) (x : Context) (im : Import) : List (BitVec 16) → Nat → Nat → Nat × Option (Nat × W64 × BitVec 5)
  | [], _, k => (k, none)
  | sel :: t, pos, k =>
    let d := x.desc sel
    if selFixed sel || d.kind != 5 || !hasRights d.rights rtR || d.limit < 0x10 ||
        s.ecc ((List.range d.limit).map (segKey x.number sel)) then s.search x im t (pos + 1) (k + 1)
    else
      let hd := s.dirBytes x.number sel 0x10
      let n := leAt hd 0 4
      if !zeroAt hd 4 12 || d.limit < 0x10 + 32 * n then s.search x im t (pos + 1) (k + 1)
      else
        match searchDir (s.dirBytes x.number sel d.limit) d.limit im (List.range n) k with
        | (k, some (target, r)) => (k, some (pos, target, r))
        | (k, none) => s.search x im t (pos + 1) k
/-- The waits of an entry's parked lanes. -/
def waitsBind (sel : BitVec 16) (slot : BitVec 12) (w : Wait) : Bool := w == .bind sel slot
/-- A resolution ends (R267, R268): the entry is BOUND and its parked splits retry, or it is FAILED and they wake into an unresolved-name
halt; unbinds that waited for it then apply. -/
def State.resolved (s : State) (ctx : Nat) (sel : BitVec 16) (slot : BitVec 12) (hit : Option (Nat × W64 × BitVec 5)) : State :=
  let bands := s.bandsOf ctx
  match hit with
  | some (pos, target, r) =>
    let s := s.modBinding ctx sel slot fun b => { b with
      state := .bound, target := target, position := pos, parked := 0, event := none, rights := r }
    bands.foldl (fun s p => s.wakeRetry p.1 p.2 (waitsBind sel slot)) s
  | none =>
    let s := s.modBinding ctx sel slot fun b => { b with state := .failed, parked := 0, event := none }
    bands.foldl (fun s p => s.wakeHalt p.1 p.2 rUnresolved (waitsBind sel slot)) s
/-- NAME_RESOLUTION (R264): in hardware mode the search of an entry ends; in host-assisted mode an entry without an owner for its
RESOLVE event has no hit (R258). -/
def execNameResolution (ctx sel slot : Nat) (s : State) : Out :=
  .next (
    let sl := BitVec.ofNat 16 sel
    let st := BitVec.ofNat 12 slot
    match s.ctx? ctx, s.binding? ctx sl st with
    | some x, some b =>
      if b.state != BState.resolving then s
      else
        match b.event with
        | some e => if e == 0#32 then s.resolved ctx sl st none else s
        | none =>
          if !s.ensignRuns then s
          else
            let im := (((tabGet x.codes sel).map (·.imports)).getD []).getD slot ⟨0, 0, []⟩
            let (k, hit) := s.search x im b.order 0 0
            let s := (List.range k).foldl (fun s _ =>
              (s.post ctx clResolve s.nextId 0 0 (bindArg sl st) (BitVec.ofNat 32 im.name.length) false).2.2) s
            s.resolved ctx sl st (hit.map fun h => (h.1, h.2.1, h.2.2))
    | _, _ => s)
/-- A response to a request (R344): written at the host address it names, and then signalled on vector 1. -/
def State.respond (s : State) (r : Req) (status : Nat) (value : W64) : State :=
  let s := { s with resps := s.resps ++ [⟨r.party, r.tag, status, value⟩] }
  match partyPort r.party with
  | none => s
  | some q =>
    let bs := bytesOfNat 2 r.tag.toNat ++ bytesOfNat 2 status ++ List.replicate 4 0 ++ bytesOfNat 8 value.toNat
    ({ s with mem := memPut s.mem (mapIdx (fun i b => (hostKey q (r.resp.toNat + i), b)) bs 0) } : State).modPort q fun x =>
      { x with msiResps := x.msiResps + 1 }
/-- A host's unbind is answered, with the entry as it stands (R374). -/
def State.answerUnbind (s : State) (ctx : Nat) (sel : BitVec 16) (slot : BitVec 12) (r : Req) : State :=
  match s.binding? ctx sel slot with
  | some x => s.respond r 0 (x.words.2 ++ x.words.1)
  | none => s.respond r 10 0
/-- UNBIND_COMPLETE (R267, R269, R277, R374): every core has acknowledged (the drop itself is part of step 1 here). A LUNB whose step 1 is
done gives its predicate and goes on, and a host's request is answered, whatever has become of the entry since. With the entry out of
RESOLVING, an unbind that waited for it applies first; that of an entry removed meanwhile finds nothing to unbind. -/
def execUnbindComplete (ctx sel slot : Nat) (s : State) : Out :=
  .next (
    let sl := BitVec.ofNat 16 sel
    let st := BitVec.ofNat 12 slot
    let resolving := ((s.binding? ctx sl st).map fun b => b.state == BState.resolving).getD false
    let due (w : Wait) : Option (BitVec 3 × Bool) :=
      match w with
      | .unbind a c q applied => if a == sl && c == st && (applied || !resolving) then some (q, applied) else none
      | _ => none
    let bands := (s.bandsOf ctx).filter fun p => !s.frozen p.1
    -- a band that waited through RESOLVING acts on the state as it is now
    let s := bands.foldl (fun s p =>
      match (s.band? p.1 p.2).bind fun b => b.threads.findSome? fun t => due t.wait with
      | none => s
      | some (q, applied) =>
        let r := if applied then (true, s) else s.unbindNow ctx sl st
        r.2.modBand p.1 p.2 fun b => { (b.setQ q r.1) with
          threads := b.threads.map fun t => if (due t.wait).isSome then t.release else t }) s
    let reqs := (((s.binding? ctx sl st).map (·.pendingUnbind)).getD []).filter fun r => r.1 || !resolving
    let s := s.modBinding ctx sl st fun b => { b with pendingUnbind := b.pendingUnbind.filter fun r => !(r.1 || !resolving) }
    reqs.foldl (fun s r => (if r.1 then s else (s.unbindNow ctx sl st).2).answerUnbind ctx sl st r.2) s)

end Sys2Proof.Machine
end

