-- ==== Sys2Proof/Machine/Scoreboard.lean ====
section
/-! DEFINITION. What the issue logic asks of an instruction (R28, R111): whether it takes the band slot, and the registers of the
vector files that it reads or writes, which a load or an atomic may have left pending. -/

namespace Sys2Proof.Machine

/-- A destination as the scoreboard sees it: a class L destination names no register (R105, R111). -/
def dstUse (d : Opd) (n : Nat) : List (Opd × Nat) :=
  match d with
  | .l _ => []
  | o => [(o, n)]
/-- Whether an instruction is a band instruction, which takes the band slot (R28): it is guarded by Q. -/
def bandSlot : Instr → Bool
  | .nop _ => false
  | .mov _ _ _ _ => false
  | .movLong _ _ _ => false
  | .sel _ _ _ _ _ _ => false
  | .plog _ _ _ _ _ => false
  | .iadd _ _ _ _ _ _ => false
  | .iaddLong _ _ _ _ => false
  | .isub _ _ _ _ _ _ => false
  | .isubLong _ _ _ _ => false
  | .imul _ _ _ _ _ _ => false
  | .imulLong _ _ _ _ => false
  | .imulh _ _ _ _ _ => false
  | .imad _ _ _ _ _ _ _ => false
  | .idiv _ _ _ _ _ _ => false
  | .irem _ _ _ _ _ => false
  | .imin _ _ _ _ _ => false
  | .imax _ _ _ _ _ => false
  | .iabs _ _ _ _ _ => false
  | .ineg _ _ _ _ _ => false
  | .icmp _ _ _ _ _ _ => false
  | .and _ _ _ _ _ => false
  | .andLong _ _ _ _ => false
  | .or _ _ _ _ _ => false
  | .orLong _ _ _ _ => false
  | .xor _ _ _ _ _ => false
  | .xorLong _ _ _ _ => false
  | .andn _ _ _ _ _ => false
  | .not _ _ _ _ => false
  | .shl _ _ _ _ _ => false
  | .shr _ _ _ _ _ => false
  | .sar _ _ _ _ _ => false
  | .rol _ _ _ _ _ => false
  | .popc _ _ _ _ => false
  | .clz _ _ _ _ => false
  | .ctz _ _ _ _ => false
  | .brev _ _ _ _ => false
  | .bfx _ _ _ _ _ => false
  | .bfxLong _ _ _ _ => false
  | .bfi _ _ _ _ _ _ => false
  | .hadd _ _ _ _ _ _ => false
  | .haddLong _ _ _ _ => false
  | .hsub _ _ _ _ => false
  | .hsel _ _ _ => false
  | .hoff _ _ _ => false
  | .hmake _ _ _ _ => false
  | .hcmp _ _ _ _ _ => false
  | .badd _ _ _ _ _ _ => true
  | .baddLong _ _ _ _ => true
  | .bsub _ _ _ _ _ _ => true
  | .bmul _ _ _ _ _ _ => true
  | .band _ _ _ _ _ => true
  | .bor _ _ _ _ _ => true
  | .bxor _ _ _ _ _ => true
  | .bshl _ _ _ _ _ => true
  | .bshr _ _ _ _ _ => true
  | .bsar _ _ _ _ _ => true
  | .bmin _ _ _ _ _ => true
  | .bmax _ _ _ _ _ => true
  | .bmov _ _ _ _ => true
  | .bmovLong _ _ _ => true
  | .bcmp _ _ _ _ _ _ => true
  | .bsel _ _ _ _ _ _ => true
  | .qlog _ _ _ _ _ => true
  | .bget _ _ _ _ => true
  | .bred _ _ _ _ _ _ => true
  | .acq _ _ _ _ => true
  | .rel _ _ => true
  | .fadd _ _ _ _ _ _ _ => false
  | .faddLong _ _ _ _ => false
  | .fsub _ _ _ _ _ _ _ => false
  | .fmul _ _ _ _ _ _ _ => false
  | .fmulLong _ _ _ _ => false
  | .ffma _ _ _ _ _ _ _ _ => false
  | .fmin _ _ _ _ _ _ => false
  | .fmax _ _ _ _ _ _ => false
  | .fabs _ _ _ _ => false
  | .fneg _ _ _ _ => false
  | .fcmp _ _ _ _ _ _ _ => false
  | .fclass _ _ _ _ => false
  | .frnd _ _ _ _ _ => false
  | .fscl _ _ _ _ _ _ _ => false
  | .fadd2 _ _ _ _ _ _ _ => false
  | .fsub2 _ _ _ _ _ _ _ => false
  | .fmul2 _ _ _ _ _ _ _ => false
  | .ffma2 _ _ _ _ _ _ _ _ => false
  | .fmin2 _ _ _ _ _ _ => false
  | .fmax2 _ _ _ _ _ _ => false
  | .fcmp2 _ _ _ _ _ _ _ => false
  | .fdot2 _ _ _ _ _ _ _ _ => false
  | .cvt _ _ _ _ _ _ _ _ _ => false
  | .pack _ _ _ _ _ _ _ _ _ => false
  | .unpk _ _ _ _ _ _ _ => false
  | .fdiv _ _ _ _ _ _ _ => false
  | .fsqrt _ _ _ _ _ _ => false
  | .rcp _ _ _ _ _ => false
  | .rsq _ _ _ _ _ => false
  | .ex2 _ _ _ _ _ => false
  | .lg2 _ _ _ _ _ => false
  | .sinpi _ _ _ _ _ => false
  | .cospi _ _ _ _ _ => false
  | .tanh _ _ _ _ _ => false
  | .shfl _ _ _ _ _ _ _ => false
  | .vote _ _ _ _ => false
  | .lred _ _ _ _ _ _ _ _ => false
  | .scan _ _ _ _ _ _ _ _ _ => false
  | .bra _ _ => false
  | .braq _ _ => true
  | .jmpi _ _ => false
  | .call _ _ _ => false
  | .callx _ _ _ => false
  | .ret _ _ => false
  | .join _ _ => false
  | .exit _ => false
  | .nap _ _ => false
  | .brk _ _ => false
  | .trapi _ _ _ => false
  | .ld _ _ _ _ _ _ _ _ _ => false
  | .ldLong _ _ _ _ => false
  | .st _ _ _ _ _ _ _ _ _ => false
  | .stLong _ _ _ _ => false
  | .aadd _ _ _ _ _ _ _ => false
  | .amin _ _ _ _ _ _ _ => false
  | .amax _ _ _ _ _ _ _ => false
  | .aand _ _ _ _ _ _ _ => false
  | .aor _ _ _ _ _ _ _ => false
  | .axor _ _ _ _ _ _ _ => false
  | .axch _ _ _ _ _ _ _ => false
  | .acas _ _ _ _ _ _ _ _ => false
  | .afadd _ _ _ _ _ _ _ => false
  | .ldsp _ _ _ _ _ _ _ => false
  | .ldspLong _ _ _ _ => false
  | .stsp _ _ _ _ _ _ _ => false
  | .stspLong _ _ _ _ => false
  | .ldsg _ _ _ _ _ _ _ => false
  | .stsg _ _ _ _ _ _ _ => false
  | .symst _ _ _ _ _ _ => false
  | .push _ _ _ _ => false
  | .pop _ _ _ _ => false
  | .pfet _ _ _ _ => false
  | .fence _ _ _ => false
  | .copyl _ _ _ _ => false
  | .copyt _ _ => true
  | .copyg _ _ => true
  | .mma _ _ _ _ _ _ _ _ => true
  | .mchb _ _ _ => true
  | .mche _ _ => true
  | .accz _ _ => true
  | .accsc _ _ _ => true
  | .acccvt _ _ _ _ _ _ => true
  | .lda _ _ _ _ => true
  | .sta _ _ _ _ => true
  | .guide _ _ _ _ => true
  | .pairx _ _ => true
  | .mbxtake _ _ _ _ _ => true
  | .mbxpost _ _ _ _ _ => true
  | .mbxdone _ _ _ _ => true
  | .recEmit _ _ _ _ => false
  | .recget _ _ _ => false
  | .fork _ _ _ _ => true
  | .phase _ => true
  | .roleqRes _ _ _ => true
  | .roleqPub _ _ _ => true
  | .roleqTake _ _ _ => true
  | .roleqFree _ _ _ => true
  | .drain _ _ => true
  | .lref _ _ _ => false
  | .lbind _ _ _ _ _ => true
  | .lunb _ _ _ _ => true
  | .lqry _ _ _ _ => true
  | .sega _ _ _ => true
  | .segf _ _ => true
  | .segq _ _ _ _ => true
  | .segrt _ _ _ => true
  | .seal _ => false
  | .waitb _ _ => false
  | .bar _ => true
  | .cbar _ => true
  | .arrive _ _ _ _ _ => true
  | .await _ _ _ => true
  | .sread _ _ _ _ => false
  | .swrite _ _ _ => false
  | .acqGrant _ _ _ => false
  | .acqDenial _ _ _ => false
  | .joinRelease _ _ => false
  | .collectiveExecute _ _ => false
  | .napExpiry _ _ _ => false
  | .loadReturn _ _ _ => false
  | .atomicReturn _ => false
  | .remoteWriteApply _ _ => false
  | .fenceComplete _ _ _ => false
  | .pageMigration _ _ _ _ => false
  | .patrolScrub _ _ _ => false
  | .demandPageService _ _ _ _ => false
  | .privateGrowthService _ _ _ => false
  | .twinWaitResolve _ _ => false
  | .copyLanding _ _ => false
  | .copyFault _ _ => false
  | .mmaStep _ _ => false
  | .mchbApply _ _ => false
  | .mcheApply _ _ => false
  | .acczApply _ _ => false
  | .accscApply _ _ => false
  | .acccvtApply _ _ => false
  | .staApply _ _ => false
  | .guideApply _ _ => false
  | .mbxtakeWake _ _ => false
  | .mbxpostWake _ _ => false
  | .nodeCountdownExpiry _ _ _ => false
  | .childAdmit _ _ => false
  | .spillRefill _ _ => false
  | .forkResume _ _ _ => false
  | .inlineChildEnd _ => false
  | .phaseReseat _ => false
  | .roleqWake _ _ => false
  | .pennantPass _ _ => false
  | .nameResolution _ _ _ => false
  | .sealRelease _ _ _ => false
  | .waitbRelease _ _ _ => false
  | .barRelease _ => false
  | .cbarRelease _ => false
  | .arriveApply _ => false
  | .awaitRelease _ _ => false
  | .bandSelect _ => false
  | .admissionCommit _ => false
  | .seating _ => false
  | .groupRestore _ => false
  | .groupPreempt _ => false
  | .partitionSave _ _ => false
  | .partitionRestore _ _ => false
  | .partitionExchange _ _ => false
  | .haltLineArrival _ _ => false
  | .haltSettled _ => false
  | .unbindComplete _ _ _ => false
  | .moveComplete _ => false
  | .scrubComplete => false
  | .serviceWindowAccess _ _ _ => false
  | .mailboxSubmit _ _ _ => false
  | .recordAccept _ _ => false
  | .launchRecord _ _ _ => false
  | .ctxCreate _ _ => false
  | .ctxDestroy _ => false
  | .segCreate _ _ => false
  | .segFree _ _ => false
  | .codeInstall _ _ => false
  | .codeRemove _ _ => false
  | .mailboxSet _ _ _ => false
  | .unbind _ _ => false
  | .stop _ => false
  | .resumeCtx _ => false
  | .teardown _ => false
  | .readHalt _ _ => false
  | .reply _ _ _ => false
  | .eventRing _ _ _ _ => false
  | .eventRingConsumed _ _ => false
  | .leaseRenew _ _ => false
  | .leaseTake _ _ => false
  | .leaseCountdown => false
  | .setMode _ _ => false
  | .powerCap _ _ => false
  | .sealKey _ _ _ _ _ => false
  | .aperture _ _ => false
  | .bind _ _ => false
  | .bar2Access _ _ _ _ _ => false
  | .bar0WriteOther _ _ => false
  | .peerTimeout _ => false
  | .fabricPortFail _ => false
  | .lockstepMismatch _ => false
  | .heartbeat => false
  | .ensignTakeover => false
  | .coldBoot _ => false
  | .warmReset _ => false
  | .dieReset _ => false
  | .levelRaise => false
  | .spdmRequest _ _ => false
  | .tdiConfigChange _ => false
  | .pageSeal _ _ _ => false
  | .powerThrottle _ _ => false
  | .powerRestore _ => false
  | .peerRequest _ => false
  | .peerGrant _ _ _ _ => false
  | .tdispRequest _ _ => false
  | .fabricPortRetrained _ => false
/-- The registers an instruction reads or writes, each with how many from it on (R111, R191). The registers of a REC and a RECGET are as
many as a record can need. -/
def usesOf : Instr → List (Opd × Nat)
  | .nop _ => []
  | .mov _ ty d b => dstUse d (width ty.is64) ++ [(b, width ty.is64)]
  | .movLong _ d _ => dstUse d 1
  | .sel _ ty d a b c => dstUse d (width ty.is64) ++ [(a, width ty.is64), (b, width ty.is64), (c, 1)]
  | .plog _ _ d a b => [(d, 1), (a, 1), (b, 1)]
  | .iadd _ ty _ d a b => dstUse d (width ty.is64) ++ [(a, width ty.is64), (b, width ty.is64)]
  | .iaddLong _ d a _ => dstUse d 1 ++ [(a, 1)]
  | .isub _ ty _ d a b => dstUse d (width ty.is64) ++ [(a, width ty.is64), (b, width ty.is64)]
  | .isubLong _ d a _ => dstUse d 1 ++ [(a, 1)]
  | .imul _ ty _ d a b => dstUse d (width ty.is64) ++ [(a, width ty.is64), (b, width ty.is64)]
  | .imulLong _ d a _ => dstUse d 1 ++ [(a, 1)]
  | .imulh _ ty d a b => dstUse d (width ty.is64) ++ [(a, width ty.is64), (b, width ty.is64)]
  | .imad _ ty _ d a b c => dstUse d (width ty.is64) ++ [(a, width ty.is64), (b, width ty.is64), (c, width ty.is64)]
  | .idiv _ ty _ d a b => dstUse d (width ty.is64) ++ [(a, width ty.is64), (b, width ty.is64)]
  | .irem _ ty d a b => dstUse d (width ty.is64) ++ [(a, width ty.is64), (b, width ty.is64)]
  | .imin _ ty d a b => dstUse d (width ty.is64) ++ [(a, width ty.is64), (b, width ty.is64)]
  | .imax _ ty d a b => dstUse d (width ty.is64) ++ [(a, width ty.is64), (b, width ty.is64)]
  | .iabs _ ty _ d a => dstUse d (width ty.is64) ++ [(a, width ty.is64)]
  | .ineg _ ty _ d a => dstUse d (width ty.is64) ++ [(a, width ty.is64)]
  | .icmp _ ty _ d a b => [(a, width ty.is64), (b, width ty.is64), (d, 1)]
  | .and _ ty d a b => dstUse d (width ty.is64) ++ [(a, width ty.is64), (b, width ty.is64)]
  | .andLong _ d a _ => dstUse d 1 ++ [(a, 1)]
  | .or _ ty d a b => dstUse d (width ty.is64) ++ [(a, width ty.is64), (b, width ty.is64)]
  | .orLong _ d a _ => dstUse d 1 ++ [(a, 1)]
  | .xor _ ty d a b => dstUse d (width ty.is64) ++ [(a, width ty.is64), (b, width ty.is64)]
  | .xorLong _ d a _ => dstUse d 1 ++ [(a, 1)]
  | .andn _ ty d a b => dstUse d (width ty.is64) ++ [(a, width ty.is64), (b, width ty.is64)]
  | .not _ ty d a => dstUse d (width ty.is64) ++ [(a, width ty.is64)]
  | .shl _ ty d a b => dstUse d (width ty.is64) ++ [(a, width ty.is64), (b, 1)]
  | .shr _ ty d a b => dstUse d (width ty.is64) ++ [(a, width ty.is64), (b, 1)]
  | .sar _ ty d a b => dstUse d (width ty.is64) ++ [(a, width ty.is64), (b, 1)]
  | .rol _ ty d a b => dstUse d (width ty.is64) ++ [(a, width ty.is64), (b, 1)]
  | .popc _ ty d a => dstUse d 1 ++ [(a, width ty.is64)]
  | .clz _ ty d a => dstUse d 1 ++ [(a, width ty.is64)]
  | .ctz _ ty d a => dstUse d 1 ++ [(a, width ty.is64)]
  | .brev _ ty d a => dstUse d (width ty.is64) ++ [(a, width ty.is64)]
  | .bfx _ ty d a b => dstUse d (width ty.is64) ++ [(a, width ty.is64), (b, 1)]
  | .bfxLong _ d a _ => dstUse d 1 ++ [(a, 1)]
  | .bfi _ ty d a b c => dstUse d (width ty.is64) ++ [(a, width ty.is64), (b, 1), (c, width ty.is64)]
  | .hadd _ ty _ d a b => [(a, 2), (b, width ty.is64), (d, 2)]
  | .haddLong _ d a _ => [(a, 2), (d, 2)]
  | .hsub _ d a b => [(a, 2), (b, 2), (d, 2)]
  | .hsel _ d a => dstUse d 1 ++ [(a, 2)]
  | .hoff _ d a => [(a, 2), (d, 2)]
  | .hmake _ d a b => [(a, 1), (b, 2), (d, 2)]
  | .hcmp _ _ d a b => [(a, 2), (b, 2), (d, 1)]
  | .badd _ _ _ d a b => [(d, 1), (a, 1), (b, 1)]
  | .baddLong _ d a _ => [(d, 1), (a, 1)]
  | .bsub _ _ _ d a b => [(d, 1), (a, 1), (b, 1)]
  | .bmul _ _ _ d a b => [(d, 1), (a, 1), (b, 1)]
  | .band _ _ d a b => [(d, 1), (a, 1), (b, 1)]
  | .bor _ _ d a b => [(d, 1), (a, 1), (b, 1)]
  | .bxor _ _ d a b => [(d, 1), (a, 1), (b, 1)]
  | .bshl _ _ d a b => [(d, 1), (a, 1), (b, 1)]
  | .bshr _ _ d a b => [(d, 1), (a, 1), (b, 1)]
  | .bsar _ _ d a b => [(d, 1), (a, 1), (b, 1)]
  | .bmin _ _ d a b => [(d, 1), (a, 1), (b, 1)]
  | .bmax _ _ d a b => [(d, 1), (a, 1), (b, 1)]
  | .bmov _ _ d b => [(d, 1), (b, 1)]
  | .bmovLong _ d _ => [(d, 1)]
  | .bcmp _ _ _ d a b => [(d, 1), (a, 1), (b, 1)]
  | .bsel _ _ d a b c => [(d, 1), (a, 1), (b, 1), (c, 1)]
  | .qlog _ _ d a b => [(d, 1), (a, 1), (b, 1)]
  | .bget _ _ d a => [(a, 1), (d, 1)]
  | .bred _ _ _ _ d a => [(a, 1), (d, 1)]
  | .acq _ _ d a => [(d, 1), (a, 1)]
  | .rel _ a => [(a, 1)]
  | .fadd _ ty _ _ d a b => dstUse d (width ty.is64) ++ [(a, width ty.is64), (b, width ty.is64)]
  | .faddLong _ d a _ => dstUse d 1 ++ [(a, 1)]
  | .fsub _ ty _ _ d a b => dstUse d (width ty.is64) ++ [(a, width ty.is64), (b, width ty.is64)]
  | .fmul _ ty _ _ d a b => dstUse d (width ty.is64) ++ [(a, width ty.is64), (b, width ty.is64)]
  | .fmulLong _ d a _ => dstUse d 1 ++ [(a, 1)]
  | .ffma _ ty _ _ d a b c => dstUse d (width ty.is64) ++ [(a, width ty.is64), (b, width ty.is64), (c, width ty.is64)]
  | .fmin _ ty _ d a b => dstUse d (width ty.is64) ++ [(a, width ty.is64), (b, width ty.is64)]
  | .fmax _ ty _ d a b => dstUse d (width ty.is64) ++ [(a, width ty.is64), (b, width ty.is64)]
  | .fabs _ ty d a => dstUse d (width ty.is64) ++ [(a, width ty.is64)]
  | .fneg _ ty d a => dstUse d (width ty.is64) ++ [(a, width ty.is64)]
  | .fcmp _ ty _ _ d a b => [(a, width ty.is64), (b, width ty.is64), (d, 1)]
  | .fclass _ ty d a => dstUse d 1 ++ [(a, width ty.is64)]
  | .frnd _ ty _ d a => dstUse d (width ty.is64) ++ [(a, width ty.is64)]
  | .fscl _ ty _ _ d a b => dstUse d (width ty.is64) ++ [(a, width ty.is64), (b, 1)]
  | .fadd2 _ _ _ _ d a b => dstUse d 1 ++ [(a, 1), (b, 1)]
  | .fsub2 _ _ _ _ d a b => dstUse d 1 ++ [(a, 1), (b, 1)]
  | .fmul2 _ _ _ _ d a b => dstUse d 1 ++ [(a, 1), (b, 1)]
  | .ffma2 _ _ _ _ d a b c => dstUse d 1 ++ [(a, 1), (b, 1), (c, 1)]
  | .fmin2 _ _ _ d a b => dstUse d 1 ++ [(a, 1), (b, 1)]
  | .fmax2 _ _ _ d a b => dstUse d 1 ++ [(a, 1), (b, 1)]
  | .fcmp2 _ _ _ _ d a b => dstUse d 1 ++ [(a, 1), (b, 1)]
  | .fdot2 _ _ _ _ d a b c => dstUse d 1 ++ [(a, 1), (b, 1), (c, 1)]
  | .cvt _ ty ty2 _ _ _ _ d a => dstUse d (width ty.is64) ++ [(a, width ty2.is64)]
  | .pack _ _ _ _ _ _ d a b => [(a, 1), (b, 1), (d, 1)]
  | .unpk _ _ _ scl d a b => dstUse d 1 ++ [(a, 1)] ++ (if scl then [(b, 1)] else [])
  | .fdiv _ ty _ _ d a b => dstUse d (width ty.is64) ++ [(a, width ty.is64), (b, width ty.is64)]
  | .fsqrt _ ty _ _ d a => dstUse d (width ty.is64) ++ [(a, width ty.is64)]
  | .rcp _ _ _ d a => dstUse d 1 ++ [(a, 1)]
  | .rsq _ _ _ d a => dstUse d 1 ++ [(a, 1)]
  | .ex2 _ _ _ d a => dstUse d 1 ++ [(a, 1)]
  | .lg2 _ _ _ d a => dstUse d 1 ++ [(a, 1)]
  | .sinpi _ _ _ d a => dstUse d 1 ++ [(a, 1)]
  | .cospi _ _ _ d a => dstUse d 1 ++ [(a, 1)]
  | .tanh _ _ _ d a => dstUse d 1 ++ [(a, 1)]
  | .shfl _ ty _ _ d a b => dstUse d (width ty.is64) ++ [(a, width ty.is64), (b, 1)]
  | .vote _ vm d a => (if vm == .bal then dstUse d 1 else [(d, 1)]) ++ [(a, 1)]
  | .lred _ ty _ _ _ _ d a => dstUse d (width ty.is64) ++ [(a, width ty.is64)]
  | .scan _ ty _ _ _ _ _ d a => dstUse d (width ty.is64) ++ [(a, width ty.is64)]
  | .bra _ _ => []
  | .braq _ _ => []
  | .jmpi _ a => [(a, 1)]
  | .call _ d _ => [(d, 2)]
  | .callx _ _ d => [(d, 2)]
  | .ret _ a => [(a, 2)]
  | .join _ a => [(a, 1)]
  | .exit _ => []
  | .nap _ a => [(a, 1)]
  | .brk _ _ => []
  | .trapi _ _ d => dstUse d 1
  | .ld _ ty _ _ lk _ d a b => dstUse d (width ty.is64) ++ [(b, 1)] ++ (if lk then [] else [(a, 2)])
  | .ldLong _ d a _ => dstUse d 1 ++ [(a, 2)]
  | .st _ ty _ _ lk _ d a b => [(d, width ty.is64), (b, 1)] ++ (if lk then [] else [(a, 2)])
  | .stLong _ d a _ => [(d, 1), (a, 2)]
  | .aadd _ ty _ _ d a b => dstUse d (width ty.is64) ++ [(b, width ty.is64), (a, 2)]
  | .amin _ ty _ _ d a b => dstUse d (width ty.is64) ++ [(b, width ty.is64), (a, 2)]
  | .amax _ ty _ _ d a b => dstUse d (width ty.is64) ++ [(b, width ty.is64), (a, 2)]
  | .aand _ ty _ _ d a b => dstUse d (width ty.is64) ++ [(b, width ty.is64), (a, 2)]
  | .aor _ ty _ _ d a b => dstUse d (width ty.is64) ++ [(b, width ty.is64), (a, 2)]
  | .axor _ ty _ _ d a b => dstUse d (width ty.is64) ++ [(b, width ty.is64), (a, 2)]
  | .axch _ ty _ _ d a b => dstUse d (width ty.is64) ++ [(b, width ty.is64), (a, 2)]
  | .acas _ ty _ _ d a b c => dstUse d (width ty.is64) ++ [(b, width ty.is64), (c, width ty.is64), (a, 2)]
  | .afadd _ ty _ _ d a b => dstUse d (width ty.is64) ++ [(b, width ty.is64), (a, 2)]
  | .ldsp _ ty _ _ d a b => dstUse d (width ty.is64) ++ [(a, 1), (b, 1)]
  | .ldspLong _ d a _ => dstUse d 1 ++ [(a, 1)]
  | .stsp _ ty _ _ d a b => [(d, width ty.is64), (a, 1), (b, 1)]
  | .stspLong _ d a _ => [(d, 1), (a, 1)]
  | .ldsg _ ty _ _ d a b => dstUse d (width ty.is64) ++ [(a, 1), (b, 1)]
  | .stsg _ ty _ _ d a b => [(d, width ty.is64), (a, 1), (b, 1)]
  | .symst _ ty cpx d a b => [(d, width (cpx || ty.is64)), (a, 2), (b, 3)]
  | .push _ cnt d a => [(d, 1), (a, cnt.toNat + 1)]
  | .pop _ cnt d a => [(d, 1), (a, cnt.toNat + 1)]
  | .pfet _ _ a b => [(b, 1), (a, 2)]
  | .fence _ _ _ => []
  | .copyl _ _ d a => [(d, 2), (a, 2)]
  | .copyt _ a => [(a, 1)]
  | .copyg _ a => [(a, 1)]
  | .mma _ _ _ scl _ a b c => [(a, 1), (b, 1)] ++ (if scl then [(c, 1)] else [])
  | .mchb _ _ a => [(a, 1)]
  | .mche _ _ => []
  | .accz _ _ => []
  | .accsc _ _ a => [(a, 1)]
  | .acccvt _ _ scl _ b c => [(b, 1)] ++ (if scl then [(c, 1)] else [])
  | .lda _ d _ b => [(d, 2), (b, 1)]
  | .sta _ _ a b => [(a, 2), (b, 1)]
  | .guide _ _ _ b => [(b, 1)]
  | .pairx _ _ => []
  | .mbxtake _ _ d a b => [(d, 2), (a, 1), (b, 1)]
  | .mbxpost _ _ d a b => [(d, 2), (a, 1), (b, 1)]
  | .mbxdone _ d a b => [(d, 1), (a, 1), (b, 2)]
  | .recEmit _ _ d a => [(d, 16), (a, 2)]
  | .recget _ d a => [(d, 16), (a, 1)]
  | .fork _ d a b => [(d, 2), (a, 2), (b, 1)]
  | .phase _ => []
  | .roleqRes _ d a => [(d, 2), (a, 1)]
  | .roleqPub _ a b => [(a, 1), (b, 1)]
  | .roleqTake _ d a => [(d, 2), (a, 1)]
  | .roleqFree _ a b => [(a, 1), (b, 1)]
  | .drain _ a => [(a, 1)]
  | .lref _ _ d => [(d, 2)]
  | .lbind _ _ d a b => [(d, 1), (b, 2)] ++ a.toList.map fun o => (o, 1)
  | .lunb _ _ d a => [(d, 1)] ++ a.toList.map fun o => (o, 1)
  | .lqry _ _ d a => [(d, 2)] ++ a.toList.map fun o => (o, 1)
  | .sega _ d a => [(d, 2), (a, 1)]
  | .segf _ a => [(a, 2)]
  | .segq _ _ d a => [(d, 1), (a, 1)]
  | .segrt _ a b => [(a, 1), (b, 1)]
  | .seal _ => []
  | .waitb _ a => [(a, 1)]
  | .bar _ => []
  | .cbar _ => []
  | .arrive _ rm a b c => [(a, 1), (b, 1)] ++ (if rm then [(c, 1)] else [])
  | .await _ a b => [(a, 1), (b, 1)]
  | .sread _ _ d a => dstUse d (if a == .s .cyc then 2 else 1)
  | .swrite _ _ b => [(b, 1)]
  | .acqGrant _ _ _ => []
  | .acqDenial _ _ _ => []
  | .joinRelease _ _ => []
  | .collectiveExecute _ _ => []
  | .napExpiry _ _ _ => []
  | .loadReturn _ _ _ => []
  | .atomicReturn _ => []
  | .remoteWriteApply _ _ => []
  | .fenceComplete _ _ _ => []
  | .pageMigration _ _ _ _ => []
  | .patrolScrub _ _ _ => []
  | .demandPageService _ _ _ _ => []
  | .privateGrowthService _ _ _ => []
  | .twinWaitResolve _ _ => []
  | .copyLanding _ _ => []
  | .copyFault _ _ => []
  | .mmaStep _ _ => []
  | .mchbApply _ _ => []
  | .mcheApply _ _ => []
  | .acczApply _ _ => []
  | .accscApply _ _ => []
  | .acccvtApply _ _ => []
  | .staApply _ _ => []
  | .guideApply _ _ => []
  | .mbxtakeWake _ _ => []
  | .mbxpostWake _ _ => []
  | .nodeCountdownExpiry _ _ _ => []
  | .childAdmit _ _ => []
  | .spillRefill _ _ => []
  | .forkResume _ _ _ => []
  | .inlineChildEnd _ => []
  | .phaseReseat _ => []
  | .roleqWake _ _ => []
  | .pennantPass _ _ => []
  | .nameResolution _ _ _ => []
  | .sealRelease _ _ _ => []
  | .waitbRelease _ _ _ => []
  | .barRelease _ => []
  | .cbarRelease _ => []
  | .arriveApply _ => []
  | .awaitRelease _ _ => []
  | .bandSelect _ => []
  | .admissionCommit _ => []
  | .seating _ => []
  | .groupRestore _ => []
  | .groupPreempt _ => []
  | .partitionSave _ _ => []
  | .partitionRestore _ _ => []
  | .partitionExchange _ _ => []
  | .haltLineArrival _ _ => []
  | .haltSettled _ => []
  | .unbindComplete _ _ _ => []
  | .moveComplete _ => []
  | .scrubComplete => []
  | .serviceWindowAccess _ _ _ => []
  | .mailboxSubmit _ _ _ => []
  | .recordAccept _ _ => []
  | .launchRecord _ _ _ => []
  | .ctxCreate _ _ => []
  | .ctxDestroy _ => []
  | .segCreate _ _ => []
  | .segFree _ _ => []
  | .codeInstall _ _ => []
  | .codeRemove _ _ => []
  | .mailboxSet _ _ _ => []
  | .unbind _ _ => []
  | .stop _ => []
  | .resumeCtx _ => []
  | .teardown _ => []
  | .readHalt _ _ => []
  | .reply _ _ _ => []
  | .eventRing _ _ _ _ => []
  | .eventRingConsumed _ _ => []
  | .leaseRenew _ _ => []
  | .leaseTake _ _ => []
  | .leaseCountdown => []
  | .setMode _ _ => []
  | .powerCap _ _ => []
  | .sealKey _ _ _ _ _ => []
  | .aperture _ _ => []
  | .bind _ _ => []
  | .bar2Access _ _ _ _ _ => []
  | .bar0WriteOther _ _ => []
  | .peerTimeout _ => []
  | .fabricPortFail _ => []
  | .lockstepMismatch _ => []
  | .heartbeat => []
  | .ensignTakeover => []
  | .coldBoot _ => []
  | .warmReset _ => []
  | .dieReset _ => []
  | .levelRaise => []
  | .spdmRequest _ _ => []
  | .tdiConfigChange _ => []
  | .pageSeal _ _ _ => []
  | .powerThrottle _ _ => []
  | .powerRestore _ => []
  | .peerRequest _ => []
  | .peerGrant _ _ _ _ => []
  | .tdispRequest _ _ => []
  | .fabricPortRetrained _ => []
/-- Of these registers, those that an instruction writes without reading them first; a P or Q register is part of a word. -/
def destOf : Instr → List (Opd × Nat)
  | .nop _ => []
  | .mov _ ty d _ => dstUse d (width ty.is64)
  | .movLong _ d _ => dstUse d 1
  | .sel _ ty d _ _ _ => dstUse d (width ty.is64)
  | .plog _ _ _ _ _ => []
  | .iadd _ ty _ d _ _ => dstUse d (width ty.is64)
  | .iaddLong _ d _ _ => dstUse d 1
  | .isub _ ty _ d _ _ => dstUse d (width ty.is64)
  | .isubLong _ d _ _ => dstUse d 1
  | .imul _ ty _ d _ _ => dstUse d (width ty.is64)
  | .imulLong _ d _ _ => dstUse d 1
  | .imulh _ ty d _ _ => dstUse d (width ty.is64)
  | .imad _ ty _ d _ _ _ => dstUse d (width ty.is64)
  | .idiv _ ty _ d _ _ => dstUse d (width ty.is64)
  | .irem _ ty d _ _ => dstUse d (width ty.is64)
  | .imin _ ty d _ _ => dstUse d (width ty.is64)
  | .imax _ ty d _ _ => dstUse d (width ty.is64)
  | .iabs _ ty _ d _ => dstUse d (width ty.is64)
  | .ineg _ ty _ d _ => dstUse d (width ty.is64)
  | .icmp _ _ _ _ _ _ => []
  | .and _ ty d _ _ => dstUse d (width ty.is64)
  | .andLong _ d _ _ => dstUse d 1
  | .or _ ty d _ _ => dstUse d (width ty.is64)
  | .orLong _ d _ _ => dstUse d 1
  | .xor _ ty d _ _ => dstUse d (width ty.is64)
  | .xorLong _ d _ _ => dstUse d 1
  | .andn _ ty d _ _ => dstUse d (width ty.is64)
  | .not _ ty d _ => dstUse d (width ty.is64)
  | .shl _ ty d _ _ => dstUse d (width ty.is64)
  | .shr _ ty d _ _ => dstUse d (width ty.is64)
  | .sar _ ty d _ _ => dstUse d (width ty.is64)
  | .rol _ ty d _ _ => dstUse d (width ty.is64)
  | .popc _ _ d _ => dstUse d 1
  | .clz _ _ d _ => dstUse d 1
  | .ctz _ _ d _ => dstUse d 1
  | .brev _ ty d _ => dstUse d (width ty.is64)
  | .bfx _ ty d _ _ => dstUse d (width ty.is64)
  | .bfxLong _ d _ _ => dstUse d 1
  | .bfi _ ty d _ _ _ => dstUse d (width ty.is64)
  | .hadd _ _ _ d _ _ => [(d, 2)]
  | .haddLong _ d _ _ => [(d, 2)]
  | .hsub _ d _ _ => [(d, 2)]
  | .hsel _ d _ => dstUse d 1
  | .hoff _ d _ => [(d, 2)]
  | .hmake _ d _ _ => [(d, 2)]
  | .hcmp _ _ _ _ _ => []
  | .badd _ _ _ d _ _ => [(d, 1)]
  | .baddLong _ d _ _ => [(d, 1)]
  | .bsub _ _ _ d _ _ => [(d, 1)]
  | .bmul _ _ _ d _ _ => [(d, 1)]
  | .band _ _ d _ _ => [(d, 1)]
  | .bor _ _ d _ _ => [(d, 1)]
  | .bxor _ _ d _ _ => [(d, 1)]
  | .bshl _ _ d _ _ => [(d, 1)]
  | .bshr _ _ d _ _ => [(d, 1)]
  | .bsar _ _ d _ _ => [(d, 1)]
  | .bmin _ _ d _ _ => [(d, 1)]
  | .bmax _ _ d _ _ => [(d, 1)]
  | .bmov _ _ d _ => [(d, 1)]
  | .bmovLong _ d _ => [(d, 1)]
  | .bcmp _ _ _ _ _ _ => []
  | .bsel _ _ d _ _ _ => [(d, 1)]
  | .qlog _ _ _ _ _ => []
  | .bget _ _ d _ => [(d, 1)]
  | .bred _ _ _ _ d _ => [(d, 1)]
  | .acq _ _ _ _ => []
  | .rel _ _ => []
  | .fadd _ ty _ _ d _ _ => dstUse d (width ty.is64)
  | .faddLong _ d _ _ => dstUse d 1
  | .fsub _ ty _ _ d _ _ => dstUse d (width ty.is64)
  | .fmul _ ty _ _ d _ _ => dstUse d (width ty.is64)
  | .fmulLong _ d _ _ => dstUse d 1
  | .ffma _ ty _ _ d _ _ _ => dstUse d (width ty.is64)
  | .fmin _ ty _ d _ _ => dstUse d (width ty.is64)
  | .fmax _ ty _ d _ _ => dstUse d (width ty.is64)
  | .fabs _ ty d _ => dstUse d (width ty.is64)
  | .fneg _ ty d _ => dstUse d (width ty.is64)
  | .fcmp _ _ _ _ _ _ _ => []
  | .fclass _ _ d _ => dstUse d 1
  | .frnd _ ty _ d _ => dstUse d (width ty.is64)
  | .fscl _ ty _ _ d _ _ => dstUse d (width ty.is64)
  | .fadd2 _ _ _ _ d _ _ => dstUse d 1
  | .fsub2 _ _ _ _ d _ _ => dstUse d 1
  | .fmul2 _ _ _ _ d _ _ => dstUse d 1
  | .ffma2 _ _ _ _ d _ _ _ => dstUse d 1
  | .fmin2 _ _ _ d _ _ => dstUse d 1
  | .fmax2 _ _ _ d _ _ => dstUse d 1
  | .fcmp2 _ _ _ _ d _ _ => dstUse d 1
  | .fdot2 _ _ _ _ d _ _ _ => dstUse d 1
  | .cvt _ ty _ _ _ _ _ d _ => dstUse d (width ty.is64)
  | .pack _ _ _ _ _ _ _ _ _ => []
  | .unpk _ _ _ _ d _ _ => dstUse d 1
  | .fdiv _ ty _ _ d _ _ => dstUse d (width ty.is64)
  | .fsqrt _ ty _ _ d _ => dstUse d (width ty.is64)
  | .rcp _ _ _ d _ => dstUse d 1
  | .rsq _ _ _ d _ => dstUse d 1
  | .ex2 _ _ _ d _ => dstUse d 1
  | .lg2 _ _ _ d _ => dstUse d 1
  | .sinpi _ _ _ d _ => dstUse d 1
  | .cospi _ _ _ d _ => dstUse d 1
  | .tanh _ _ _ d _ => dstUse d 1
  | .shfl _ ty _ _ d _ _ => dstUse d (width ty.is64)
  | .vote _ vm d _ => if vm == .bal then dstUse d 1 else []
  | .lred _ ty _ _ _ _ d _ => dstUse d (width ty.is64)
  | .scan _ ty _ _ _ _ _ d _ => dstUse d (width ty.is64)
  | .bra _ _ => []
  | .braq _ _ => []
  | .jmpi _ _ => []
  | .call _ d _ => [(d, 2)]
  | .callx _ _ d => [(d, 2)]
  | .ret _ _ => []
  | .join _ _ => []
  | .exit _ => []
  | .nap _ _ => []
  | .brk _ _ => []
  | .trapi _ _ d => dstUse d 1
  | .ld _ ty _ _ _ _ d _ _ => dstUse d (width ty.is64)
  | .ldLong _ d _ _ => dstUse d 1
  | .st _ _ _ _ _ _ _ _ _ => []
  | .stLong _ _ _ _ => []
  | .aadd _ ty _ _ d _ _ => dstUse d (width ty.is64)
  | .amin _ ty _ _ d _ _ => dstUse d (width ty.is64)
  | .amax _ ty _ _ d _ _ => dstUse d (width ty.is64)
  | .aand _ ty _ _ d _ _ => dstUse d (width ty.is64)
  | .aor _ ty _ _ d _ _ => dstUse d (width ty.is64)
  | .axor _ ty _ _ d _ _ => dstUse d (width ty.is64)
  | .axch _ ty _ _ d _ _ => dstUse d (width ty.is64)
  | .acas _ ty _ _ d _ _ _ => dstUse d (width ty.is64)
  | .afadd _ ty _ _ d _ _ => dstUse d (width ty.is64)
  | .ldsp _ ty _ _ d _ _ => dstUse d (width ty.is64)
  | .ldspLong _ d _ _ => dstUse d 1
  | .stsp _ _ _ _ _ _ _ => []
  | .stspLong _ _ _ _ => []
  | .ldsg _ ty _ _ d _ _ => dstUse d (width ty.is64)
  | .stsg _ _ _ _ _ _ _ => []
  | .symst _ _ _ _ _ _ => []
  | .push _ _ _ _ => []
  | .pop _ cnt _ a => [(a, cnt.toNat + 1)]
  | .pfet _ _ _ _ => []
  | .fence _ _ _ => []
  | .copyl _ _ _ _ => []
  | .copyt _ _ => []
  | .copyg _ _ => []
  | .mma _ _ _ _ _ _ _ _ => []
  | .mchb _ _ _ => []
  | .mche _ _ => []
  | .accz _ _ => []
  | .accsc _ _ _ => []
  | .acccvt _ _ _ _ _ _ => []
  | .lda _ d _ _ => [(d, 2)]
  | .sta _ _ _ _ => []
  | .guide _ _ _ _ => []
  | .pairx _ _ => []
  | .mbxtake _ _ d _ _ => [(d, 2)]
  | .mbxpost _ _ d _ _ => [(d, 2)]
  | .mbxdone _ _ _ _ => []
  | .recEmit _ _ _ _ => []
  | .recget _ d _ => [(d, 16)]
  | .fork _ _ _ _ => []
  | .phase _ => []
  | .roleqRes _ d _ => [(d, 2)]
  | .roleqPub _ _ _ => []
  | .roleqTake _ d _ => [(d, 2)]
  | .roleqFree _ _ _ => []
  | .drain _ _ => []
  | .lref _ _ d => [(d, 2)]
  | .lbind _ _ _ _ _ => []
  | .lunb _ _ _ _ => []
  | .lqry _ _ d _ => [(d, 2)]
  | .sega _ d _ => [(d, 2)]
  | .segf _ _ => []
  | .segq _ _ d _ => [(d, 1)]
  | .segrt _ _ _ => []
  | .seal _ => []
  | .waitb _ _ => []
  | .bar _ => []
  | .cbar _ => []
  | .arrive _ _ _ _ _ => []
  | .await _ _ _ => []
  | .sread _ _ d a => dstUse d (if a == .s .cyc then 2 else 1)
  | .swrite _ _ _ => []
  | .acqGrant _ _ _ => []
  | .acqDenial _ _ _ => []
  | .joinRelease _ _ => []
  | .collectiveExecute _ _ => []
  | .napExpiry _ _ _ => []
  | .loadReturn _ _ _ => []
  | .atomicReturn _ => []
  | .remoteWriteApply _ _ => []
  | .fenceComplete _ _ _ => []
  | .pageMigration _ _ _ _ => []
  | .patrolScrub _ _ _ => []
  | .demandPageService _ _ _ _ => []
  | .privateGrowthService _ _ _ => []
  | .twinWaitResolve _ _ => []
  | .copyLanding _ _ => []
  | .copyFault _ _ => []
  | .mmaStep _ _ => []
  | .mchbApply _ _ => []
  | .mcheApply _ _ => []
  | .acczApply _ _ => []
  | .accscApply _ _ => []
  | .acccvtApply _ _ => []
  | .staApply _ _ => []
  | .guideApply _ _ => []
  | .mbxtakeWake _ _ => []
  | .mbxpostWake _ _ => []
  | .nodeCountdownExpiry _ _ _ => []
  | .childAdmit _ _ => []
  | .spillRefill _ _ => []
  | .forkResume _ _ _ => []
  | .inlineChildEnd _ => []
  | .phaseReseat _ => []
  | .roleqWake _ _ => []
  | .pennantPass _ _ => []
  | .nameResolution _ _ _ => []
  | .sealRelease _ _ _ => []
  | .waitbRelease _ _ _ => []
  | .barRelease _ => []
  | .cbarRelease _ => []
  | .arriveApply _ => []
  | .awaitRelease _ _ => []
  | .bandSelect _ => []
  | .admissionCommit _ => []
  | .seating _ => []
  | .groupRestore _ => []
  | .groupPreempt _ => []
  | .partitionSave _ _ => []
  | .partitionRestore _ _ => []
  | .partitionExchange _ _ => []
  | .haltLineArrival _ _ => []
  | .haltSettled _ => []
  | .unbindComplete _ _ _ => []
  | .moveComplete _ => []
  | .scrubComplete => []
  | .serviceWindowAccess _ _ _ => []
  | .mailboxSubmit _ _ _ => []
  | .recordAccept _ _ => []
  | .launchRecord _ _ _ => []
  | .ctxCreate _ _ => []
  | .ctxDestroy _ => []
  | .segCreate _ _ => []
  | .segFree _ _ => []
  | .codeInstall _ _ => []
  | .codeRemove _ _ => []
  | .mailboxSet _ _ _ => []
  | .unbind _ _ => []
  | .stop _ => []
  | .resumeCtx _ => []
  | .teardown _ => []
  | .readHalt _ _ => []
  | .reply _ _ _ => []
  | .eventRing _ _ _ _ => []
  | .eventRingConsumed _ _ => []
  | .leaseRenew _ _ => []
  | .leaseTake _ _ => []
  | .leaseCountdown => []
  | .setMode _ _ => []
  | .powerCap _ _ => []
  | .sealKey _ _ _ _ _ => []
  | .aperture _ _ => []
  | .bind _ _ => []
  | .bar2Access _ _ _ _ _ => []
  | .bar0WriteOther _ _ => []
  | .peerTimeout _ => []
  | .fabricPortFail _ => []
  | .lockstepMismatch _ => []
  | .heartbeat => []
  | .ensignTakeover => []
  | .coldBoot _ => []
  | .warmReset _ => []
  | .dieReset _ => []
  | .levelRaise => []
  | .spdmRequest _ _ => []
  | .tdiConfigChange _ => []
  | .pageSeal _ _ _ => []
  | .powerThrottle _ _ => []
  | .powerRestore _ => []
  | .peerRequest _ => []
  | .peerGrant _ _ _ _ => []
  | .tdispRequest _ _ => []
  | .fabricPortRetrained _ => []

end Sys2Proof.Machine
end

