-- ==== Sys2Proof/Machine/Records.lean ====
section
/-! DEFINITION. The records of what is seated (R326 to R328, R333, R334): thread control and seat records, and stop records. -/

namespace Sys2Proof.Machine

/-! ### Control records (R333, R334, R336) -/

/-- A list in rising order of a key, equals as they stood. -/
def sortOn {α : Type} (key : α → Nat) (l : List α) : List α :=
  l.foldr (fun x acc => let (lo, hi) := acc.partition fun y => key y < key x; lo ++ x :: hi) []
/-- The wait kind of a thread (R336). A band in LUNB waits on a binding entry, kind 7; a lane outside an inline child waits in a queue
command, kind 12 (log entry 34). -/
def Thread.waitKind (t : Thread) : Nat :=
  match t.wait with
  | .none => if t.nap == 0 then 0 else 14
  | .join _ _ => 1
  | .ijoin _ _ => 2
  | .bar _ => 3
  | .cbar _ _ => 3
  | .waitb _ => 4
  | .acq _ _ _ => 5
  | .twin => 6
  | .guide => 6
  | .bind _ _ => 7
  | .unbind _ _ _ _ => 7
  | .page _ _ => 8
  | .growth _ => 8
  | .trap _ _ _ _ => 9
  | .seal => 10
  | .await _ _ => 11
  | .queue _ => 12
  | .inl => 12
  | .fence _ _ => 13
/-- The 16 bytes of a wait's detail (R336). -/
def waitDetail (w : Wait) : List Byte :=
  match w with
  | .join m p => bytesOfNat 8 m.toNat ++ bytesOfNat 8 p.val.toNat
  | .ijoin p _ => bytesOfNat 8 0 ++ bytesOfNat 8 p.val.toNat
  | .waitb n => bytesOfNat 16 n.toNat
  | .acq n _ _ => bytesOfNat 16 n
  | .bind s k => bytesOfNat 16 (bindArg s k).toNat
  | .unbind s k _ _ => bytesOfNat 16 (bindArg s k).toNat
  | .page h _ => bytesOfNat 16 h.toNat
  | .growth h => bytesOfNat 16 h.toNat
  | .trap _ _ c _ => bytesOfNat 16 c.toNat
  | .await i t => bytesOfNat 4 i ++ bytesOfNat 12 t.toNat
  | _ => bytesOfNat 16 0
/-- A truth value as a bit of a number. -/
def bitAt (v : Bool) (k : Nat) : Nat := if v then 2 ^ k else 0
/-- The 256 bytes of a thread control record (R333). -/
def Thread.control (t : Thread) : List Byte :=
  bytesOfNat 8 t.pc.val.toNat ++
    bytesOfNat 4 (bitAt t.live 0 + bitAt t.stopped 1 + bitAt t.breakPassed 2 + bitAt t.demoted 3 + t.waitKind * 256) ++
    bytesOfNat 2 t.depth ++ [t.p.setWidth 8, BitVec.ofNat 8 t.xstack.length] ++ bytesOfNat 4 t.fflags.toNat ++
    bytesOfNat 4 t.batch.toNat ++ bytesOfNat 4 t.bdone.toNat ++ bytesOfNat 4 t.nap ++ waitDetail t.wait ++
    (bytesOfNat 2 t.openOps ++ ((List.range 16).map fun i => bytesOfNat 2 (t.sealed.getD i 0)).flatten) ++ List.replicate 14 0 ++
    ((List.range 16).map fun i => bytesOfNat 4 (((t.xstack.reverse[i]?).map fun e => e.1.toNat * 65536 + e.2.toNat * 16).getD 0)).flatten ++
    List.replicate 96 0
/-- The 64 bytes of a seat record (R334). -/
def seatRecord (g : Group) (i : Nat) (b : Band) : List Byte :=
  [BitVec.ofNat 8 (1 + bitAt b.paired 1), BitVec.ofNat 8 b.cls, BitVec.ofNat 8 g.number, BitVec.ofNat 8 i] ++ bytesOfNat 2 b.row0 ++
    bytesOfNat 2 g.budget ++ ((List.range 15).map fun k => bytesOfNat 2 (b.allChunks.getD k 0xFFFF)).flatten ++
    [b.q.setWidth 8, 0] ++ bytesOfNat 4 b.mmaCount.toNat ++ bytesOfNat 4 b.guideCount.toNat ++ List.replicate 16 0

/-! ### Stop records (R326, R327) -/

/-- The stop record of a band (R326). -/
def State.bandRecord (s : State) (x : Context) (g : Group) (i : Nat) (b : Band) : List Byte :=
  let reason := (b.fault.map (·.reason)).getD 0
  let word : W96 := match b.fault with
    | some f => f.word
    | none => match lowestPc b.threads with
      | some p => s.wordAt g.die g.ctx p
      | none => 0
  let flags : Nat := (b.fault.map fun f => bitAt f.primary 0 + bitAt f.late 1 + bitAt f.second 2).getD 0
  [1, BitVec.ofNat 8 reason] ++ bytesOfNat 2 x.number ++ bytesOfNat 4 x.haltSeq.toNat ++
    bytesOfNat 4 (((tabGet s.clusters g.cid).map (·.number)).getD 0) ++
    [BitVec.ofNat 8 g.number, BitVec.ofNat 8 i, BitVec.ofNat 8 b.slice, BitVec.ofNat 8 b.seat] ++ bytesOfNat 4 b.sLive.toNat ++
    bytesOfNat 4 ((b.fault.map fun f => f.active.toNat).getD 0) ++ bytesOfNat 4 (maskOfLanes (·.stopped) b.threads).toNat ++
    bytesOfNat 4 (maskOfLanes (fun t => t.live && t.waitKind != 0) b.threads).toNat ++ bytesOfNat 12 word.toNat ++
    bytesOfNat 4 ((b.fault.map fun f => f.byteOff.toNat).getD 0) ++ bytesOfNat 8 ((b.fault.map fun f => f.arg.toNat).getD 0) ++
    bytesOfNat 2 (if reason == rBreak then (b.brk.map (·.code.toNat)).getD 0 else 0) ++ [BitVec.ofNat 8 flags] ++ List.replicate 5 0 ++
    (mapIdx (fun l (t : Thread) => bytesOfNat 8 (if 32 * i + l < g.n then t.pc.val.toNat else 0)) b.threads 0).flatten
/-- The stop record of an engine (R327): kind 2 a copy engine, 3 a matrix engine. -/
def engineRecord (x : Context) (kind core count more tile : Nat) (pc : Option PC) (f : Option FaultInfo) : List Byte :=
  [BitVec.ofNat 8 kind, BitVec.ofNat 8 ((f.map (·.reason)).getD 0)] ++ bytesOfNat 2 x.number ++ bytesOfNat 4 x.haltSeq.toNat ++
    bytesOfNat 2 core ++ bytesOfNat 2 count ++ bytesOfNat 2 more ++
    [BitVec.ofNat 8 tile, BitVec.ofNat 8 ((f.map fun f => bitAt f.primary 0 + bitAt f.late 1).getD 0)] ++
    bytesOfNat 8 ((pc.map (·.val.toNat)).getD 0) ++ bytesOfNat 8 ((f.map fun f => f.arg.toNat).getD 0) ++ List.replicate 32 0
/-- The tiles of a core with an open chain. -/
def Core.openTiles (k : Core) : Nat := ((List.range 16).map fun t => bitAt (k.tile t).chain.isSome t).sum
/-- The stop records of a core's engines, where they held work of the context as its line arrived, or fault (R327): a copy engine's counts
what was in flight when the line arrived (log entry 35). A faulted engine names the PC of the command that faulted. -/
def State.engineRecords (s : State) (x : Context) (core : Nat) : List (List Byte) :=
  let k := s.core core
  let e := k.stop.getD ⟨false, 0, 0, k.copyPc, false⟩
  let ms := k.mq.filter fun q => q.ctx == x.number
  let pcOf (f : Option FaultInfo) (last : Option PC) : Option PC :=
    match f with
    | some f => f.pc
    | none => last
  (if e.copy || k.cFault.isSome then [engineRecord x 2 core e.lines e.tiled 0 (pcOf k.cFault e.copyPc) k.cFault] else []) ++
    (if !e.matrix && ms.isEmpty && k.mFault.isNone && k.openTiles == 0 then []
     else [engineRecord x 3 core ms.length k.openTiles (k.lastTile.getD 0xFF) (pcOf k.mFault k.lastPc) k.mFault])
/-- Whether a core belongs to a context's partitions. -/
def State.servesCtx (s : State) (ctx core : Nat) : Bool := (s.part (partOf core)).owner == some ctx
/-- The place of a stop record in the halt area (R328): band records by cluster, group and band, then engine records by core. -/
def recordKey (r : List Byte) : Nat :=
  if leAt r 0 1 == 1 then leAt r 8 4 * 65536 + leAt r 0xC 1 * 256 + leAt r 0xD 1 else 2 ^ 64 + leAt r 8 2 * 4 + leAt r 0 1
/-- The stop records that the bands of some groups and the engines of some cores write for a context (R326, R327): those of every group that
was seated when the line arrived, wherever it is now. -/
def State.recordsFrom (s : State) (x : Context) (group : Nat → Group → Bool) (core : Nat → Bool) : List (List Byte) :=
  (s.groups.flatMap fun p =>
      if p.2.ctx == x.number && p.2.halted && group p.1 p.2 then mapIdx (fun i b => s.bandRecord x p.2 i b) p.2.bands 0 else []) ++
    s.cores.flatMap fun p => if s.servesCtx x.number p.1 && core p.1 then s.engineRecords x p.1 else []
/-- The stop records that a partition of a context on its way to HALTED writes before its save completes (R339, R340). -/
def State.partRecords (s : State) (x : Context) (part : Nat) : List (List Byte) :=
  s.recordsFrom x (fun gid g => partOf g.core == part && g.place != GPlace.ended && !s.inShadow gid) (partOf · == part)
/-- The stop records that partitions saved during this halt have written (R339, R340). -/
def State.savedRecords (s : State) (x : Context) : List (List Byte) :=
  s.shadows.flatMap fun p =>
    if p.2.partition.owner == some x.number && p.2.halt == HaltState.halting && p.2.haltSeq == x.haltSeq then p.2.records else []
/-- The stop records of a context in the order of R328, those of its saved partitions among them. -/
def State.stopRecords (s : State) (x : Context) : List (List Byte) :=
  sortOn recordKey (s.recordsFrom x (fun gid _ => !s.inShadow gid) (fun _ => true) ++ s.savedRecords x)

end Sys2Proof.Machine
end

