-- ==== Sys2Proof/Machine/Schedule.lean ====
section
/-! DEFINITION. Choosing what issues (R26 to R30, R111, R113, R173): BAND_SELECT and COLLECTIVE_EXECUTE; and a partition saved to, restored
from or exchanged with a shadow slot (R335 to R340). -/

namespace Sys2Proof.Machine

/-! ### The vote inside a band (R27, R29, R30) -/

/-- Whether a thread meets the first three conditions of R27: live, not parked, not waiting (R161, R176, R177). -/
def Thread.candidate (t : Thread) : Bool := t.here && t.wait == Wait.none && t.nap == 0 && !t.stopped
/-- The demoted bits and spin records of a band cleared when it has no eligible thread with a clear demoted bit (R30). -/
def Band.undemote (b : Band) : Band :=
  if (b.threads.filter Thread.candidate).all (·.demoted) then
    { b with threads := b.threads.map fun t => { t with demoted := false, spin := none } }
  else b
/-- The eligible threads of a band (R27): undemoted candidates, without those that yield unless all of them do. Where an undemoted thread
yields beside a demoted one that does not, R27's last two conditions rest on each other; the demoted bit is taken first here (DESIGN CHOICE,
log entry 94). -/
def Band.eligible (b : Band) : Word :=
  let pool := maskOfLanes (fun t => t.candidate && !t.demoted) b.threads
  let keen := maskOfLanes (fun t => t.candidate && !t.demoted && !t.yielded) b.threads
  if keen == 0#32 then pool else keen
/-- The lowest PC among the threads of a mask (R162). -/
def minPc (m : Word) (ts : List Thread) : Option PC :=
  (mapIdx (fun i t => if m.getLsbD i then some t.pc else none) ts 0).foldl (fun (a : Option PC) p =>
    match a, p with
    | some x, some y => if y.lt x then some y else some x
    | none, p => p
    | a, none => a) none
/-- The threads of a mask that stand at a PC. -/
def atPc (m : Word) (ts : List Thread) (pc : PC) : Word := m &&& maskOfLanes (fun t => t.pc == pc) ts
/-- The splits a band presents (R27): the threads at the lowest PC, and those at the next distinct one. -/
def Band.splits (b : Band) : List (PC × Word) :=
  let m := b.eligible
  match minPc m b.threads with
  | none => []
  | some p =>
    let m0 := atPc m b.threads p
    match minPc (m &&& ~~~m0) b.threads with
    | none => [(p, m0)]
    | some q => [(p, m0), (q, atPc m b.threads q)]
/-- Whether a run of registers of a thread is free of pending accesses (R111): V and O by register, L by queue entry. -/
def Thread.free (t : Thread) (u : Opd × Nat) : Bool :=
  match u.1 with
  | .v i => (List.range u.2).all fun k => (tabGet t.pend (i.toNat + k)).isNone
  | .o i => (List.range u.2).all fun k => (tabGet t.pend (256 + i.toNat + k)).isNone
  | .l i => (t.lq.get i).pend.isNone
  | _ => true
/-- A split as the issue logic sees it: whether it takes the band slot, and whether the scoreboard passes it. A fetch that fails has no
operands to wait for. -/
def State.offer (s : State) (g : Group) (b : Band) (p : PC × Word) : Bool × Bool :=
  match s.fetch g.die g.ctx p.1 with
  | .ok _ _ i =>
    (bandSlot i, (lanesOf p.2).all fun l => ((b.threads[l]?).map fun t => (usesOf i).all t.free).getD true)
  | _ => (false, true)
/-- A split that is to issue. -/
def slotOf (gid band : Nat) (p : PC × Word) (second : Bool) : Slot := ⟨gid, band, p.2, p.1, p.1, 0, second⟩
/-- What a band issues this cycle (R28). Where a band instruction of split 0 and a vector instruction of split 1 issue together, the
vector instruction reads the B registers as they stand before the other writes them (R113): it comes first. -/
def State.issues (s : State) (gid band : Nat) (g : Group) (b : Band) : List Slot :=
  match b.splits with
  | [p] => if (s.offer g b p).2 then [slotOf gid band p false] else []
  | [p, q] =>
    let x := s.offer g b p
    let y := s.offer g b q
    let first := if x.2 then [slotOf gid band p false] else []
    let second := if y.2 then [slotOf gid band q true] else []
    if x.1 && y.1 then (if x.2 then first else second) else if x.1 then second ++ first else first ++ second
  | _ => []

/-! ### Choosing a band (R26) -/

/-- Whether the bands of a group can issue on a core: it is seated there, is not being moved, and its halt line has not reached it. -/
def State.canRun (s : State) (core : Nat) (g : Group) : Bool :=
  g.core == core && g.place == GPlace.seated && !g.moving && !s.lineAt g.ctx core
/-- A ready band: its group and number, its class and seat, and what it issues. -/
structure Ready where
  gid : Nat
  band : Nat
  cls : Nat
  seat : Nat
  slots : List Slot
/-- The ready bands of a slice (R26); a band that has faulted has stopped (R325). -/
def State.readyBands (s : State) (core slice : Nat) : List Ready :=
  s.groups.flatMap fun p =>
    if s.canRun core p.2 then
      (mapIdx (fun i (b : Band) =>
        if b.slice == slice && b.fault.isNone then
          match s.issues p.1 i p.2 b.undemote with
          | [] => []
          | sl => [(⟨p.1, i, b.cls, b.seat, sl⟩ : Ready)]
        else []) p.2.bands 0).flatten
    else []
/-- The choice of R26: the highest class, and in it the first seat at or after the class's pointer, wrapping from 15 to 0. -/
def chooseBand (rr : Nat → Nat) : List Ready → Option Ready
  | [] => none
  | r :: t =>
    match chooseBand rr t with
    | none => some r
    | some q =>
      let d (x : Ready) : Nat := (x.seat + 16 - rr x.cls) % 16
      if r.cls < q.cls || (r.cls == q.cls && d q < d r) then some q else some r
/-- The core's cycle counter rises (R283, log entry 3), every nap on it runs down, to its last cycle (R176), and bands without an
undemoted eligible thread lose their demoted bits (R30). -/
def State.tick (s : State) (core : Nat) : State :=
  let s := s.modCore core fun k => { k with cyc := k.cyc + 1 }
  { s with groups := s.groups.map fun p =>
      if s.canRun core p.2 then
        (p.1, { p.2 with bands := p.2.bands.map fun b => Band.undemote { b with threads := b.threads.map fun t =>
          if 1 < t.nap then { t with nap := t.nap - 1 } else t } })
      else p }
/-- The countdowns of a partition's gather buffers run down (R243). -/
def Partition.countDown (p : Partition) : Partition :=
  { p with gathers := p.gathers.map fun q => if q.running && q.count != 0#32 then { q with count := q.count - 1 } else q }
/-- A slice chooses a band and offers it an issue opportunity (R26); the band's yield bits end with it (R29). -/
def State.selectBand (s : State) (core slice : Nat) : State :=
  let key (cls : Nat) : Nat := slice * 4 + cls
  match chooseBand (fun c => tabGetD (s.core core).rr (key c) 0) (s.readyBands core slice) with
  | none => s
  | some r =>
    let s := s.modBand r.gid r.band fun b =>
      let b := b.undemote
      { b with threads := b.threads.map fun t => { t with yielded := false } }
    { s.modCore core fun k => { k with rr := tabSet k.rr (key r.cls) ((r.seat + 1) % 16) } with issueQ := s.issueQ ++ r.slots }
/-- BAND_SELECT (R26 to R30): one cycle, in which each slice that is named chooses a band, a core's slice 0 before its slice 1 (R210). The
cores named count the cycle, those that have a clock at the service level (R356). The ACQ.TRYs of the cycle before are served first (R108). -/
def execBandSelect (picks : List (Nat × Nat)) (s : State) : Out :=
  .next (
    let s : State := { s.endTries with cycle := s.cycle + 1, cycleId := s.nextId }
    let ps := picks.eraseDups.filter fun p => s.partRuns (partOf p.1)
    let cores := (ps.map (·.1)).eraseDups
    let s := cores.foldl State.tick s
    let s := (cores.map partOf).eraseDups.foldl (fun s p => if (s.part p).gathers.isEmpty then s else s.modPart p Partition.countDown) s
    (ps.filter (fun p => p.2 == 0) ++ ps.filter fun p => p.2 != 0).foldl (fun s p => s.selectBand p.1 p.2) s)
/-- COLLECTIVE_EXECUTE (R173, R232): the live threads of a band all wait at one collective, and its one execution issues. -/
def execCollectiveExecute (gid band : Nat) (s : State) : Out :=
  .next (
    match s.group? gid, s.band? gid band with
    | some g, some b =>
      match b.gatheredAny with
      | some p => if s.canRun g.core g && b.fault.isNone then { s with issueQ := s.issueQ ++ [slotOf gid band (p, b.live) false] } else s
      | none => s
    | _, _ => s)

/-! ### Partitions and the shadow layer (R335, R338, R339) -/

/-- The groups of a partition that are seated on it or wait in its phase queues, and those of its clusters that are swapped out. -/
def State.groupsOf (s : State) (part : Nat) : List (Nat × Group) :=
  s.groups.filter fun p => partOf p.2.core == part && p.2.place != GPlace.ended && !s.inShadow p.1
/-- Whether the policy may save a partition now (R335, R340): a context owns it, no move is under way, and the partition is settled if its
context is on its way to HALTED. -/
def State.canSave (s : State) (part : Nat) : Bool :=
  match ((s.part part).owner.bind s.ctx? : Option Context) with
  | some x =>
    part < Config.partitions && (x.halt != HaltState.halting || s.settledOn x (partOf · == part)) &&
      (s.groupsOf part).all fun p => !p.2.moving && !s.midStep p.1
  | none => false
/-- Whether a slot may hold a partition (R338): one of the two of its die, or, when both are taken, device memory, whose images are
numbered from 8. -/
def State.slotFits (s : State) (part slot : Nat) : Bool :=
  let die := part / 2
  if slot < 8 then slot / 2 == die else (tabGet s.shadows (2 * die)).isSome && (tabGet s.shadows (2 * die + 1)).isSome
/-- A core's own counter and translation cache stay with it (R179, R283); all else is part of the image. -/
def Core.exchange (mine other : Core) : Core := { other with cyc := mine.cyc, pages := mine.pages, links := [] }
/-- Whether a stop record is one of a partition's (R326, R327, R339): an engine's by its core, a band's by its cluster. -/
def State.recordOf (s : State) (part : Nat) (r : List Byte) : Bool :=
  if leAt r 0 1 == 1 then s.clusters.any fun p => p.2.part == part && p.2.number == leAt r 8 4 else partOf (leAt r 8 2) == part
/-- The stop records that go into a partition's image (R339, R340): written now while its context is on its way to HALTED, and those of the
halt area when it is HALTED. -/
def State.imageRecords (s : State) (x : Context) (part : Nat) : List (List Byte) :=
  if x.halt == HaltState.halting then s.partRecords x part else x.area.filter (s.recordOf part)
/-- A partition saved (R335, R338, R339): accesses return, stores are applied, its groups leave their seats with the move under way, and
its cores are left as after reset. Tile and gather operations of all its groups with their follow-on MMAs (R205, R220), the colours and
pennants of its members, and the stop records of its bands and engines go into the image, which takes the place of what the slot held. -/
def State.savePart (s : State) (part slot : Nat) : State :=
  let here (g : Group) : Bool := g.place == GPlace.seated || g.place == GPlace.phase
  let s := (s.groupsOf part).foldl (fun s p => (s.returnLoads p.1).release p.1 p.2.die .sy false) s
  let gs := s.groupsOf part
  let mine (p : Nat × Core) : Bool := partOf p.1 == part
  let x := (s.part part).owner.bind s.ctx?
  let black (b : Nat × Nat) : Bool := partOf b.2 == part
  let waits (p : Pennant) : Bool := gs.any fun g => g.1 == p.gid && here g.2
  let image : Shadow :=
    { part := part, cores := s.cores.filter mine, partition := s.part part, gids := gs.map (·.1)
      halted := (x.map (·.line)).getD false, halt := (x.map (·.halt)).getD .running, haltSeq := (x.map (·.haltSeq)).getD 0
      records := (x.map fun x => s.imageRecords x part).getD []
      blacks := ((x.map (·.blacks)).getD []).filter black, pennants := ((x.map (·.pennants)).getD []).filter waits }
  let s := gs.foldl (fun s p => s.modGroup p.1 fun g =>
    if here g then { g with place := .shadow slot (g.place == GPlace.seated), moving := true } else g) s
  let s := (gs.map (·.1)).foldl State.keepFollows (s.imageCopies true (gs.map (·.1)))
  let s := match x with
    | some x => s.modCtx x.number fun x => { x with
        blacks := x.blacks.filter fun b => !black b, pennants := x.pennants.filter fun p => !waits p }
    | none => s
  { s with
    shadows := tabSet s.shadows slot image
    eccBad := s.eccBad.filter fun k => !(k % 8 == 7 && k / 8 / 2 ^ 64 == slot)
    cores := s.cores.map fun p => if mine p then (p.1, p.2.exchange .zero) else p
    parts := tabSet s.parts part .zero }
/-- A thread as a partition's restore leaves it (R161, R336). -/
def Thread.restored (t : Thread) : Thread :=
  { t with nap := 0, woken := t.woken && !t.wait.parks, wait := if t.wait.parks then .none else t.wait }
/-- A partition restored from an image (R338): follow-on MMAs that became due meanwhile enter the queue when the move completes, before
any band issues (R220), and a DRAIN starts its round again (R254, R336). Under a high halt line it stays stopped (R339, R340). The
groups of a list, whose image holds an uncorrectable error, end (R189, R191). -/
def State.restorePart (s : State) (part : Nat) (sh : Shadow) (bad : List Nat) : State :=
  let s := { s with
    cores := sh.cores.foldl (fun cs p => tabSet cs p.1 ((s.core p.1).exchange p.2)) s.cores
    parts := tabSet s.parts part sh.partition }
  let s := match sh.partition.owner with
    | some n => s.modCtx n fun x => { x with
        arrived := if x.line then x.arrived ++ (List.range Config.coresPerCluster).map (part * Config.coresPerCluster + ·) else x.arrived
        blacks := x.blacks ++ sh.blacks
        pennants := x.pennants ++ sh.pennants.map fun p => { p with at_ := p.start, black := false, moved := false }
        area := if x.haltSeq == sh.haltSeq && x.halt == .halted && sh.halt == .halted then
            x.area ++ sh.records.filter fun r => !x.area.contains r else x.area }
    | none => s
  sh.gids.foldl (fun s gid =>
    match s.group? gid with
    | none => s
    | some g =>
      match g.place with
      | .shadow _ seated =>
        let s := (s.modGroup gid fun g => { g with
          place := if seated then .seated else .phase
          moving := true
          bands := g.bands.map fun b => { b with threads := b.threads.map Thread.restored } }).bringCopies gid g.core
        if bad.contains gid then (s.countErr g.die 4 true).memErr gid 0 0 0 ((g.bands.head?.bind fun b => lowestPc b.threads).getD g.entry) 0 0 0 else s
      | .forked => s.bringCopies gid g.core
      | _ => s) s
/-- Whether an image may be restored (R205, R338): none of its groups is still on the move, and each core has room for the tile and gather
operations that come back, those of groups pre-empted alone apart. -/
def State.imageFits (s : State) (sh : Shadow) : Bool :=
  let back (gid : Nat) : Option Nat := (s.group? gid).bind fun g =>
    match g.place with
    | .shadow _ _ | .forked => some g.core
    | _ => none
  let at_ (cp : Copy) : Option Nat := if sh.gids.contains cp.gid then (if cp.away then back cp.gid else some cp.core) else
    if cp.away then none else some cp.core
  (sh.gids.all fun gid => !((s.group? gid).map (·.moving)).getD false) &&
    sh.cores.all fun k => (s.copies.filter fun cp => cp.tiled && at_ cp == some k.1).length ≤ 64
/-- The groups of an image in a slot whose words hold an uncorrectable error (R189). -/
def State.badGroups (s : State) (slot : Nat) (sh : Shadow) : List Nat := sh.gids.filter fun gid => s.ecc [shadowKey slot gid]
/-- PARTITION_SAVE (R338): a save alone needs an empty slot. -/
def execPartitionSave (part slot : Nat) (s : State) : Out :=
  .next (if s.canSave part && s.slotFits part slot && (tabGet s.shadows slot).isNone then s.savePart part slot else s)
/-- PARTITION_RESTORE (R338): a restore alone empties its slot; the partition must hold nothing. -/
def execPartitionRestore (part slot : Nat) (s : State) : Out :=
  .next (
    match tabGet s.shadows slot with
    | some sh =>
      if sh.part == part && s.partIdle part && s.partRuns part && s.imageFits sh then
        ({ s with shadows := tabDel s.shadows slot } : State).restorePart part sh (s.badGroups slot sh)
      else s
    | none => s)
/-- PARTITION_EXCHANGE (R338): the partition and a slot's image change places; the groups of the slot's image are none of those saved. -/
def execPartitionExchange (part slot : Nat) (s : State) : Out :=
  .next (
    match tabGet s.shadows slot with
    | some sh =>
      if sh.part == part && s.canSave part && (s.savePart part slot).imageFits sh then
        (s.savePart part slot).restorePart part sh (s.badGroups slot sh)
      else s
    | none => s)

end Sys2Proof.Machine
end

