-- ==== Sys2Proof/Machine/Halts.lean ====
section
/-! DEFINITION. Halts (R323 to R334): the halt line's arrival, HALTED, resuming from it and tearing down, the requests STOP, RESUME_CTX,
TEARDOWN and READ_HALT with who may make them (R329, R344), and the service window. -/

namespace Sys2Proof.Machine

/-! ### The line at a core, and HALTED (R324, R328, R329) -/

/-- What a core's engines hold of a context (R327). -/
def State.engineStop (s : State) (ctx core : Nat) : EngineStop :=
  let k := s.core core
  let cs := s.copies.filter fun q => q.ctx == ctx && q.core == core && !q.away
  { copy := !cs.isEmpty, lines := (cs.map (·.linesUp)).sum, tiled := (cs.filter (·.tiled)).length, copyPc := k.copyPc
    matrix := (k.mq.any fun q => q.ctx == ctx) || k.openTiles != 0 }
/-- Queued commands of a context give up the operands that they have read ahead of their turn; the step in progress keeps its own (R324). -/
def Core.dropReads (k : Core) (ctx : Nat) : Core :=
  { k with mq := k.mq.map fun q => if q.ctx == ctx && !k.inStep q then { q with got := [] } else q }
/-- HALT_LINE_ARRIVAL (R324): the line of a context reaches a core; what seats or serves the context there stops. -/
def execHaltLineArrival (ctx core : Nat) (s : State) : Out :=
  .next (
    match s.ctx? ctx with
    | none => s
    | some x =>
      if !x.line || x.arrived.contains core || Config.cores ≤ core then s
      else
        let e := s.engineStop ctx core
        let s := (s.modCtx ctx fun x => { x with arrived := x.arrived ++ [core] }).modCore core fun k =>
          { k.dropReads ctx with stop := some e }
        ({ s with groups := s.groups.map fun p =>
            if p.2.ctx == ctx && p.2.core == core && p.2.place == GPlace.seated then (p.1, { p.2 with halted := true }) else p } : State))
/-- Whether everything of a context has stopped (R324), on every core and in every image. -/
def State.settledCtx (s : State) (x : Context) : Bool := s.settledOn x fun _ => true

/-! ### Tearing down (R331, R345, R362) -/

/-- A core's engines without what a stop noted of them. -/
def Core.noStop (k : Core) : Core := { k with mFault := none, cFault := none, stop := none }
/-- What a stop noted of engines is cleared on the cores of a context's partitions, those in shadow slots included. -/
def State.clearEngineFaults (s : State) (ctx : Nat) : State :=
  { s with
    cores := s.cores.map fun p => if s.servesCtx ctx p.1 then (p.1, p.2.noStop) else p
    shadows := s.shadows.map fun p =>
      if p.2.partition.owner == some ctx then (p.1, { p.2 with cores := p.2.cores.map fun k => (k.1, k.2.noStop) }) else p }
/-- Whether a page's name is of a context's segment. -/
def ctxPage (ctx : Nat) (k : Key) : Bool := if privatePages ≤ k then k % 65536 == ctx else k / 2 ^ 27 / 65536 == ctx
/-- The effects of a teardown (R331): waits and queued work are discarded, counts are lowered, every group ends wherever it is, images
and shadow slots are released, what was taken and not completed is handed out again, and its pages leave the translation caches (R179). The
departure of a confidential tenant owes a scrub, which follows at once (R362). -/
def State.teardownNow (s : State) (ctx : Nat) : State :=
  let gs := s.groups.filter fun p => p.2.ctx == ctx && p.2.place != GPlace.ended
  let s := s.modCtx ctx fun x => { x with bindings := x.bindings.map fun p => (p.1, { p.2 with parked := 0 }) }
  let s : State := { s with
    cores := s.cores.map fun p => (p.1, { p.2 with
      mq := p.2.mq.filter fun q => q.ctx != ctx
      pages := p.2.pages.filter fun k => !ctxPage ctx k
      phaseQ := p.2.phaseQ.filter fun g => !(gs.any fun q => q.1 == g) })
    copies := s.copies.filter fun q => q.ctx != ctx
    groups := s.groups.map fun p => if p.2.ctx == ctx then (p.1, { p.2 with halted := false }) else p
    shadows := s.shadows.filter fun p => p.2.partition.owner != some ctx }
  let s := gs.foldl (fun s p => s.terminate p.1) s
  let s := (s.clearEngineFaults ctx).modCtx ctx fun x => { x with
    line := false, arrived := [], halt := .running, area := [], heldTeardown := [], pennants := []
    mailboxes := x.mailboxes.map fun p => (p.1, if p.2.toHost then p.2 else p.2.recover) }
  if ((s.ctx? ctx).map (·.confidential)).getD false then { s with scrubOwed := true, scrubbing := true } else s
/-- The unbinds of a context's entries that are still to be answered, as the entries go (R374): one that has been applied is complete, for
no core seats a group any more; one that waited for its entry finds no such key. -/
def State.answerUnbinds (s : State) (ctx : Nat) (gone : List (Nat × Binding)) : State :=
  gone.foldl (fun s p => p.2.pendingUnbind.foldl (fun s r =>
    if r.1 then s.answerUnbind ctx (BitVec.ofNat 16 (p.1 / 4096)) (BitVec.ofNat 12 p.1) r.2 else s.respond r.2 10 0) s) s
/-- A context destroyed after its teardown (R345): its segments, entries and mailboxes go with its record, its page keys too (R341). No port
maps one of its segments any more (R342). -/
def State.destroyNow (s : State) (ctx : Nat) : State :=
  let s := s.answerUnbinds ctx (((s.ctx? ctx).map (·.bindings)).getD [])
  let mine := ctxPage ctx
  let own (k : Key) : Bool := k % 8 == 0 && k / 8 / 2 ^ 64 / 65536 == ctx
  { s with
    ctxs := tabDel s.ctxs ctx
    mem := s.mem.filter fun c => !own c.1
    writes := s.writes.map fun (w : WriteRec) => { w with bytes := w.bytes.filter fun b => !own b.1 }
    absent := s.absent.filter fun k => !mine k
    homes := s.homes.filter fun p => !mine p.1
    keys := s.keys.filter fun p => p.2.ctx != ctx
    versions := s.versions.filter fun p => !mine p.1
    grants := s.grants.filter fun g => g.ctx != ctx
    claims := s.claims.map fun c => if c.ctx == ctx then { c with answered := true } else c
    ports := s.ports.map fun p => if p.2.aperture.map (·.1) == some ctx then (p.1, { p.2 with aperture := none }) else p
    cores := s.cores.map fun p => (p.1, { p.2 with
      pages := p.2.pages.filter fun k => !mine k
      links := p.2.links.filter fun l => l.ctx != ctx
      slots := p.2.slots.filter fun r => r.ctx != ctx })
    parts := s.parts.map fun p =>
      if p.2.owner == some ctx then (p.1, { p.2 with owner := none, tag := p.2.nextTag, children := [], gathers := [] }) else p }
/-- A response whose value the spec does not state: it is a free value (log entry 5). -/
def State.answer (s : State) (r : Req) (status : Nat) : State :=
  let (v, s) := s.freeWord
  s.respond r status v
/-- The held teardowns and destructions of a context applied (R329, R331), each request then answered. -/
def State.applyTeardowns (s : State) (ctx : Nat) (hs : List (Bool × Req)) : State :=
  let s := s.teardownNow ctx
  let s := if hs.any (·.1) then s.destroyNow ctx else s
  hs.foldl (fun s h => s.answer h.2 0) s
/-- HALT_SETTLED (R328, R329): the stop records are in the halt area, the HALT event is posted, the context is HALTED, and a held
teardown is applied at once. Under reason BREAK the event carries the primary's code (R177), which has no stated place in R259 and is
kept beside it. -/
def execHaltSettled (ctx : Nat) (s : State) : Out :=
  .next (
    match s.ctx? ctx with
    | none => s
    | some x =>
      if x.halt != HaltState.halting || !s.settledCtx x then s
      else
        let recs := s.stopRecords x
        let first := s.groups.findSome? fun p => if p.2.ctx == ctx then
          (p.2.bands.find? fun b => (b.fault.map (·.primary)).getD false).map fun b => (p.1, b) else none
        let code := if x.haltReason == rBreak then ((first.bind (·.2.brk)).map (·.code.toNat)).toList else []
        let s : State := { s with
          groups := s.groups.map fun p => if p.2.ctx == ctx && p.2.place != GPlace.ended then (p.1, { p.2 with halted := true }) else p
          shadows := s.shadows.map fun p => if p.2.partition.owner == some ctx then (p.1, { p.2 with halted := true }) else p }
        let s := s.modCtx ctx fun x => { x with halt := .halted, area := recs }
        let s := (s.postWith ctx clHalt ((first.map (·.1)).getD s.nextId) 0 x.haltPc (BitVec.ofNat 64 recs.length)
          (BitVec.ofNat 32 x.haltReason) false code).2.2
        if x.heldTeardown.isEmpty then s else s.applyTeardowns ctx x.heldTeardown)

/-! ### Resuming (R177, R178, R330) -/

/-- A lane as its context resumes: a stopped one passes its BRK, a reply that came while it was frozen is delivered, and a parked one whose
service was done meanwhile retries. -/
def Thread.resume (t : Thread) : Thread :=
  let t := if t.stopped then { t with stopped := false, breakPassed := true } else t
  if t.woken then { t.retry with woken := false }
  else
    match t.wait with
    | .trap _ d _ (some v) => (t.put32 d v).release
    | _ => t
/-- The lanes of a band whose changed PC fails its check (R74, R330): those at the lowest such PC, and that PC. -/
def State.badPcs (s : State) (g : Group) (b : Band) : Word × PC :=
  let bad (t : Thread) : Bool := t.here && t.pcChanged && s.targetFault g.die g.ctx t.pc.sel t.pc.off.toNat == some rMisaligned
  let pc := (lowestPc (b.threads.filter bad)).getD ⟨0, 0⟩
  (maskOfLanes (fun t => bad t && t.pc == pc) b.threads, pc)
/-- A band of a context that resumes halts where lanes with a changed PC fail its check (R330). -/
def State.checkPcs (s : State) (gid band : Nat) : State :=
  match s.group? gid, s.band? gid band with
  | some g, some b =>
    let m := s.badPcs g b
    if m.1 == 0#32 || g.place != GPlace.seated then s
    else s.takeHalt gid band rMisaligned m.1 m.2 (s.wordAt g.die g.ctx m.2) 0 0
  | _, _ => s
/-- The return from a halt (R330): the line is lowered, changed PCs are checked, and every band goes on at the PCs its threads hold, its
waits as they were. -/
def State.resumeNow (s : State) (ctx : Nat) : State :=
  let s := s.clearEngineFaults ctx
  let s : State := { s with
    groups := s.groups.map fun p =>
      if p.2.ctx == ctx then (p.1, { p.2 with halted := false, bands := p.2.bands.map fun b => { b with fault := none, brk := none } }) else p
    shadows := s.shadows.map fun p => if p.2.partition.owner == some ctx then (p.1, { p.2 with halted := false }) else p }
  let s := s.modCtx ctx fun x => { x with line := false, arrived := [], halt := .running }
  let s := (s.bandsOf ctx).foldl (fun s p => s.checkPcs p.1 p.2) s
  { s with groups := s.groups.map fun p =>
      if p.2.ctx == ctx then (p.1, { p.2 with bands := p.2.bands.map fun b => { b with threads := b.threads.map Thread.resume } }) else p }

/-! ### Who may ask (R329, R344, R356, R358) -/

/-- Whether a party may make a device request: the lease holder, any host while there is none, and the service pair always (R344). -/
def State.leads (s : State) (p : Party) : Bool :=
  p == .service || s.leaseHolder == 0#2 || (p == .hostA && s.leaseHolder == 1#2) || (p == .hostB && s.leaseHolder == 2#2)
/-- Whether a party holds the lease (R329). -/
def State.holds (s : State) (p : Party) : Bool :=
  p == .service || (p == .hostA && s.leaseHolder == 1#2) || (p == .hostB && s.leaseHolder == 2#2)
/-- Whether a party may make a context request of a claim class (R329, R344): the party that handles the class, the lease holder where
nobody owns it, and the service pair always. -/
def State.mayClass (s : State) (x : Context) (cls : Nat) (p : Party) : Bool :=
  p == .service || (if x.owners cls == 0#3 then s.holds p else s.handles (x.owners cls) p)
/-- What every request meets first: BUSY at S.LEVEL 0 (R356) and while a reset's scrub keeps everything out (R362), BAD_REQUEST for a
reserved field that is not zero (R8, R344), and DENIED on a port whose TDI is in ERROR, but for TEARDOWN and CTX_DESTROY (R358). -/
def State.gate (s : State) (r : Req) (leaves : Bool) (f : State) : State :=
  if s.level == 0 || s.shut then s.answer r 9
  else if r.rsv != 0 then s.answer r 10
  else if !leaves && ((partyPort r.party).map fun p => (s.port p).tdi == Tdi.error).getD false then s.answer r 8
  else f
/-- A request of the device, from a party that leads (R344). -/
def State.deviceReq (s : State) (r : Req) (f : State) : State := s.gate r false (if s.leads r.party then f else s.answer r 7)
/-- A request on a context that no claim class covers, from a party that leads; a context that does not exist is an argument out of
range (R345). -/
def State.ctxReq (s : State) (r : Req) (f : Context → State) : State :=
  s.gate r false (
    if !s.leads r.party then s.answer r 7
    else
      match s.ctx? r.ctx with
      | some x => f x
      | none => s.answer r 10)
/-- A request on a context that follows the claim map of a class (R329, R344). -/
def State.classReq (s : State) (r : Req) (cls : Nat) (leaves : Bool) (f : Context → State) : State :=
  s.gate r leaves (
    match s.ctx? r.ctx with
    | some x => if s.mayClass x cls r.party then f x else s.answer r 7
    | none => s.answer r 10)

/-! ### The requests of R329 -/

/-- Whether a lane of a context is stopped by BRK in LANE mode, whose owner of BREAK may raise the line (R177). -/
def State.breakOpen (s : State) (x : Context) (p : Party) : Bool :=
  x.laneDebug && s.handles (x.owners clBreak) p && s.groups.any fun q => q.2.ctx == x.number && q.2.bands.any fun b => b.threads.any (·.stopped)
/-- The owner of BREAK raises the line in LANE mode (R177): every band with stopped lanes halts with its own code. -/
def State.breakNow (s : State) (ctx : Nat) : State :=
  (s.bandsOf ctx).foldl (fun s p =>
    match s.group? p.1, s.band? p.1 p.2 with
    | some g, some b => if s.canFault g b && b.threads.any (·.stopped) then s.haltBand p.1 p.2 rBreak 0 0 else s
    | _, _ => s) s
/-- STOP (R329): the line of a running context rises with reason STOPPED; otherwise it is ignored. The owner of BREAK may raise it with
reason BREAK while a lane is stopped (R177, log entry 36). -/
def execStop (r : Req) (s : State) : Out :=
  .next (
    match s.ctx? r.ctx with
    | some x =>
      if s.level != 0 && r.rsv == 0 && !s.mayClass x clHalt r.party && s.breakOpen x r.party then
        (if x.halt == HaltState.running then s.breakNow r.ctx else s).answer r 0
      else
        s.classReq r clHalt false fun x => (if x.halt == HaltState.running then s.raiseLine r.ctx rStopped 0 else s).answer r 0
    | none => s.classReq r clHalt false fun _ => s)
/-- RESUME_CTX (R329, R330): ignored unless the context is HALTED. -/
def execResumeCtx (r : Req) (s : State) : Out :=
  .next (s.classReq r clHalt false fun x => (if x.halt == HaltState.halted then s.resumeNow r.ctx else s).answer r 0)
/-- A teardown asked for, with destruction or without (R329, R345): at once when HALTED, otherwise held until HALTED is reached, whose
way a running context is set on. -/
def State.askTeardown (s : State) (x : Context) (destroy : Bool) (r : Req) : State :=
  if x.halt == HaltState.halted then s.applyTeardowns x.number [(destroy, r)]
  else
    (if x.halt == HaltState.running then s.raiseLine x.number rStopped 0 else s).modCtx x.number fun x =>
      { x with heldTeardown := x.heldTeardown ++ [(destroy, r)] }
/-- TEARDOWN (R329, R331). -/
def execTeardown (r : Req) (s : State) : Out := .next (s.classReq r clHalt true fun x => s.askTeardown x false r)
/-- CTX_DESTROY (R345): a teardown from any halt state, after which the context is gone. -/
def execCtxDestroy (r : Req) (s : State) : Out := .next (s.classReq r clHalt true fun x => s.askTeardown x true r)
/-- A stop record as a host receives it in confidential mode (R357): without its word and its argument. -/
def redact (bs : List Byte) : List Byte :=
  let blank (lo n : Nat) (bs : List Byte) : List Byte := bs.take lo ++ List.replicate n 0 ++ bs.drop (lo + n)
  if bs.head? == some 1 then blank 0x30 8 (blank 0x20 12 bs) else blank 0x18 8 bs
/-- READ_HALT (R328, R345, R357): the halt area copied to a host address; the service pair sees it whole. -/
def execReadHalt (r : Req) (addr : BitVec 64) (s : State) : Out :=
  .next (s.classReq r clHalt false fun x =>
    let bs := (if s.conf && r.party != .service then x.area.map redact else x.area).flatten
    (match partyPort r.party with
      | some p => ({ s with mem := memPut s.mem (mapIdx (fun i b => (hostKey p (addr.toNat + i), b)) bs 0) } : State)
      | none => s).answer r 0)

/-! ### The service window (R332 to R334, R357) -/

/-- The seated group and band on a seat, numbered 16 slice + seat (R332). -/
def State.atSeat (s : State) (core seat : Nat) : Option (Nat × Group × Nat × Band) :=
  (s.groups.filter fun p => p.2.core == core && p.2.place == GPlace.seated).findSome? fun p =>
    (mapIdx (fun i (b : Band) => (p.1, p.2, i, b)) p.2.bands 0).find? fun q => q.2.2.2.slice * 16 + q.2.2.2.seat == seat
/-- The V register that a row of a slice's lane banks holds (R334), with how many programs inside the one that holds it hide it (R246). -/
def rowReg (g : Group) (b : Band) (row : Nat) : Option (Nat × Nat) :=
  let chunk (depth : Nat) (cs : List Nat) : Option (Nat × Nat) :=
    (mapIdx (fun k c => (k, c)) cs 0).findSome? fun p =>
      if p.2 ≤ row && row < p.2 + 16 then some (depth, g.budget + 16 * p.1 + (row - p.2)) else none
  if b.row0 ≤ row && row < b.row0 + g.budget then some (0, row - b.row0)
  else (mapIdx (fun d cs => (d, cs)) (b.chunks :: b.under.map (·.chunks)) 0).findSome? fun p => chunk p.1 p.2
/-- Where a word of the window lies. -/
inductive WinPlace where
  | v (gid band lane depth reg : Nat)
  | scratch (gid off : Nat)
  | acc (tile elem : Nat)
  | b (gid band reg : Nat)
  | o (gid band lane reg : Nat)
  | l (gid band lane entry : Nat)
  | control (gid band lane off : Nat)
  | seat (gid band off : Nat)
  | vacant (off : Nat)
  | zero
  deriving DecidableEq, Repr
/-- The place of a region offset on a core (R332); vacant is storage that no seated or waiting group holds. -/
def State.winPlace (s : State) (core off : Nat) : WinPlace :=
  if off < 0x40000 then
    let row := off / 4 / 64
    let bank := off / 4 % 64
    ((s.groups.filter fun p => p.2.core == core && p.2.place == GPlace.seated).findSome? fun p =>
      (mapIdx (fun i (b : Band) => if b.slice == bank / 32 then (rowReg p.2 b row).map fun k => WinPlace.v p.1 i (bank % 32) k.1 k.2 else none)
        p.2.bands 0).findSome? id).getD (.vacant off)
  else if off < 0xC0000 then
    let o := off - 0x40000
    ((s.groups.find? fun p => p.2.core == core && (p.2.place == GPlace.seated || p.2.place == GPlace.phase) && p.2.scratchBase ≤ o &&
      o < p.2.scratchBase + p.2.scratch).map fun p => WinPlace.scratch p.1 (o - p.2.scratchBase)).getD (.vacant off)
  else if off < 0x100000 then .acc ((off - 0xC0000) / 16384) ((off - 0xC0000) % 16384 / 4)
  else if off < 0x102000 then
    let o := off - 0x100000
    ((s.atSeat core (o / 256)).map fun q => WinPlace.b q.1 q.2.2.1 (o % 256 / 4)).getD (.vacant off)
  else if 0x110000 ≤ off && off < 0x120000 then
    let k := (off - 0x110000) / 64
    ((s.atSeat core (k / 32)).map fun q => WinPlace.o q.1 q.2.2.1 (k % 32) ((off - 0x110000) % 64 / 4)).getD (.vacant off)
  else if 0x120000 ≤ off && off < 0x124000 then
    let k := (off - 0x120000) / 16
    ((s.atSeat core (k / 32)).map fun q => WinPlace.l q.1 q.2.2.1 (k % 32) ((off - 0x120000) % 16 / 4)).getD (.vacant off)
  else if 0x130000 ≤ off && off < 0x170000 then
    let k := (off - 0x130000) / 256
    ((s.atSeat core (k / 32)).map fun q => WinPlace.control q.1 q.2.2.1 (k % 32) ((off - 0x130000) % 256)).getD .zero
  else if 0x170000 ≤ off && off < 0x170800 then
    ((s.atSeat core ((off - 0x170000) / 64)).map fun q => WinPlace.seat q.1 q.2.2.1 ((off - 0x170000) % 64)).getD .zero
  else .zero
/-- The word at a place of the window; what vacant storage holds is a free value, which stands until it is written or used (log entries 5,
82). -/
def State.winRead (s : State) (core : Nat) (w : WinPlace) : Word × State :=
  let th (gid band lane : Nat) (f : Thread → Word) : Word := ((s.thread? gid band lane).map f).getD 0
  match w with
  | .v gid band lane 0 k => (th gid band lane fun t => t.getV k, s)
  | .v gid band lane (d + 1) k => (th gid band lane fun t => tabGetD (t.vUnder.getD d []) k 0, s)
  | .scratch gid o => (BitVec.ofNat 32 (natOfBytes ((List.range 4).map fun i => s.postedByte (fun p => p.port == scratchPort) (scratchKey gid (o + i)))), s)
  | .acc t e => (tabGetD ((s.core core).tile t).acc e 0, s)
  | .b gid band k => (((s.band? gid band).map fun b => b.getB k).getD 0, s)
  | .o gid band lane k => (th gid band lane fun t => t.getO k, s)
  | .l gid band lane k => (th gid band lane fun t => (t.lq.get (BitVec.ofNat 2 k)).val, s)
  | .control gid band lane o => (th gid band lane fun t => BitVec.ofNat 32 (numAt t.control o 4), s)
  | .seat gid band o =>
    ((match s.group? gid, s.band? gid band with
      | some g, some b => BitVec.ofNat 32 (numAt (seatRecord g band b) o 4)
      | _, _ => 0), s)
  | .vacant off =>
    match tabGet (s.core core).vacant off, (s.core core).blank with
    | some x, _ => (x, s)
    | none, true => (0, s)
    | none, false =>
      let (v, s) := s.freeWord
      let x := v.extractLsb' 0 32
      (x, s.modCore core fun k => { k with vacant := tabSet k.vacant off x })
  | .zero => (0, s)
/-- A last-result queue with one value written. -/
def LQueue.put (q : LQueue) (k : Nat) (x : Word) : LQueue :=
  if k == 0 then { q with l0 := ⟨x, none, false⟩ } else if k == 1 then { q with l1 := ⟨x, none, false⟩ }
  else if k == 2 then { q with l2 := ⟨x, none, false⟩ } else { q with l3 := ⟨x, none, false⟩ }
/-- A thread whose PC the window has changed (R330, R333): one that waits goes on there when its wait is over (log entry 81). -/
def Thread.redirect (t : Thread) (p : PC) : Thread := { t with pc := p, next := p, pcChanged := true }
/-- A word written at a place of the window (R332 to R334): of a control record the PC, P0 to P6 and S.FFLAGS are writable, of a seat
record Q0 to Q6; other fields keep their values. A word that is written whole loses an error it held (R189). -/
def State.winWrite (s : State) (core : Nat) (w : WinPlace) (x : Word) : State :=
  match w with
  | .v gid band lane 0 k => (s.modThread gid band lane fun t => t.setV k x).clearErrors (errBytes (vKey gid band lane k))
  | .v gid band lane (d + 1) k => s.modThread gid band lane fun t => { t with vUnder := listMod t.vUnder d fun v => tabSet v k x }
  | .scratch gid o =>
    let ks := (List.range 4).map fun i => scratchKey gid (o + i)
    (s.putBytes (ks.zip (bytesOfNat 4 x.toNat))).clearErrors ks
  | .acc t e => (s.modCore core fun k => k.modTile t fun y => { y with acc := tabSet y.acc e x }).clearErrors (errBytes (accKey core t e))
  | .b gid band k => (s.modBand gid band fun b => b.setB k x).clearErrors (errBytes (vKey gid band 32 k))
  | .o gid band lane k => (s.modThread gid band lane fun t => t.setO k x).clearErrors (errBytes (vKey gid band lane (256 + k)))
  | .l gid band lane k => s.modThread gid band lane fun t => { t with lq := t.lq.put k x }
  | .control gid band lane o =>
    if o == 0 then s.modThread gid band lane fun t => t.redirect ⟨t.pc.sel, x⟩
    else if o == 4 then s.modThread gid band lane fun t => t.redirect ⟨x.extractLsb' 16 16, t.pc.off⟩
    else if o == 0xC then s.modThread gid band lane fun t => { t with p := x.extractLsb' 16 7 }
    else if o == 0x10 then s.modThread gid band lane fun t => { t with fflags := x &&& fflagsMask }
    else s
  | .seat gid band o => if o == 0x24 then s.modBand gid band fun b => { b with q := x.extractLsb' 16 7 } else s
  | .vacant off => s.modCore core fun k => { k with vacant := tabSet k.vacant off x }
  | .zero => s
/-- Whether the window is open on a cluster (R332): its context is HALTED, or it holds no seated group. -/
def State.winOpen (s : State) (part : Nat) : Bool :=
  (((s.part part).owner.bind s.ctx?).map fun x => x.halt == HaltState.halted).getD false ||
    !(s.groups.any fun p => partOf p.2.core == part && p.2.place == GPlace.seated)
/-- Whether a region is served in confidential mode (R357). -/
def confRegion (off : Nat) : Bool := (0x130000 ≤ off && off < 0x170000) || (0x170000 ≤ off && off < 0x170800)
/-- SERVICE_WINDOW_ACCESS (R332, R357): the service pair reads or writes 4 or 8 aligned bytes; what a read gives is in svcData. -/
def execServiceWindowAccess (addr size : Nat) (wr : Option (BitVec 64)) (s : State) : Out :=
  .next (
    let part := addr / 0x100000000
    let c := addr / 0x1000000 % 256
    let core := part * Config.coresPerCluster + c
    let off := addr % 0x1000000
    if !(size == 4 || size == 8) || addr % size != 0 || Config.partitions ≤ part then s
    else
      match wr with
      | none =>
        if !s.winOpen part || (s.conf && !confRegion off) then { s with svcData := if size == 4 then 0xFFFFFFFF else BitVec.allOnes 64 }
        else if Config.coresPerCluster ≤ c then { s with svcData := 0 }
        else
          let (lo, s) := s.winRead core (s.winPlace core off)
          let (hi, s) := if size == 8 then s.winRead core (s.winPlace core (off + 4)) else (0, s)
          { s with svcData := hi ++ lo }
      | some x =>
        if !s.winOpen part || s.conf || Config.coresPerCluster ≤ c then s
        else
          let s := s.winWrite core (s.winPlace core off) (x.extractLsb' 0 32)
          if size == 8 then s.winWrite core (s.winPlace core (off + 4)) (x.extractLsb' 32 32) else s)

end Sys2Proof.Machine
end

