-- ==== Sys2Proof/Machine/Outside.lean ====
section
/-! DEFINITION. What hosts, peers, the service pairs and the service firmware do (R256, R260 to R262, R333 to R363): contexts, segments and code,
mailboxes and unbinds, replies, event rings and the lease, modes, page keys and sealing, the apertures, peers and ports, resets, bring-up,
attestation and power. -/

namespace Sys2Proof.Machine

/-! ### Contexts (R256, R345, R360, R362) -/

/-- A mailbox as the fields of its descriptor give it (R233): none where a reserved bit is set or a field is out of range. -/
def mailboxForm (bs : List Byte) (port : Nat) : Option Mailbox :=
  let dir := leAt bs 0 1
  let fl := leAt bs 1 1
  let n := leAt bs 4 4
  if bs.length == 64 && dir ≤ 1 && fl < 4 && (dir == 0 || fl < 2) && zeroAt bs 2 2 && zeroAt bs 0x38 8 && 16 ≤ n && n ≤ 65536 &&
      n &&& (n - 1) == 0 then
    some ⟨dir == 1, fl % 2 == 1, 2 ≤ fl, n, BitVec.ofNat 64 (leAt bs 8 8), BitVec.ofNat 64 (leAt bs 0x10 8),
      BitVec.ofNat 64 (leAt bs 0x18 8), 0, 0, 1, if dir == 1 then leAt bs 0x30 8 else 0, [], [], [], port⟩
  else none
/-- The mailboxes of a record image (R256): a descriptor of zeros is no mailbox. -/
def imageMailboxes (bs : List Byte) (port : Nat) : Option (Tab Mailbox) :=
  ((List.range 64).filter fun i => !zeroAt bs (0x100 + 64 * i) 64).foldr (fun i t =>
    match t, mailboxForm ((bs.drop (0x100 + 64 * i)).take 64) port with
    | some t, some m => some (tabSet t i m)
    | _, _ => none) (some [])
/-- A context read from a record image (R256): none where a reserved bit is set or a field is out of range. Whether a mailbox's ring fits
its segment is asked when it is used: no segment stands yet (log entry 37). -/
def contextOf (bs : List Byte) (number port : Nat) : Option Context :=
  let fl := leAt bs 3 1
  let priv := leAt bs 4 4
  let cap := leAt bs 0x10 4
  let spill := leAt bs 8 8
  let map := (bs.drop 0x30).take 32
  let ok := bs.length == 4352 && leAt bs 2 1 ≤ 63 && fl < 8 && 1 ≤ priv && priv ≤ 4096 && zeroAt bs 0x14 4 && zeroAt bs 0x50 176 &&
    (map.all fun b => b.toNat < 8) && ((map.drop 10).all (· == 0))
  let order := ((List.range 8).map fun i => BitVec.ofNat 16 (leAt bs (0x18 + 2 * i) 2)).takeWhile (· != 0#16)
  match ok, imageMailboxes bs port with
  | true, some ms =>
    some
      { number := number, pool := leAt bs 2 1, laneDebug := fl % 2 == 1, escalate := fl / 2 % 2 == 1, confidential := fl / 4 % 2 == 1,
        privMax := priv, spill := BitVec.ofNat 64 spill, spillCap := cap, spillQ := [], lookup := order, unclaimed := 0, claimMap := map,
        segs := [], codes := [], bindings := [], mailboxes := ms, eventSeq := 0, line := false, arrived := [], halt := .running,
        haltSeq := 0, haltReason := 0, haltPc := 0, haltBy := none, area := [], heldTeardown := [], pennants := [],
        blacks := [] }
  | _, _ => none
/-- The lowest context number that is free. -/
def State.freeCtx (s : State) : Nat :=
  (((List.range (s.ctxs.length + 1)).map (· + 1)).find? fun n => (s.ctx? n).isNone).getD 1
/-- The key of a confidential context generated (R360): whether the generator's test fails is a free value (log entry 5). -/
def State.drawKey (s : State) : Bool × State :=
  let (v, s) := s.freeWord
  if v.getLsbD 0 then (false, { s with entropyFails := min 3 (s.entropyFails + 1) }) else (true, { s with entropyFails := 0 })
/-- A context created (R345): the record's number, or the lowest free one where the record names 0 (log entry 37). -/
def State.createCtx (s : State) (r : Req) (image : List Byte) : State :=
  let n := leAt image 0 2
  let n' := if n == 0 then s.freeCtx else n
  match contextOf image n' ((partyPort r.party).getD 0) with
  | none => s.answer r 1
  | some x =>
    if 65535 < n' then s.answer r 4
    else if (s.ctx? n').isSome then s.answer r 1
    else if !x.confidential then ({ s with ctxs := tabSet s.ctxs n' x } : State).respond r 0 (BitVec.ofNat 64 n')
    else if 3 ≤ s.entropyFails then s.answer r 8
    else
      let k := s.drawKey
      if k.1 then ({ k.2 with ctxs := tabSet k.2.ctxs n' x } : State).respond r 0 (BitVec.ofNat 64 n') else k.2.answer r 6
/-- CTX_CREATE (R345, R362): a new context waits for a scrub that is owed, and with it the later requests of its port (R344). -/
def execCtxCreate (r : Req) (image : List Byte) (s : State) : Out :=
  .next (s.deviceReq r (if s.scrubOwed then { s with creates := s.creates ++ [(r, image)] } else s.createCtx r image))

/-! ### Segments (R260, R279, R280, R345) -/

/-- SEG_CREATE (R345): as SEGA, for every kind; sealed-host only in confidential mode (R357). Where there is no room the handle
is null, as SEGA's (R279). -/
def execSegCreate (r : Req) (desc : List Byte) (s : State) : Out :=
  .next (s.ctxReq r fun x =>
    match x.template desc with
    | none => s.answer r 10
    | some d =>
      if d.kind == 7 && !s.conf then s.answer r 8
      else
        match s.makeSeg r.ctx { d with port := (partyPort r.party).getD 0 } with
        | some (sel, s) => s.respond r 0 (handleOf sel 0)
        | none => s.respond r 0 0)
/-! ### Code images (R96 to R101, R262) -/

/-- The numbers of the set bits of a mask in a list of bytes. -/
def maskBits (bs : List Byte) (off n : Nat) : List Nat := (List.range n).filter fun k => (bs.getD (off + k / 8) 0).getLsbD (k % 8)
/-- A carry record (R100). -/
def carryOf (bs : List Byte) : Carry :=
  ⟨BitVec.ofNat 32 (leAt bs 0 4), maskBits bs 8 256, maskBits bs 0x28 64, maskBits bs 0x30 16, maskBits bs 0x32 4, maskBits bs 0x33 7,
    maskBits bs 0x34 7, !(zeroAt bs 4 4 && leAt bs 0x32 1 < 16 && leAt bs 0x33 1 < 128 && leAt bs 0x34 1 < 128 && zeroAt bs 0x35 11)⟩
/-- One generator of a symmetry descriptor (R100): none where it is malformed. -/
def genOf (bs : List Byte) : Option Gen :=
  let kind := leAt bs 0 1
  let ax := leAt bs 1 1
  let sh := leAt bs 2 4
  let a := ax % 4
  let b := ax / 4 % 4
  if 1 ≤ kind && kind ≤ 6 && ax < 16 && a != 3 && b != 3 && (kind ≤ 3 || b == 0) && (kind == 6 || sh == 0) then some ⟨kind, a, b, sh⟩ else none
/-- A symmetry descriptor (R100): none where it is malformed. An unused second generator that is not zero makes it so, and so does the shift of
a generator of another kind than 6 (DESIGN CHOICE, log entry 97). -/
def symOf (bs : List Byte) : Option (List Gen) :=
  let n := leAt bs 0 1
  if !zeroAt bs 1 3 then none
  else if n == 1 then (if zeroAt bs 10 6 then (genOf (bs.drop 4)).map fun g => [g] else none)
  else if n == 2 then
    match genOf (bs.drop 4), genOf (bs.drop 10) with
    | some g, some k => some [g, k]
    | _, _ => none
  else none
/-- The entries of a link table (R98): slot, kind, rights and name; none where an entry breaks its form, reserved bytes among it (R8). That a
kernel export names a header, and a launch export a block of section 5, is not asked (DESIGN CHOICE, log entry 66). -/
def linkEntries : Nat → List Byte → Option (List (Nat × Nat × Nat × List Byte))
  | 0, bs => if bs.isEmpty then some [] else none
  | k + 1, bs =>
    if bs.isEmpty then some []
    else
      let n := leAt bs 4 2
      let size := 16 + (n + 7) / 8 * 8
      let kind := leAt bs 2 1
      let off := leAt bs 8 4
      let bad := bs.length < size || n == 0 || 255 < n || 3 < kind || 31 < leAt bs 3 1 || !zeroAt bs 6 2 || !zeroAt bs 0xC 4 ||
        (kind ≤ 1 && off != 0) || (2 ≤ kind && leAt bs 3 1 != 0) || (kind == 3 && off % 128 != 0) || !zeroAt bs (16 + n) (size - 16 - n)
      if bad then none
      else (linkEntries k (bs.drop size)).map fun t => (leAt bs 0 2, kind, leAt bs 3 1, (bs.drop 16).take n) :: t
/-- Whether the entries of a link table are its imports in slot order and then its exports (R98). -/
def linksInOrder (es : List (Nat × Nat × Nat × List Byte)) (slots : Nat) : Bool :=
  (mapIdx (fun i e => if i < slots then e.1 == i && e.2.1 ≤ 1 else e.1 == 0xFFFF && 2 ≤ e.2.1) es 0).all id && slots ≤ es.length
/-- A section of an image (R96): its bytes. -/
def section_ (bs : List Byte) (i : Nat) : List Byte := (bs.drop (leAt bs (0x18 + 8 * i) 4)).take (leAt bs (0x1C + 8 * i) 4)
/-- Whether the sections of an image lie in the file, beyond its header, and do not overlap (R97). The offset of an empty one, which R96 puts
at 0, is not asked for (DESIGN CHOICE, log entry 66). -/
def sectionsOk (bs : List Byte) : Bool :=
  let ps := ((List.range 9).map fun i => (leAt bs (0x20 + 8 * i) 4, leAt bs (0x24 + 8 * i) 4)).filter fun p => p.2 != 0
  (ps.all fun p => 104 ≤ p.1 && p.1 + p.2 ≤ bs.length) &&
    (mapIdx (fun i p => (mapIdx (fun j q => i == j || p.1 + p.2 ≤ q.1 || q.1 + q.2 ≤ p.1) ps 0).all id) ps 0).all id
/-- A relocation (R101): section, offset, kind, addend, and the link-table entry it names. -/
def relocs (bs : List Byte) : List (Nat × Nat × Nat × Int × Nat) :=
  (List.range (bs.length / 16)).map fun i =>
    let b := bs.drop (16 * i)
    (leAt b 4 1, leAt b 0 4, leAt b 5 1, i64At b 8, leAt b 6 2)
/-- Whether a relocation is one that a loader resolves (R101): of kind 3 or 4, which name no link-table entry, and within a section of the
file (log entry 67). -/
def relocOk (bs : List Byte) (r : Nat × Nat × Nat × Int × Nat) : Bool :=
  (r.2.2.1 == 3 || r.2.2.1 == 4) && 1 ≤ r.1 && r.1 ≤ 9 && r.2.1 + 8 ≤ (section_ bs r.1).length && r.2.2.2.2 == 0xFFFF
/-- Whether a file is a linked image that may be loaded (R96, R97): header, sections, counts, link table and relocations. Of what R96 asks
beyond R97's list, the file length, a code section, the slot count and the place of the header are held to (log entry 66). -/
def imageOk (bs : List Byte) : Bool :=
  let code := section_ bs 1
  104 ≤ bs.length && bs.take 4 == [0x43, 0x48, 0x43, 0x59] && leAt bs 4 2 == 1 && leAt bs 6 2 == 1 && leAt bs 8 4 == bs.length &&
    sectionsOk bs && leAt bs 0xC 4 == code.length && 1 ≤ code.length && (section_ bs 2).length == (code.length + 7) / 8 &&
    leAt bs 0x10 2 ≤ 4096 && 128 * leAt bs 0x12 2 == (section_ bs 5).length && 16 * leAt bs 0x14 2 == (section_ bs 6).length &&
    64 * leAt bs 0x16 2 == (section_ bs 7).length && 16 * leAt bs 0x18 4 == (section_ bs 8).length &&
    8 * leAt bs 0x1C 4 == (section_ bs 9).length &&
    ((linkEntries (section_ bs 4).length (section_ bs 4)).map fun es => linksInOrder es (leAt bs 0x10 2) ).getD false &&
    (relocs (section_ bs 8)).all (relocOk bs)
/-- A section with its relocations resolved (R101). -/
def relocated (bs : List Byte) (i : Nat) (code data : BitVec 16) : List Byte :=
  ((relocs (section_ bs 8)).filter fun r => r.1 == i).foldl (fun sec r =>
    sec.take r.2.1 ++ bytesOfNat 8 (handleOf (if r.2.2.1 == 3 then data else code) r.2.2.2.1).toNat ++ sec.drop (r.2.1 + 8)) (section_ bs i)
/-- Launch blocks with the code handle written into each (R99, R262). -/
def blocksFor (code : BitVec 16) : Nat → List Byte → List Byte
  | 0, _ => []
  | k + 1, bs => bs.take 0x60 ++ bytesOfNat 8 (handleOf code 0).toNat ++ (bs.drop 0x68).take 24 ++ blocksFor code k (bs.drop 128)
/-- Bytes put into a segment's own storage. -/
def State.fillSeg (s : State) (ctx : Nat) (sel : BitVec 16) (off : Nat) (bs : List Byte) : State :=
  { s with mem := memPut s.mem (mapIdx (fun i b => (segKey ctx sel (off + i), b)) bs 0) }
/-- An image installed under chosen selectors (R262): the code with its start map beyond the limit, its imports as UNBOUND entries,
its data and its launch blocks. Relocations of any section are resolved (R101); with no data section the data selector they write is 0 (log
entry 68). -/
def State.installCode (s : State) (ctx : Nat) (bs : List Byte) (code data launch : BitVec 16) : State :=
  let sec (i : Nat) : List Byte := relocated bs i code data
  let n := (section_ bs 1).length
  let gen (sel : BitVec 16) : BitVec 16 := ((s.ctx? ctx).map fun x => (x.desc sel).gen).getD 0
  let es := ((linkEntries (sec 4).length (sec 4)).orElse fun _ => linkEntries (section_ bs 4).length (section_ bs 4)).getD []
  let ims : List Import := (es.take (leAt bs 0x10 2)).map fun e => ⟨e.2.1, BitVec.ofNat 5 e.2.2.1, e.2.2.2⟩
  let info : CodeInfo := ⟨ims, (List.range (leAt bs 0x16 2)).map fun i => carryOf (((sec 7).drop (64 * i)).take 64),
    (List.range (leAt bs 0x14 2)).map fun i => symOf (((sec 6).drop (16 * i)).take 16), data, gen data, gen launch⟩
  let launches := leAt bs 0x12 2
  let cd : Desc := { Desc.zero with
    kind := 4, limit := n, rights := kindRights 4, slots := ims.length, carries := leAt bs 0x16 2, syms := leAt bs 0x14 2,
    launchSel := launch, launches := launches }
  let s := ((s.putSeg ctx code cd).fillSeg ctx code 0 (sec 1)).fillSeg ctx code (mapBase n) (sec 2)
  let s := s.modCtx ctx fun x => { x with
    codes := tabSet x.codes code.toNat info
    bindings := (mapIdx (fun i (m : Import) => (i, m)) ims 0).foldl (fun t p =>
      tabSet t (bindKey code (BitVec.ofNat 12 p.1)) ⟨.unbound, p.2.kind, p.2.rights, 0xFF, 0, 0, 0, 0, [], none, []⟩) x.bindings }
  let dlen := (section_ bs 3).length
  let s := if dlen == 0 then s else
    (s.putSeg ctx data { Desc.zero with kind := 1, limit := dlen, rights := kindRights 1 }).fillSeg ctx data 0 (sec 3)
  if launches == 0 then s else
    (s.putSeg ctx launch { Desc.zero with kind := 1, limit := 128 * launches, rights := rtR }).fillSeg ctx launch 0
      (blocksFor code launches (sec 5))
/-- CODE_INSTALL (R262, R345): BAD_OBJECT for a file that may not be loaded, TABLE_FULL where the binding table or the selectors do not
suffice. -/
def execCodeInstall (r : Req) (image : List Byte) (s : State) : Out :=
  .next (s.ctxReq r fun x =>
    if !imageOk image then s.answer r 3
    else if 65536 < x.bindings.length + leAt image 0x10 2 then s.answer r 4
    else
      let needData := !(section_ image 3).isEmpty
      let needLaunch := leAt image 0x12 2 != 0
      let mark (x : Context) (sel : BitVec 16) : Context := { x with segs := tabSet x.segs sel.toNat { x.desc sel with kind := 1 } }
      match x.freeSel with
      | none => s.answer r 4
      | some code =>
        let x1 := mark x code
        match (if needData then x1.freeSel else some 0#16 : Option (BitVec 16)) with
        | none => s.answer r 4
        | some data =>
          let x2 := if needData then mark x1 data else x1
          match (if needLaunch then x2.topFree else some 0#16 : Option (BitVec 16)) with
          | none => s.answer r 4
          | some launch => (s.installCode r.ctx image code data launch).respond r 0 (code ++ launch ++ data ++ 0#16))
/-- A segment freed where it still is the one of a generation. -/
def State.freeOwn (s : State) (x : Context) (sel gen : BitVec 16) : State :=
  if sel == 0#16 || (x.desc sel).gen != gen then s else s.freeSeg x.number sel
/-- A code segment of a context removed (R262): its launch-block segment, its data segment and its entries go with it, and every core drops
what its link cache holds of them; none while a call through a link into the segment has not returned. What waits for one of its entries
goes on: parked splits retry, and a host's unbind is answered (R374). -/
def State.removeCode (s : State) (x : Context) (sel : BitVec 16) : Option State :=
  let d := x.desc sel
  if x.bindings.any fun p => hsel p.2.target == sel && p.2.inflight != 0 then none
  else
    let s := match tabGet x.codes sel.toNat with
      | some ci => (s.freeOwn x ci.dataSel ci.dataGen).freeOwn x d.launchSel ci.launchGen
      | none => s
    let gone := x.bindings.filter fun p => p.1 / 4096 == sel.toNat
    let s := (s.answerUnbinds x.number gone).modCtx x.number fun x => { x with
      bindings := x.bindings.filter fun p => p.1 / 4096 != sel.toNat }
    let s := s.freeSeg x.number sel
    some ((s.bandsOf x.number).foldl (fun s p => s.wakeRetry p.1 p.2 fun w =>
      match w with
      | .bind a _ => a == sel
      | _ => false) s)
/-- CODE_REMOVE (R262, R345): BUSY while the segment may not be removed. -/
def execCodeRemove (r : Req) (sel : BitVec 16) (s : State) : Out :=
  .next (s.ctxReq r fun x =>
    if selFixed sel || (x.desc sel).kind != 4 then s.answer r 10
    else
      match s.removeCode x sel with
      | some s => s.answer r 0
      | none => s.answer r 9)
/-- SEG_FREE (R280, R345): as SEGF, for every kind; of code it is a removal (R262, log entry 38). -/
def execSegFree (r : Req) (sel : BitVec 16) (s : State) : Out :=
  .next (s.ctxReq r fun x =>
    let d := x.desc sel
    if selFixed sel || d.kind == 0 then s.answer r 10
    else if d.kind == 4 then
      match s.removeCode x sel with
      | some s => s.answer r 0
      | none => s.answer r 9
    else (s.freeSeg r.ctx sel).answer r 0)

/-! ### Mailboxes, unbinds and replies (R233, R257, R374) -/

/-- A mailbox as a descriptor sets it up (R233): none where it breaks a rule, or its ring does not fit its segment. -/
def mailboxOf (x : Context) (bs : List Byte) (port : Nat) : Option Mailbox :=
  (mailboxForm bs port).filter fun m =>
    let d := x.desc (hsel m.ring)
    !selFixed (hsel m.ring) && (d.kind == 1 || d.kind == 2) && hoff m.ring + 64 * m.slots ≤ d.limit
/-- MAILBOX_SET (R233, R345). On a mailbox that stands as it is given, only the host-consumed count is taken over
(log entry 22). -/
def execMailboxSet (r : Req) (mbx : Nat) (desc : List Byte) (s : State) : Out :=
  .next (s.ctxReq r fun x =>
    if 63 < mbx then s.answer r 10
    else
      match mailboxOf x desc ((partyPort r.party).getD 0) with
      | none => s.answer r 2
      | some m =>
        let same : Bool := ((tabGet x.mailboxes mbx).map fun b => b.enabled && m.enabled && b.toHost == m.toHost && b.launcher == m.launcher &&
          b.slots == m.slots && b.ring == m.ring && b.ack == m.ack && b.compl == m.compl).getD false
        (s.modCtx r.ctx fun x => { x with
          mailboxes := if same then tabMod x.mailboxes mbx fun b => { b with consumed := m.consumed } else tabSet x.mailboxes mbx m }).answer r 0)
/-- UNBIND (R269, R374): what the host wrote through BAR2 before it shows to the searches that follow (log entry 95). Of a BOUND or FAILED
entry it is answered when step 1 is complete, of a RESOLVING one it waits, otherwise it is answered at once. -/
def execUnbind (r : Req) (args : List Byte) (s : State) : Out :=
  .next (s.ctxReq r fun _ =>
    let s := ((partyPort r.party).map fun p => s.hostSync p [s.ensign.getD 0]).getD s
    let sel := BitVec.ofNat 16 (leAt args 0 2)
    let slot := BitVec.ofNat 12 (leAt args 2 2)
    match s.binding? r.ctx sel slot with
    | none => s.answer r 10
    | some b =>
      if args.length != 48 || !zeroAt args 4 44 || 4096 ≤ leAt args 2 2 then s.answer r 10
      else
        let wait (s : State) (applied : Bool) : State := s.modBinding r.ctx sel slot fun b =>
          { b with pendingUnbind := b.pendingUnbind ++ [(applied, r)] }
        match b.state with
        | .bound | .failed => wait (s.unbindNow r.ctx sel slot).2 true
        | .resolving => wait s false
        | .unbound | .revoked => s.answerUnbind r.ctx sel slot r)
/-- The reply to a trap reaches the lanes that wait for it (R178); in a stopped band it is kept with the wait (R330, R336). -/
def State.trapReply (s : State) (gid band : Nat) (seq : Word) (v : Word) : State :=
  let frozen := s.frozen gid
  s.modBand gid band fun b => { b with threads := b.threads.map fun t =>
    match t.wait with
    | .trap e d k _ =>
      if e != seq then t else if frozen then { t with wait := .trap e d k (some v) } else (t.put32 d v).release
    | _ => t }
/-- The effect of a reply by its class (R258): SOFTWARE, RESOLVE, PAGE and GROWTH have one. An entry that a reply binds keeps the rights that it
held, its import's or those of an earlier hit (DESIGN CHOICE, log entry 97). -/
def State.replyTo (s : State) (c : Claim) (v : ReplyVal) : State :=
  if c.cls == clSoftware then s.trapReply c.gid c.band c.seq (v.value.extractLsb' 0 32)
  else if c.cls == clResolve then
    let sel := c.arg.extractLsb' 0 16
    let slot := c.arg.extractLsb' 16 12
    match s.binding? c.ctx sel slot with
    | some b =>
      if b.state == BState.resolving && b.event == some c.seq then
        s.resolved c.ctx sel slot (if v.grant then some (v.pos, v.value, b.rights) else none)
      else s
    | none => s
  else if c.cls == clPage then
    let q := s.pageOf c.ctx c.arg
    let next := (hoff c.arg + 11) / Config.pageBytes != hoff c.arg / Config.pageBytes
    let s := s.answerPage c.ctx q.1 q.2 v.grant
    if next then s.answerPage c.ctx q.1 (q.2 + 1) v.grant else s
  else if c.cls == clGrowth then s.serveGrowth c.gid c.band v.grant
  else s
/-- REPLY (R257, R345): NOT_HOLDER from a party that does not handle the event, BAD_REQUEST where no reply is awaited. Of two events of a
number the later is meant: the other is that of a context that has been destroyed. -/
def execReply (r : Req) (seq : Word) (value : ReplyVal) (s : State) : Out :=
  .next (s.gate r false (
    match s.claims.reverse.find? fun c => c.ctx == r.ctx && c.seq == seq with
    | none => s.answer r 10
    | some c =>
      if !s.handles c.owner r.party then s.answer r 7
      else if !c.reply || c.answered || (c.cls == clResolve && value.grant && 7 < value.pos) then s.answer r 10
      else
        let s : State := { s with claims := s.claims.map fun (q : Claim) => if q.ctx == c.ctx && q.seq == c.seq then { q with answered := true } else q }
        (s.replyTo c value).answer r 0))

/-! ### Event rings (R346) and the lease (R347) -/

/-- The next held event of a port moved into its ring (R346), when the ring has room: the record, then the produced index, then vector 0. -/
def State.ringOne (s : State) (p : Nat) : State :=
  let q := s.port p
  match q.held with
  | [] => s
  | c :: rest =>
    if q.ringSize == 0 || q.ringSize ≤ q.produced - q.acked then s
    else
      let s := s.devWrite q.ringCtx q.ringHandle (32 * (q.produced % q.ringSize)) (c.bytes c.handled)
      let s := s.devWrite q.ringCtx q.ringIndex 0 (bytesOfNat 4 (q.produced + 1))
      s.modPort p fun x => { x with
        held := rest, delivered := x.delivered ++ [c], produced := x.produced + 1, msiEvents := x.msiEvents + 1 }
/-- Every held event of a port for which its ring has room. -/
def State.ringAll (s : State) (p : Nat) : State := (s.port p).held.foldl (fun s _ => s.ringOne p) s
/-- Whether a port has an event to move into its ring. -/
def State.ringReady (s : State) (p : Nat) : Bool :=
  let q := s.port p
  !q.held.isEmpty && q.ringSize != 0 && q.produced - q.acked < q.ringSize
/-- EVENT_RING (R346): the port's ring, empty; events delivered in an earlier ring and not acknowledged are delivered again. -/
def execEventRing (r : Req) (ring produced : BitVec 64) (k : Nat) (s : State) : Out :=
  .next (s.ctxReq r fun _ =>
    match partyPort r.party with
    | none => s.answer r 10
    | some p =>
      if k < 4 || 16 < k then s.answer r 10
      else
        ((s.modPort p fun q => { q with
          ringHandle := ring, ringIndex := produced, ringCtx := r.ctx, ringSize := 2 ^ k, produced := 0, consumed := 0, acked := 0,
          held := q.delivered ++ q.held, delivered := [] }).ringAll p).answer r 0)
/-- EVENT_RING_CONSUMED (R343, R346): the host raises its consumed index; events it passes are acknowledged, and room opens. A port whose TDI
is in ERROR does not take it (R358). -/
def execEventRingConsumed (port : Nat) (index : Word) (s : State) : Out :=
  .next (
    if 1 < port || (s.port port).tdi == Tdi.error then s
    else
      let q := s.port port
      let d := (index.toNat + 2 ^ 32 - q.acked % 2 ^ 32) % 2 ^ 32
      let n := if d ≤ q.produced - q.acked then d else 0
      (s.modPort port fun q => { q with consumed := index, acked := q.acked + n, delivered := q.delivered.drop n }).ringAll port)
/-- LEASE_RENEW (R347): from the holder, at any value of the counter. -/
def execLeaseRenew (r : Req) (n : Word) (s : State) : Out :=
  .next (s.gate r false (
    if n == 0 then s.answer r 10
    else if s.holds r.party then ({ s with leaseCounter := n } : State).answer r 0
    else s.answer r 7))
/-- The events that both hosts own given to a new holder (R347): those delivered to the old holder and not acknowledged, those it has not
been given yet, and those that waited for a holder. -/
def State.handOver (s : State) (to_ : Nat) : State :=
  let old := s.port (1 - to_)
  let both (c : Claim) : Bool := c.owner == 3#3
  let again := old.delivered.filter both ++ old.held.filter both ++ s.unheld
  let s := (({ s with unheld := [] } : State).modPort (1 - to_) fun q => { q with held := q.held.filter fun c => !both c }).modPort to_ fun q =>
    { q with held := q.held ++ again }
  s.ringAll to_
/-- LEASE_TAKE (R347): it succeeds when nobody holds the lease or the counter is 0. -/
def execLeaseTake (r : Req) (n : Word) (s : State) : Out :=
  .next (s.gate r false (
    match partyPort r.party with
    | none => s.answer r 10
    | some p =>
      if s.leaseHolder == 0#2 || s.leaseCounter == 0 then
        let new := BitVec.ofNat 2 (p + 1)
        let t : State := { s with leaseHolder := new, leaseCounter := n }
        (if s.leaseHolder == new then t else t.handOver p).answer r 0
      else s.respond r 8 (s.leaseCounter.setWidth 64)))
/-- LEASE_COUNTDOWN (R347): a microsecond of the host interface's own oscillator has passed; the counter stops at 0. -/
def execLeaseCountdown (s : State) : Out := .next { s with leaseCounter := if s.leaseCounter == 0 then 0 else s.leaseCounter - 1 }

/-! ### Modes, power, page keys and the aperture (R342, R353, R354, R357, R361, R363) -/

/-- SET_MODE (R354): in confidential mode demand paging and private growth stay in hardware mode, and name resolution leaves it only while
no context is confidential (log entry 39). -/
def execSetMode (r : Req) (mode : BitVec 6) (s : State) : Out :=
  .next (s.deviceReq r (
    if s.conf && (!mode.getLsbD 2 || !mode.getLsbD 3 || (!mode.getLsbD 0 && s.ctxs.any fun p => p.2.confidential)) then s.answer r 8
    else ({ s with mode := mode } : State).answer r 0))
/-- POWER_CAP (R363). -/
def execPowerCap (r : Req) (watts : Nat) (s : State) : Out :=
  .next (s.deviceReq r (
    if watts < 1200 || 2400 < watts then s.answer r 10 else ({ s with powerCap := watts } : State).answer r 0))
/-- SEAL_KEY (R357, R361): binds a page-key slot to a sealed-host segment of a context. -/
def execSealKey (r : Req) (slot : Nat) (sel : BitVec 16) (key : List Byte) (tags : BitVec 64) (s : State) : Out :=
  .next (s.ctxReq r fun x =>
    if !s.conf then s.answer r 8
    else if Config.pageKeySlots ≤ slot || (x.desc sel).kind != 7 || (x.desc sel).keySlot != slot then s.answer r 10
    else ({ s with keys := tabSet s.keys slot ⟨r.ctx, sel, key, tags, 0⟩ } : State).answer r 0)
/-- APERTURE (R342, R345, R357): maps the port's BAR2 onto a segment in device memory: a device segment, or a directory, which R374
reaches so. -/
def execAperture (r : Req) (sel : BitVec 16) (s : State) : Out :=
  .next (s.ctxReq r fun x =>
    match partyPort r.party with
    | none => s.answer r 10
    | some p =>
      let d := x.desc sel
      if s.conf && (s.port p).tdi != Tdi.run then s.answer r 8
      else if selFixed sel || !(d.kind == 1 || d.kind == 5) then s.answer r 10
      else (s.modPort p fun q => { q with aperture := some (r.ctx, sel, d.gen) }).answer r 0)
/-- The bytes of a BAR2 access (R342, R357, R358, R362): none where it completes as an Unsupported Request. -/
def State.bar2Keys (s : State) (port off n : Nat) (ide : Bool) : Option (List Key) :=
  if (s.conf && !(ide && (s.port port).tdi == Tdi.run)) || (s.port port).tdi == Tdi.error || s.shut then none
  else
    match (s.port port).aperture with
    | none => none
    | some (ctx, sel, gen) =>
      match s.ctx? ctx with
      | none => none
      | some x =>
        let d := x.desc sel
        if d.kind == 0 || d.gen != gen || d.limit < off + n then none else some ((List.range n).map fun i => segKey ctx sel (off + i))
/-- The die that terminates a port (R312). -/
def portDie (port : Nat) : Nat := if port == 0 then 0 else 3
/-- A BAR2 access that completes as an Unsupported Request (R342). -/
def State.bar2None (s : State) (port : Nat) : State := s.modPort port fun q => { q with readData := [], unsupported := true }
/-- An uncorrectable error that an access from outside meets at its bytes is counted on their home die (R189). -/
def State.farErr (s : State) (ks : List Key) : State := s.countErr (s.homeOfKey (ks.headD 0)) (memKind (ks.headD 0)) true
/-- A read-modify-write of a host on its BAR2, completed at the home die of its bytes and shown at the port's die (R181, R312, R342); one of
another size or that is not aligned is unsupported, and so is one that meets an uncorrectable error (R189, log entry 99). -/
def State.bar2Atomic (s : State) (port off n : Nat) (ide : Bool) (f : Nat → Option Nat) : State :=
  match (n == 4 || n == 8) && off % n == 0, s.bar2Keys port off n ide with
  | true, some ks =>
    if s.ecc ks then (s.farErr ks).bar2None port
    else
    let q := s.rmw (portDie port) s.nextId port hostLane none .device ks f
    let touches (w : WriteRec) : Bool := ks.any fun k => (w.byte? k).isSome
    let s := (q.2.writes.filter fun w => w.applied.contains (q.2.homeOfKey (ks.headD 0)) && touches w).foldl
      (fun s w => s.forceApply (portDie port) w.id) q.2
    s.modPort port fun p => { p with readData := bytesOfNat n q.1, unsupported := false }
  | _, _ => s.bar2None port
/-- BAR2_ACCESS (R312, R342): a host reads, into readData, writes, or performs an AtomicOp on n bytes of the mapped segment; a write is
stamped on the port's die, after the earlier writes of that die to its bytes (R306). A read that meets an uncorrectable error is an
Unsupported Request, a partial write onto one is discarded, and a full write of a half-line clears it (R189, log entry 99). -/
def execBar2Access (port off n : Nat) (op : Bar2Op) (ide : Bool) (s : State) : Out :=
  .next (
    if 1 < port then s
    else
      match op with
      | .read =>
        match s.bar2Keys port off n ide with
        | some ks =>
          if s.ecc ks then (s.farErr ks).bar2None port
          else s.modPort port fun q => { q with readData := ks.map (s.viewByte (portDie port)), unsupported := false }
        | none => s.bar2None port
      | .write bs =>
        match s.bar2Keys port off n ide with
        | some ks =>
          if s.eccStore ks ks then s.farErr ks
          else
          let (id, s) := s.fresh
          let w : WriteRec := ⟨id, id, port, hostLane, portDie port, bytesAt ks bs, none, [portDie port], [], false, [], false⟩
          (({ s with writes := s.writes ++ [w] } : State).leave w).clearErrors ks
        | none => s
      | .fetchAdd v => s.bar2Atomic port off n ide fun o => some ((o + v.toNat) % 2 ^ (8 * n))
      | .swap v => s.bar2Atomic port off n ide fun _ => some (v.toNat % 2 ^ (8 * n))
      | .cas e v => s.bar2Atomic port off n ide fun o => if o == e.toNat % 2 ^ (8 * n) then some (v.toNat % 2 ^ (8 * n)) else none)
/-- A truth value as a byte. -/
def byteOf (b : Bool) : Byte := if b then 1 else 0
/-- A byte of BAR0 as a host reads it (R343): the identity block, the consumed index, and zero elsewhere. What the block shows beyond the
listed bytes is left open (log entry 83). -/
def State.bar0Byte (s : State) (port off : Nat) : Byte :=
  if off == 0 then s.device
  else if off == 1 then BitVec.ofNat 8 s.level
  else if off == 2 then s.mode.setWidth 8
  else if off == 3 then s.leaseHolder.setWidth 8
  else if off < 8 then (bytesOfNat 4 s.leaseCounter.toNat).getD (off - 4) 0
  else if off == 8 then byteOf s.conf ||| (byteOf s.scrubOwed <<< 1)
  else if off < 64 then Config.identityByte s.ensign off
  else if off < 68 then (bytesOfNat 4 (s.port port).consumed.toNat).getD (off - 64) 0
  else 0
/-- BAR0_WRITE_OTHER (R343, R345, R351): a write outside the writable registers of BAR0 is discarded, a read gives its bytes, and a request
whose code is not listed is refused. -/
def execBar0WriteOther (port : Nat) (op : Bar0Op) (s : State) : Out :=
  .next (
    match op with
    | .discard _ => s
    | .read off n => if 1 < port then s else s.modPort port fun q => { q with
        readData := (List.range n).map fun i => s.bar0Byte port (off + i), unsupported := false }
    | .unlisted r => s.gate r false (s.answer r 10))
/-- The bind record of a BIND request (R270), with the launch or the saved group that it names (log entry 24). -/
def State.bindOf (s : State) (bs : List Byte) : BindRec :=
  let kind := leAt bs 0 1
  let ctx := leAt bs 2 2
  let handle := BitVec.ofNat 64 (leAt bs 8 8)
  let arg := BitVec.ofNat 64 (leAt bs 0x18 8)
  let cluster := leAt bs 0x10 4
  let position := leAt bs 0x14 2
  let rsv := !(kind == 1 || kind == 2) || 8 ≤ leAt bs 1 1 || !zeroAt bs 0x16 2 ||
    (kind == 2 && (cluster != 0 || position != 0 || arg != 0))
  let used (lid : Nat) : Bool := (s.cores.any fun p => p.2.slots.any fun r => r.lid == some lid && r.cluster == cluster && r.position == position) ||
    (s.clusters.any fun p => p.2.lid == lid && p.2.number == cluster)
  let lid := (s.launches.find? fun p => p.2.ctx == ctx && p.2.handle == handle && p.2.arg == arg && p.2.toCommit != 0 && cluster < p.2.block.clusters &&
    (p.2.block.domain cluster).contains position && !used p.1).map (·.1)
  { kind := kind, cls := leAt bs 1 1 % 4, gang := leAt bs 1 1 / 4 % 2 == 1, rsv := rsv, ctx := ctx, tag := BitVec.ofNat 32 (leAt bs 4 4),
    handle := handle, cluster := cluster, position := position, arg := arg, lid := if kind == 1 then lid else none,
    gid := if kind == 2 then some handle.toNat else none, reserved := false, hold := .zero, places := [] }
/-- BIND (R17, R345): in host-assisted mode the lease holder writes a bind record into a core's slot table. -/
def execBind (r : Req) (args : List Byte) (s : State) : Out :=
  .next (s.deviceReq r (
    let core := leAt args 0 2
    if s.mode.getLsbD 1 then s.answer r 8
    else if args.length != 48 || !zeroAt args 2 14 || Config.cores ≤ core then s.answer r 10
    else
      let b := s.bindOf (args.drop 16)
      match s.writeSlot core b with
      | none => s.answer r 5
      | some s =>
        let s := s.modPart (partOf core) fun p => { p with
          nextTag := if (b.tag - p.nextTag).toNat < 2 ^ 31 then b.tag + 1 else p.nextTag }
        let begun (l : Launch) : Launch := { l with bound := if l.bound.contains b.cluster then l.bound else l.bound ++ [b.cluster] }
        (match b.lid with
          | some lid => s.modLaunch lid begun
          | none => s).answer r 0))

/-! ### Peers and fabric ports (R348, R349) -/

/-- The end of an unlanded piece of a copy that lies in a peer's memory, with its direction (R349). -/
def State.peerEnd (s : State) (cp : Copy) : Option (CEnd × Nat) :=
  let far (e : CEnd) (n : Nat) (nd : Need) : Bool :=
    match s.endNow cp e n nd with
    | .ok .peer _ => true
    | _ => false
  (cp.pieces.filter fun p => p.started && !p.landed).findSome? fun p =>
    match p.src.find? fun e => far e p.n .copyFrom with
    | some e => some (e, 0)
    | none => if far p.dst p.landBytes .copyTo then some (p.dst, 1) else none
/-- PEER_TIMEOUT (R191, R219, R349): an access to a peer has had no response; its thread meets an uncorrectable error, or its copy fails,
and a late response is discarded. While a port is up, every access is delayed and none fails (log entry 95). What a store has done at the
peer stays (log entry 87). -/
def execPeerTimeout (id : Nat) (s : State) : Out :=
  .next (
    if s.fabricUp != 0 then s
    else
    match s.loads.find? fun l => l.id == id && l.peer with
    | some l =>
      ({ s with loads := s.loads.filter fun q => q.id != id } : State).memErr l.gid l.band l.active l.lane l.pc l.handle 0
        (if l.dst == .imm 0 then 1 else if l.atomic then 2 else 0)
    | none =>
      match s.copies.find? fun cp => cp.id == id with
      | none => s
      | some cp =>
        match s.peerEnd cp with
        | some (e, dir) => s.failCopy cp e dir
        | none => s)
/-- FABRIC_PORT_FAIL (R349): a fabric port is down and retrains; its traffic moves to the others. -/
def execFabricPortFail (port : Nat) (s : State) : Out :=
  .next (if port < Config.fabricPorts then { s with fabricUp := s.fabricUp &&& ~~~(BitVec.twoPow 24 port) } else s)
/-- FABRIC_PORT_RETRAINED (R349). -/
def execFabricPortRetrained (port : Nat) (s : State) : Out :=
  .next (if port < Config.fabricPorts then { s with fabricUp := s.fabricUp ||| BitVec.twoPow 24 port } else s)
/-- PEER_GRANT (R348): a grant between a context of this device and one of another: outgoing, this context may reach the peer; otherwise
the peer's context may reach this one. -/
def execPeerGrant (ctx dev peerCtx : Nat) (outgoing : Bool) (s : State) : Out :=
  .next (
    let g : Grant := ⟨ctx, dev, peerCtx, outgoing⟩
    if (s.ctx? ctx).isNone || 255 < dev || s.grants.contains g then s else { s with grants := g :: s.grants })
/-- Bytes of an atomic of a type: one of 16 bits' floating point acts on a word of two (R195). -/
def atomBytes (op : AtomOp) (ty : Ty) : Nat := if op == .fadd then max 4 ((ty.or .f32).bits / 8) else tyBytes ty
/-- The new value of a read-modify-write from another device (R195, R348). -/
def atomFn (op : AtomOp) (ty : Ty) (v old : Nat) : Nat :=
  let t := ty.or .i32
  let arith (f : Int → Int → Int) : Nat :=
    intNarrow (tySigned t) false t.bits (f (readInt (tySigned t) t.bits old) (readInt (tySigned t) t.bits v))
  match op with
  | .add => arith (· + ·)
  | .min => arith min
  | .max => arith max
  | .and => old &&& v
  | .or => old ||| v
  | .xor => old ^^^ v
  | .xch => v
  | .fadd =>
    let t := ty.or .f32
    let f := fmtOf t
    if t == .f16 || t == .bf16 then
      let el (i : Nat) : Nat := (f.result .rn false (FV.sum .rn [f.read (elemOf 16 i old), f.read (elemOf 16 i v)])).1
      el 0 + el 1 * 65536
    else (f.result .rn false (FV.sum .rn [f.read old, f.read v])).1
/-- What an access of a peer asks of the segment (R181). -/
def peerNeed : PeerOp → Nat × Need
  | .load n => (n, .load)
  | .store bs => (bs.length, .store)
  | .atomic op ty _ => (atomBytes op ty, ⟨rtA, true, false⟩)
  | .cas ty _ _ => (tyBytes ty, ⟨rtR ||| rtA, true, false⟩)
/-- Whether an access of a peer has a type and an alignment that its operation takes (R193, R195). -/
def peerFits (op : PeerOp) (off : Nat) : Bool :=
  match op with
  | .load _ | .store _ => true
  | .atomic op ty _ => (if op == .fadd then ty.afOk else ty.mtOk) && off % atomBytes op ty == 0
  | .cas ty _ _ => ty.siOk && off % tyBytes ty == 0
/-- What an access of a peer that follows a release of its party waits for (R312): what that device wrote before shows on every die. -/
def State.peerRelease (s : State) (p : PeerAccess) : State :=
  if p.rel then
    (s.writes.filter fun w => w.lane == peerLane && w.band == p.dev).foldl
      (fun s w => [0, 1, 2, 3].foldl (fun s d => s.forceApply d w.id) s) s
  else s
/-- What a write of a peer that follows a release of its party publishes (R303, R312): at `.DM`, what that device wrote before it. -/
def State.peerRels (s : State) (p : PeerAccess) (id home : Nat) : List Rel :=
  if p.rel then
    [⟨.dm, id, p.dev, peerLane, home, id :: (s.writes.filter fun w => w.lane == peerLane && w.band == p.dev).map (·.id)⟩]
  else []
/-- PEER_REQUEST (R181, R303, R312, R348): an access of another device, performed at the home die of its bytes; none where this device refuses
it: no grant, one number for two devices, an access its descriptor does not allow, the scrub that a reset repeats (R362), or an uncorrectable
error that it would read or store in part of (R189, log entry 99). After a release of its party, what that device wrote before shows on
every die first, and the write publishes it. -/
def execPeerRequest (p : PeerAccess) (s : State) : Out :=
  .next (
    let refuse : State := { s with peerAns := none }
    match s.ctx? p.ctx with
    | none => refuse
    | some x =>
      let granted := s.grants.any fun g => !g.outgoing && g.ctx == p.ctx && g.dev == p.dev && g.peerCtx == p.peerCtx
      let (n, nd) := peerNeed p.op
      if s.shut || !granted || p.dev == s.device.toNat || selFixed p.sel || !peerFits p.op p.off then refuse
      else
        match s.descSeg x p.sel p.off n nd with
        | .ok .device ks =>
          let home := s.homeOfKey (ks.headD 0)
          let bad := match p.op with
            | .store _ => s.eccStore ks ks
            | _ => s.ecc ks
          if bad then { s.farErr ks with peerAns := none }
          else
          let s := s.peerRelease p
          let id := s.nextId
          let publish (t : State) : State :=
            { t with writes := modWrite t.writes id fun w => { w with rels := s.peerRels p id home ++ w.rels } }
          let rmw (f : Nat → Option Nat) : State :=
            let q := s.rmw home id p.dev peerLane none .device ks f
            { publish q.2 with peerAns := some (bytesOfNat n q.1) }
          match p.op with
          | .load _ => { s with peerAns := some (ks.map (s.viewByte home)) }
          | .store bs =>
            { ((publish (s.writeBytes home id p.dev peerLane .device (bytesAt ks bs))).clearErrors ks) with peerAns := some [] }
          | .atomic op ty v => rmw fun o => some (atomFn op ty (v.toNat % 2 ^ (8 * n)) o % 2 ^ (8 * n))
          | .cas _ e v => rmw fun o => if o == e.toNat % 2 ^ (8 * n) then some (v.toNat % 2 ^ (8 * n)) else none
        | _ => refuse)

/-! ### Service pairs, resets and bring-up (R350 to R356) -/

/-- LOCKSTEP_MISMATCH (R350): a die's pair is held in reset; its compute cores continue. -/
def execLockstepMismatch (die : Nat) (s : State) : Out :=
  .next (if die < Config.dies then s.modDie die fun d => { d with pairLive := false } else s)
/-- HEARTBEAT (R352): the ensign pair raises its word. -/
def execHeartbeat (s : State) : Out :=
  .next (
    match s.ensign with
    | some d => if (s.die d).pairLive then s.modDie d fun x => { x with heartbeat := x.heartbeat + 1, lapsed := false } else s
    | none => s)
/-- The lowest-numbered die whose pair is live, another apart. -/
def State.livePair (s : State) (but : Nat) : Option Nat := (List.range Config.dies).find? fun d => d != but && (s.die d).pairLive
/-- ENSIGN_TAKEOVER (R352): the heartbeat of the ensign pair has lapsed; the lowest-numbered other live pair claims the register and holds the
old one in reset, and both hosts are notified. -/
def execEnsignTakeover (s : State) : Out :=
  .next (
    match s.ensign with
    | none => s
    | some d =>
      match s.livePair d with
      | none => s
      | some n =>
        let s := s.modDie d fun x => { x with lapsed := true, pairLive := false }
        let s : State := { s with ensign := some n }
        [0, 1].foldl (fun s p => s.modPort p fun q => { q with notices := q.notices + 1 }) s)
/-- The ensign an election finds (R351): the lowest-numbered die whose pair passes its self-test. -/
def elect (pass : List Nat) : Option Nat := (List.range Config.dies).find? pass.contains
/-- A measurement register (R359). -/
def State.measured (s : State) (reg : Nat) : List Byte := tabGetD s.meas reg (List.replicate 48 0)
/-- A measurement extended into its register (R359): once a boot, SHA-384 of the old value and the new measurement. -/
def State.extend (s : State) (reg : Nat) (m : List Byte) : State :=
  if 6 < reg || s.measDone.contains reg then s
  else { s with
    meas := tabSet s.meas reg (sha384 (s.measured reg ++ m)), measDone := reg :: s.measDone }
/-- The dies with their pairs as the self-tests leave them. -/
def diesOf (pass : List Nat) (f : Nat → Die) : Tab Die := (List.range Config.dies).map fun d => (d, { f d with pairLive := pass.contains d, lapsed := false })
/-- COLD_BOOT (R341, R351, R355, R357, R359): everything of the device is cleared but the signature counter and SCRUB_OWED; the boot
configuration is read, the ensign elected, the boot stages measured. In confidential mode, and on leaving it, the full scrub begins, as it
does where one is owed. -/
def execColdBoot (boot : BootConfig) (s : State) : Out :=
  .next (
    let owed := s.scrubOwed || boot.confidential || s.conf
    let s' : State := { State.reset with
      schedule := s.schedule, turn := s.turn, cycle := s.cycle, cycleId := s.cycleId, nextId := s.nextId, free := s.free, lms := s.lms, conf := boot.confidential,
      mem := s.mem.filter fun c => c.1 % 8 == 3 || c.1 % 8 == 4
      scrubOwed := owed, scrubbing := owed, shut := owed, device := boot.device, ensign := elect boot.pass,
      dies := diesOf boot.pass fun _ => .zero }
    boot.measurements.foldl (fun s m => s.extend m.1 m.2) s')
/-- A context as a reset that keeps its record leaves it (R241, R355): its groups and its halt are gone, its mailboxes resume, and
records not accepted are to be submitted again (R235). -/
def Context.recover (x : Context) : Context :=
  { x with
    line := false, arrived := [], halt := .running, area := [], heldTeardown := [], pennants := [], blacks := [], spillQ := []
    bindings := x.bindings.map fun p => (p.1, { p.2 with parked := 0, pendingUnbind := [] })
    mailboxes := x.mailboxes.map fun p => (p.1, { (if p.2.toHost then p.2 else p.2.recover) with incoming := [] }) }
/-- Every write to device memory applied on every die. -/
def State.applyAll (s : State) : State :=
  s.writes.foldl (fun s w => [0, 1, 2, 3].foldl (fun s d => s.forceApply d w.id) s) s
/-- WARM_RESET (R241, R351, R355, R361, R362): compute and service state is cleared; the always-on registers, the contents of HBM, the
versions of sealed pages among them, the context records and the mailbox sequences stay. An owed scrub begins anew. -/
def execWarmReset (pass : List Nat) (s : State) : Out :=
  .next (
    let gs := s.groups.filter fun p => p.2.place != GPlace.ended
    let s := gs.foldl (fun s p => s.terminate p.1) s
    let s := s.posted.foldl State.landPosted s.applyAll
    { State.reset with
      schedule := s.schedule, turn := s.turn, cycle := s.cycle, cycleId := s.cycleId, nextId := s.nextId, free := s.free
      ctxs := s.ctxs.map fun p => (p.1, p.2.recover)
      mem := s.mem.filter fun c => c.1 % 8 == 0 || c.1 % 8 == 3 || c.1 % 8 == 4
      absent := s.absent, homes := s.homes, eccBad := s.eccBad.filter fun k => k % 8 == 0, grants := s.grants
      retired := s.retired, versions := s.versions
      claims := s.claims, unheld := s.unheld
      keys := s.keys.map fun p => (p.1, { p.2 with key := [], tags := 0, status := 0 })
      ports := s.ports.map fun p => (p.1, { Port.zero with held := p.2.delivered ++ p.2.held, tdi := p.2.tdi, notices := p.2.notices })
      dies := diesOf pass s.die
      conf := s.conf, scrubOwed := s.scrubOwed, scrubbing := s.scrubOwed, shut := s.scrubOwed, lms := s.lms, meas := s.meas, measDone := s.measDone
      device := s.device, ensign := elect pass })
/-- A group whose die is reset (R191, R355): its end is reported, or its context halts under the escalation bit; what the die held of it is
gone either way (log entry 90). -/
def State.loseGroup (s : State) (gid : Nat) (g : Group) : State :=
  let pc := ((g.bands.findSome? fun b => lowestPc b.threads).map PC.val).getD 0
  let s :=
    if ((s.ctx? g.ctx).map (·.escalate)).getD false then s.raiseLine g.ctx rMemerr pc
    else (s.postOpen g.ctx clMemerr gid 0 pc none false).2.2
  s.terminate gid
/-- DIE_RESET (R191, R241, R341, R353, R355): one die's compute and service state is cleared and S.LEVEL returns to 0; the groups seated on
it, in its phase queues or in its shadow layer end, and every mailbox resumes. A scrub under way is interrupted and does not count (R362). In
hardware mode a service pair does it, which must be live. -/
def execDieReset (die : Nat) (s : State) : Out :=
  .next (
    if Config.dies ≤ die || (s.mode.getLsbD 5 && (s.livePair Config.dies).isNone) then s
    else
      let here (core : Nat) : Bool := dieOf core == die
      let held (g : Group) : Bool :=
        match g.place with
        | .seated | .phase => true
        | .shadow slot _ => slot < 8
        | _ => false
      let gs := s.groups.filter fun p => here p.2.core && held p.2
      let s := gs.foldl (fun s p => s.loseGroup p.1 p.2) s
      let s : State := { s with
        level := 0, clockSteps := 20, scrubbing := false
        cores := s.cores.filter fun p => !here p.1
        parts := s.parts.filter fun p => p.1 / 2 != die
        shadows := s.shadows.filter fun p => p.2.part / 2 != die || 8 ≤ p.1
        copies := s.copies.filter fun q => !here q.core || q.away
        ctxs := s.ctxs.map fun p => (p.1, { p.2 with
          pennants := p.2.pennants.filter fun q => !(gs.any fun g => g.1 == q.gid)
          mailboxes := p.2.mailboxes.map fun m => (m.1, if m.2.toHost then m.2 else m.2.recover) }) }
      s.modDie die fun d => { d with pairLive := true, lapsed := false })
/-- The clock at a service level in steps of 52.5 MHz (R356): half rate at levels 1 and 2. -/
def levelSteps (level : Nat) : Nat := if level == 1 || level == 2 then 10 else 20
/-- LEVEL_RAISE (R351, R356): one step up, never without an ensign, and in confidential mode not from 0 while a scrub is owed. -/
def execLevelRaise (s : State) : Out :=
  .next (if s.ensign.isNone || 3 ≤ s.level || (s.conf && s.scrubOwed && s.level == 0) then s
    else { s with level := s.level + 1, clockSteps := levelSteps (s.level + 1) })

/-! ### Confidential mode (R357 to R362) -/

/-- SPDM_REQUEST (R357, R359): a device is found attested or not; a measurement register read into readData; an extension, once a boot; a
signed response with the raised signature counter, or an error once 2^20 signatures are spent. The signature is a free value (log entry
5). -/
def execSpdmRequest (port : Nat) (m : SpdmMsg) (s : State) : Out :=
  .next (
    if 1 < port then s
    else
      match m with
      | .attest dev ok => { s with attested := if ok then dev :: s.attested.filter (· != dev) else s.attested.filter (· != dev) }
      | .measurement reg => s.modPort port fun q => { q with
          readData := if reg ≤ 7 then s.measured reg else [], unsupported := 7 < reg }
      | .extend reg m =>
        (s.extend reg m).modPort port fun q => { q with readData := [], unsupported := 6 < reg || s.measDone.contains reg }
      | .challenge =>
        if 2 ^ 20 ≤ s.lms.toNat then s.modPort port fun q => { q with readData := [], unsupported := true }
        else
          let (sig, s) := s.freeBytes 64
          ({ s with lms := s.lms + 1 } : State).modPort port fun q => { q with
            readData := bytesOfNat 8 (s.lms + 1).toNat ++ sig, unsupported := false })
/-- TDISP_REQUEST (R358): the TDI is locked, started, or unlocked. -/
def execTdispRequest (port : Nat) (m : TdispMsg) (s : State) : Out :=
  .next (
    if 1 < port then s
    else s.modPort port fun q => { q with
      tdi := match m, q.tdi with
        | .lock, .unlocked => .locked
        | .start, .locked => .run
        | .stop, _ => .unlocked
        | _, t => t })
/-- TDI_CONFIG_CHANGE (R358): a change to a locked configuration moves the TDI to ERROR and halts every context. -/
def execTdiConfigChange (port : Nat) (s : State) : Out :=
  .next (
    if 1 < port || !((s.port port).tdi == Tdi.locked || (s.port port).tdi == Tdi.run) then s
    else
      let s := s.modPort port fun q => { q with tdi := .error }
      s.ctxs.foldl (fun s p => s.raiseLine p.1 rStopped 0) s)
/-- The plaintext of a page leaves device memory for host memory, encrypted under its IV (R361): its ciphertext. -/
def State.evict (s : State) (ctx : Nat) (sel : BitVec 16) (page n : Nat) (key iv : List Byte) : List Byte × State :=
  let ks := residentKeys ctx sel page n
  let s := (s.writes.filter fun w => ks.any fun k => (w.byte? k).isSome).foldl
    (fun s w => [0, 1, 2, 3].foldl (fun s d => s.forceApply d w.id) s) s
  let bs := crypt key iv (ks.map (s.viewByte (s.ensign.getD 0)))
  (bs, { s with
    mem := memPut (memPut s.mem (ks.map fun k => (k, 0))) ((sealedKeys ctx sel page n).zip bs)
    writes := s.writes.map fun (w : WriteRec) => { w with bytes := w.bytes.filter fun b => !ks.contains b.1 } })
/-- PAGE_SEAL (R361): a page of a sealed-host segment is sealed and evicted: its version rises, its ciphertext goes to host memory, and its tag
is written last. A page with no key or no version left stays, and one with an uncorrectable error too (R189, log entry 99). -/
def execPageSeal (ctx sel page : Nat) (s : State) : Out :=
  .next (
    let sl := BitVec.ofNat 16 sel
    match s.ctx? ctx with
    | none => s
    | some x =>
      let d := x.desc sl
      match tabGet s.keys d.keySlot with
      | none => s
      | some k =>
        let v := s.version ctx sl page
        if !s.ensignRuns || s.ecc (residentKeys ctx sl page (d.pageLen page)) || d.kind != 7 || k.ctx != ctx || k.sel != sl || k.key.isEmpty || 2 ^ 64 - 1 ≤ v || d.limit ≤ page * Config.pageBytes ||
            s.absent.contains (pageKey ctx sl page) then s
        else
          let iv := sealIv page (v + 1)
          let (bs, s) := s.evict ctx sl page (d.pageLen page) k.key iv
          let s : State := { s with
            versions := tabSet s.versions (pageKey ctx sl page) (v + 1)
            absent := pageKey ctx sl page :: s.absent
            cores := s.cores.map fun p => (p.1, { p.2 with pages := p.2.pages.filter fun q => q != pageKey ctx sl page }) }
          s.devWrite ctx k.tags (16 * page) (sealTag k.key ctx sl iv bs))
/-- A core as the scrub leaves it (R362). -/
def Core.scrubbed (k : Core) : Core := { k with tiles := [], vacant := [], blank := true }
/-- A band as the scrub leaves it (R362). -/
def Band.scrubbed (b : Band) : Band :=
  { b with b := [], q := 0, threads := b.threads.map fun t => { t with v := [], vUnder := t.vUnder.map fun _ => [], o := [], lq := .zero, p := 0 } }
/-- SCRUB_COMPLETE (R362): zero stands over all device memory, scratchpads, accumulators, register files, shadow slots and page keys;
SCRUB_OWED is clear, the contexts that waited are created, and the requests behind them follow (R344). -/
def execScrubComplete (s : State) : Out :=
  .next (
    if !s.scrubbing then s
    else
      let waiting := s.creates
      let s : State := { s with
        mem := s.mem.filter fun c => c.1 % 8 == 3 || c.1 % 8 == 4
        writes := [], posted := s.posted.filter fun p => p.port != scratchPort
        eccBad := [], shadows := [], keys := [], versions := [], shut := false
        cores := (List.range Config.cores).map fun i => (i, (s.core i).scrubbed)
        groups := s.groups.map fun p => (p.1, { p.2 with tiles := [], bands := p.2.bands.map Band.scrubbed })
        scrubOwed := false, scrubbing := false, creates := [], schedule := s.late ++ s.schedule, late := [] }
      waiting.foldl (fun s c => s.createCtx c.1 c.2) s)

/-! ### Power (R363) -/

/-- POWER_THROTTLE (R363): the module's power over 1 ms exceeds the cap, or the coolant is above 45 °C: the clock goes down one step of
52.5 MHz, to no less than 525 MHz. -/
def execPowerThrottle (watts : Nat) (hot : Bool) (s : State) : Out :=
  .next (if s.powerCap < watts || hot then { s with clockSteps := max 10 (s.clockSteps - 1) } else s)
/-- POWER_RESTORE (R363): the average is 5 % below the cap, and the clock goes up one step, to no more than that of its service level (R356). -/
def execPowerRestore (watts : Nat) (s : State) : Out :=
  .next (if 100 * watts ≤ 95 * s.powerCap then { s with clockSteps := min (levelSteps s.level) (s.clockSteps + 1) } else s)

end Sys2Proof.Machine
end

