-- ==== Sys2Proof/Machine/Idle.lean ====
section
/-! DEFINITION. What the machine does of itself (log entry 1): the events that its state calls for, of which step takes one when the
schedule names none; and the issue of a split: the checks of R67, and what issuing changes before the instruction's own meaning (R27, R29,
R74). -/

namespace Sys2Proof.Machine

/-! ### A default policy (R17) -/

/-- The block a handle of a context names, as the policy reads it. -/
def State.blockAt (s : State) (ctx : Nat) (h : W64) : Option Block :=
  match s.ctx? ctx, s.devRead ctx h 0 128 with
  | some x, some bs => x.block bs 1
  | _, _ => none
/-- Placement decisions for the next of a launch's clusters when no others are given: class 0 for every gang, the partitions the context has
or may take in turn, and cores from the first on; one cluster at a time, or all of a gang's (log entry 72). -/
def State.policyFor (s : State) (ctx : Nat) (b : Block) (left : List Nat) : Policy :=
  let ps := (List.range Config.partitions).filter fun p => s.partRuns p && ((s.part p).owner == some ctx || s.partIdle p)
  let next := if b.gang then left else left.take 1
  ⟨next.map fun k => List.replicate (b.domain k).length 0, next.map fun k => ps.getD (k % max ps.length 1) 0, next.map fun k => List.range (b.domain k).length⟩
/-- The same for a launch under way. -/
def State.policyOf (s : State) (lid : Nat) : Policy :=
  match s.launch? lid with
  | some l => s.policyFor l.ctx l.block l.unbound
  | none => ⟨[], [], []⟩
/-- The same for a launch that is still to be made. -/
def State.policyNew (s : State) (ctx : Nat) (b : Block) : Policy :=
  s.policyFor ctx b ((List.range b.clusters).filter fun k => !(b.domain k).isEmpty)

/-! ### Events the state calls for -/

/-- Events of one lane. -/
def laneEvents (gid band lane : Nat) (t : Thread) : List Instr :=
  match t.wait with
  | .seal => [.sealRelease gid band lane]
  | .waitb _ => [.waitbRelease gid band lane]
  | .fence _ _ => [.fenceComplete gid band lane]
  | _ => if t.nap == 1 then [.napExpiry gid band lane] else []
/-- Events that a wait of a band's lanes calls for. -/
def State.waitEvents (s : State) (gid band : Nat) (g : Group) (b : Band) (w : Wait) : List Instr :=
  match w with
  | .join _ _ => [.joinRelease gid band]
  | .ijoin _ _ => [.joinRelease gid band, .collectiveExecute gid band]
  | .bar _ => [.barRelease gid]
  | .cbar _ _ => [.cbarRelease g.cid]
  | .acq _ _ _ => [.acqGrant g.core b.slice g.lid, .acqDenial g.core b.slice g.lid]
  | .twin => [.twinWaitResolve gid band]
  | .guide => [.twinWaitResolve gid band]
  | .await _ _ => [.awaitRelease gid band]
  | .page h _ => let q := s.pageOf g.ctx h; [.demandPageService g.ctx q.1.toNat q.2 true, .demandPageService g.ctx q.1.toNat (q.2 + 1) true]
  | .growth _ => [.privateGrowthService gid band true]
  | .bind sel slot => [.nameResolution g.ctx sel.toNat slot.toNat]
  | .unbind sel slot _ _ => [.unbindComplete g.ctx sel.toNat slot.toNat]
  | .queue (.take _) => [.mbxtakeWake gid band]
  | .queue (.post _) => [.mbxpostWake gid band]
  | .queue (.roleq _ _ _ _) => [.roleqWake gid band]
  | .queue (.drain n) => [.pennantPass g.ctx n]
  | _ => []
/-- Events of one group. -/
def State.groupEvents (s : State) (gid : Nat) (g : Group) : List Instr :=
  if g.place == GPlace.ended then []
  else
    (if g.place == GPlace.seated then [.bandSelect [(g.core, 0), (g.core, 1)]] else []) ++
      (if g.moving then [.moveComplete gid] else []) ++ (if g.inl.isEmpty then [] else [.inlineChildEnd gid]) ++
      (if g.place == GPlace.forked || g.place == GPlace.preempted then [.forkResume gid g.core (((g.bands.head?).map (·.cls)).getD 0)]
       else []) ++
      (mapIdx (fun i (b : Band) =>
        ((b.threads.filter (·.live)).map fun t => s.waitEvents gid i g b t.wait).flatten.eraseDups ++
          (if b.threads.any (·.stopped) then [.joinRelease gid i] else []) ++
          (mapIdx (fun l t => laneEvents gid i l t) b.threads 0).flatten) g.bands 0).flatten
/-- The event that applies a matrix command. -/
def cmdEvent (core : Nat) (q : MCmd) : Instr :=
  match q.kind with
  | .mma _ _ _ _ _ _ _ => .mmaStep core (.apply q.id)
  | .mchb _ _ => .mchbApply core q.id
  | .mche _ => .mcheApply core q.id
  | .accz _ => .acczApply core q.id
  | .accsc _ _ => .accscApply core (.apply q.id)
  | .acccvt _ _ _ _ _ => .acccvtApply core q.id
  | .sta _ _ _ => .staApply core q.id
  | .guide _ _ _ _ => .guideApply core q.id
/-- Events of one core: its matrix commands, the head of its slot table and of its phase queue. -/
def coreEvents (core : Nat) (k : Core) : List Instr :=
  k.mq.map (cmdEvent core) ++ (if k.slots.isEmpty then [] else [.seating core, .groupRestore core, .admissionCommit (partOf core)]) ++
    (if k.phaseQ.isEmpty then [] else [.phaseReseat core])
/-- Events of a partition: its children and its gather buffers. -/
def State.partEvents (s : State) (part : Nat) (p : Partition) : List Instr :=
  (match s.unfinished fun lid l => l.mbx.isNone && p.owner == some l.ctx && !s.childWaits lid, p.children with
    | some lid, _ => [.childAdmit part (s.policyOf lid)]
    | none, [] => []
    | none, c :: _ => [.childAdmit part (s.policyOf c.lid)]) ++
    mapIdx (fun i (_ : Gather) => .nodeCountdownExpiry part i ⟨[[0]], [part], [[0]]⟩) p.gathers 0
/-- Events of a context: its mailboxes, resolutions, unbinds, spilled children, pennants and halt. -/
def State.ctxEvents (s : State) (x : Context) : List Instr :=
  (x.mailboxes.flatMap fun m =>
    (if m.2.incoming.isEmpty then [] else [.recordAccept x.number m.1]) ++
      (match s.unfinished fun _ l => l.ctx == x.number && l.mbx.map (·.1) == some m.1 with
      | some lid => [.launchRecord x.number m.1 (s.policyOf lid)]
      | none =>
        if m.2.launcher && m.2.enabled && decide (m.2.nextTake ≤ m.2.accepted) then
          match s.blockAt x.number (BitVec.ofNat 64 (numAt ((tabGet m.2.recs m.2.nextTake).getD []) 0 8)) with
          | some b => [.launchRecord x.number m.1 (s.policyNew x.number b)]
          | none => [.launchRecord x.number m.1 ⟨[], [], []⟩]
        else [])) ++
    (x.bindings.flatMap fun b =>
      (if b.2.state == BState.resolving then [.nameResolution x.number (b.1 / 4096) (b.1 % 4096)] else []) ++
        (if b.2.pendingUnbind.isEmpty then [] else [.unbindComplete x.number (b.1 / 4096) (b.1 % 4096)])) ++
    (match x.spillQ with
      | [] => []
      | c :: _ => match s.group? c.parent with
        | some g => [.spillRefill x.number (partOf g.core)]
        | none => []) ++
    (x.pennants.map fun p => .pennantPass x.number p.graph) ++
    (if x.line then
      ((s.groups.filterMap fun p => if p.2.ctx == x.number && p.2.place == GPlace.seated then some p.2.core else none) ++
        (s.copies.filterMap fun q => if q.ctx == x.number then some q.core else none) ++
        (s.cores.filterMap fun p => if p.2.mq.any fun q => q.ctx == x.number then some p.1 else none)).eraseDups.filterMap (fun c =>
          if x.arrived.contains c then none else some (.haltLineArrival x.number c)) ++ [.haltSettled x.number]
     else [])
/-- Events of a copy: its pieces that have not landed, and the pages that they wait for (R219). -/
def State.copyEvents (s : State) (q : Copy) : List Instr :=
  let asked (e : CEnd) (n : Nat) (nd : Need) : List Instr :=
    match s.endNow q e n nd with
    | .page h =>
      let p := s.pageOf q.ctx h
      [.demandPageService q.ctx p.1.toNat p.2 true, .demandPageService q.ctx p.1.toNat (p.2 + 1) true]
    | _ => []
  if q.landed then [.copyLanding q.id (.land 0)]
  else (mapIdx (fun i (p : Piece) => if p.landed then [] else
    .copyLanding q.id (.land i) :: ((p.src.flatMap fun e => asked e p.n .copyFrom) ++ asked p.dst p.landBytes .copyTo)) q.pieces 0).flatten
/-- Every event that the state calls for, in one order. -/
def State.events (s : State) : List Instr :=
  (s.groups.flatMap fun p => s.groupEvents p.1 p.2) ++
    (s.loads.map fun r => if r.atomic then .atomicReturn r.id else .loadReturn r.id 0 0) ++
    (s.writes.flatMap fun w => ((List.range 4).filter fun d => !w.applied.contains d).map fun d => .remoteWriteApply w.id d) ++
    (s.posted.map fun p => .remoteWriteApply p.id 4) ++
    (s.copies.flatMap s.copyEvents) ++
    (s.arrivals.map fun a => .arriveApply a.id) ++ (s.cores.flatMap fun p => coreEvents p.1 p.2) ++
    (s.parts.flatMap fun p => s.partEvents p.1 p.2) ++ (s.ctxs.flatMap fun p => s.ctxEvents p.2) ++
    (if s.scrubbing then [.scrubComplete] else [])
/-- What the machine does of itself: an event moved into a host's ring (R346), or else the event whose turn it is among those the state
calls for; with none, a slice of core 0 that finds no ready band. -/
def State.idle (s : State) : State × Option Instr :=
  if s.ringReady 0 then (s.ringOne 0, none)
  else if s.ringReady 1 then (s.ringOne 1, none)
  else
    let es := s.events
    ({ s with turn := s.turn + 1 }, some ((es[s.turn % max es.length 1]?).getD (.bandSelect [(0, 0), (0, 1)])))

/-! ### Requests behind a CTX_CREATE that waits (R344, R362) -/

/-- The request that an event is, if it is one (R345). -/
def requestOf : Instr → Option Req
  | .ctxCreate r _ | .segCreate r _ | .segFree r _ | .codeInstall r _ | .codeRemove r _ | .mailboxSet r _ _ | .unbind r _ | .reply r _ _
  | .eventRing r _ _ _ | .leaseRenew r _ | .leaseTake r _ | .setMode r _ | .powerCap r _ | .sealKey r _ _ _ _ | .aperture r _ | .bind r _
  | .readHalt r _ | .ctxDestroy r | .stop r | .resumeCtx r | .teardown r => some r
  | .bar0WriteOther _ (.unlisted r) => some r
  | _ => none
/-- Whether an event is a request of a party whose CTX_CREATE still waits for a scrub: requests of one port are carried out in order. -/
def State.behind (s : State) (e : Instr) : Bool := ((requestOf e).map fun r => s.creates.any fun c => c.1.party == r.party).getD false
/-- What the next event of the schedule comes to: the event, or one request more that is kept until the scrub is complete; a program's
instruction is no event. -/
def State.take (s : State) (e : Instr) : State × Option Instr :=
  if e.isProgram then (s, none) else if s.behind e then ({ s with late := s.late ++ [e] }, none) else (s, some e)

/-! ### Errors of register files (R189, R191) -/

/-- The V registers that a record of a group's node takes (R242, R244). -/
def State.recordRegs (s : State) (g : Group) : Nat := (((s.launch? g.lid).map (·.block.recBytes)).getD 0 + 3) / 4
/-- The registers that an instruction reads: those whose number a REC's block says are its meaning's to ask. -/
def readsOf : Instr → List (Opd × Nat)
  | .recEmit _ _ _ a => [(a, 2)]
  | i => (destOf i).foldl List.erase (usesOf i)
/-- The registers that an instruction writes whole, of which a RECGET has as many as its record takes. -/
def State.writesOf (s : State) (g : Group) : Instr → List (Opd × Nat)
  | .recget _ d _ => [(d, s.recordRegs g)]
  | i => destOf i
/-- The registers that an instruction reads or, otherwise, writes whole, as one lane of its band sees them. -/
def State.regKeys (s : State) (c : Slot) (i : Instr) (lane : Nat) (reads : Bool) : List Key :=
  match s.group? c.gid with
  | some g => fileBytes c.gid c.band lane (if reads then readsOf i else s.writesOf g i)
  | none => []
/-- The lanes whose registers an instruction reads and writes: those that its guard passes. -/
def actors (h : Hdr) (c : Slot) (b : Band) (i : Instr) : List Nat :=
  if bandSlot i then (if bandGuard h b then lanesOf c.active else []) else lanesOf (guarded h c b)
/-- The register that an instruction is guarded by, read by every lane of the split. -/
def guardUse (h : Hdr) (i : Instr) : Opd × Nat := (if bandSlot i then .q h.gp else .p h.gp, 1)
/-- Whether an instruction reads an entry of a thread's last-result queue that holds an uncorrectable error. -/
def Thread.readsBad (t : Thread) (i : Instr) : Bool :=
  t.lBad && (usesOf i).any fun u =>
    match u.1 with
    | .l k => (List.range u.2).any fun j => (t.lq.get (k + BitVec.ofNat 2 j)).bad
    | _ => false
/-- The first lane of an issuing split whose instruction reads a register that holds an uncorrectable error (R191, log entry 91): its guard
first, by every lane, then what the lanes that the guard passes read. -/
def State.regErr (s : State) (c : Slot) (b : Band) (i : Instr) : Option Nat :=
  let h := (encodeRaw i).hdr
  match (lanesOf c.active).find? fun l => s.ecc (fileBytes c.gid c.band l [guardUse h i]) with
  | some l => some l
  | none => (actors h c b i).find? fun l => s.ecc (s.regKeys c i l true) || ((b.threads[l]?).map (·.readsBad i)).getD false
/-- Registers that are written whole lose the errors they held (R189). -/
def State.regClear (s : State) (c : Slot) (b : Band) (i : Instr) : State :=
  if s.eccBad.isEmpty then s
  else s.clearErrors ((actors (encodeRaw i).hdr c b i).flatMap fun l => s.regKeys c i l false)
/-- Whether an instruction's V registers lie in the allotment (R67, row 8). Of a REC it is those that its word names; how many more it reads is
its block's to say. -/
def State.allotted (s : State) (g : Group) (b : Band) (i : Instr) : Bool :=
  let us := match i with
    | .recEmit _ _ d a => [(d, 1), (a, 2)]
    | .recget _ d _ => [(d, max 1 (s.recordRegs g))]
    | i => usesOf i
  us.all fun u => fits (allotment g b) u.1 u.2

/-! ### Issue (R27, R29, R67 to R69, R74) -/

/-- Whether a split can still issue as it was chosen: its group is seated and not being moved, and its lanes stand at its PC, waiting at
nothing but this instruction's own implicit join (R173). -/
def State.slotOk (s : State) (c : Slot) : Bool :=
  match s.group? c.gid, s.band? c.gid c.band with
  | some g, some b =>
    g.place == GPlace.seated && !g.moving && c.active != 0#32 && (lanesOf c.active).all fun l => ((b.threads[l]?).map fun t =>
      t.live && t.pc == c.pc && (t.wait == Wait.none || ijoinPc t.wait == some c.pc)).getD false
  | _, _ => false
/-- Whether a lane of a split arrived at its PC by no transfer, so that the target is still to be checked (R74, R330). -/
def State.unchecked (s : State) (c : Slot) : Bool :=
  ((s.band? c.gid c.band).map fun b => (lanesOf c.active).any fun l => ((b.threads[l]?).map (·.pcChanged)).getD false).getD false
/-- The split as it issues: its word, and the successor of its instruction (R70). -/
def Slot.fetched (c : Slot) (w : W96) (len : Nat) : Slot := { c with word := w, next := ⟨c.pc.sel, c.pc.off + BitVec.ofNat 32 len⟩ }
/-- The hint of an instruction (R61); an event has none. -/
def hintOf (i : Instr) : Hint := (encodeRaw i).hdr.hy
/-- The state in which a split's instruction runs: the split is the issuing one, its entry PC is checked, and under HY = 01 its threads'
yield bits are set for the band's next vote (R29). -/
def State.issuing (s : State) (c : Slot) (yields : Bool) : State :=
  { s.modBand c.gid c.band (fun b => b.onLanes c.active fun _ t => { t with pcChanged := false, yielded := t.yielded || yields }) with
    cur := some c }
/-- What issuing a split comes to: its instruction with the state it runs in, or a state in which the split has met a check of R67 or
R74 or can no longer issue. A register's error is met after the checks of R67, the last of which is the meaning's own. -/
def State.issue (s : State) (c : Slot) : State × Option Instr :=
  match s.slotOk c, s.group? c.gid, s.band? c.gid c.band with
  | true, some g, some b =>
    if s.unchecked c && s.targetFault g.die g.ctx c.pc.sel c.pc.off.toNat == some rMisaligned then
      (s.takeHalt c.gid c.band rMisaligned c.active c.pc (s.wordAt g.die g.ctx c.pc) 0 0, none)
    else
      match s.fetch g.die g.ctx c.pc with
      | .ok w len i =>
        match if s.allotted g b i then s.regErr c b i else none with
        | some lane => ((s.countErr g.die 3 true).memErr c.gid c.band c.active lane c.pc 0 0 3, none)
        | none => ((s.regClear c b i).issuing (c.fetched w len) (hintOf i == .y), some i)
      | .halt reason w off arg => (s.takeHalt c.gid c.band reason c.active c.pc w off arg, none)
      | .page h => (s.parkPage c g.ctx h true, none)
      | .memerr h =>
        ((s.countErr g.die 0 true).memErr c.gid c.band c.active ((lanesOf c.active).headD 0) c.pc h (h.extractLsb' 0 32) 0, none)
  | _, _, _ => (s, none)

/-! ### A first instruction (the host's placement; log entry 19) -/

/-- A thread of the placed group. -/
def placedThread : Thread :=
  { pc := ⟨1, 0⟩, live := true, stopped := false, breakPassed := false, demoted := false, yielded := false, depth := 0, xstack := [],
    wait := .none, next := ⟨1, 0⟩, nap := 0, spin := none, v := [], vUnder := [], o := [], lq := .zero, pend := [], p := 0, fflags := 0, batch := 0,
    bdone := 0, openOps := 0, sealed := [], ix := 0, iy := 0, iz := 0, canon := true, record := none, pcChanged := false, woken := false, fences := [] }
/-- The band of the placed group. -/
def placedBand : Band :=
  { slice := 0, seat := 0, cls := 0, threads := List.replicate 32 placedThread, b := [], q := 0, held := 0, paired := false, mmaCount := 0,
    guideCount := 0, hwm := 65536, cbase := 0, row0 := 0, chunks := [], under := [], brk := none, guide := none, fault := none }
/-- The launch block of the placed group: one group of 32 threads with 256 registers. -/
def placedBlock : Block :=
  { gang := false, twin := false, sym := false, node := false, shape := (32, 1, 1), cluster := (1, 1, 1), box := (1, 1, 1), gens := [],
    recBytes := 0, perGroup := 0, countdown := 0, stages := [⟨0, 256, 1, 65536⟩], code := 1 }
/-- The placed group, seated on core 0. -/
def placedGroup : Group :=
  { ctx := 1, lid := 0, cid := 0, number := 0, unit := 0, stage := 0, position := 0, n := 32, budget := 256, scratch := 65536,
    scratchBase := 0, entry := ⟨1, 0⟩, core := 0, place := .seated, moving := false, teamOrder := 0, bands := [placedBand], accMask := 0,
    inlmax := 0, inl := [], arrive := [], cbarCount := 0, graph := none, node := false, halted := false, tiles := [], saveQ := [],
    follows := [], known := [] }
/-- The context of the placed group, with a code segment of n bytes under selector 1. -/
def placedContext (n : Nat) : Context :=
  { number := 1, pool := 0, laneDebug := false, escalate := false, confidential := false, privMax := 1, spill := 0, spillCap := 0,
    spillQ := [], lookup := [], unclaimed := 0, claimMap := List.replicate 32 0,
    segs := [(1, { Desc.zero with kind := 4, limit := n, rights := kindRights 4 })], codes := [(1, ⟨[], [], [], 0, 0, 0⟩)], bindings := [],
    mailboxes := [], eventSeq := 0, line := false, arrived := [], halt := .running, haltSeq := 0, haltReason := 0, haltPc := 0, haltBy := none, area := [],
    heldTeardown := [], pennants := [], blacks := [] }
/-- The state with packed code placed as a launch leaves it: code bytes and start map under selector 1 of context 1, one group of one band
seated at its first header, and its split about to issue. -/
def State.placed (s : State) (code map : List Byte) : State :=
  let s := { s with
    level := 3, ensign := some 0
    ctxs := tabSet s.ctxs 1 (placedContext code.length)
    launches := tabSet s.launches 0 ⟨1, placedBlock, 0, 0, 0, none, none, none, [], 0, 1, [0]⟩
    clusters := tabSet s.clusters 0 ⟨0, 0, 0, 0, 0⟩
    groups := tabSet s.groups 0 placedGroup
    parts := tabSet s.parts 0 { s.part 0 with owner := some 1 }
    nextId := max s.nextId 1
    issueQ := [slotOf 0 0 (⟨1, 0⟩, BitVec.allOnes 32) false] }
  { s with mem := memPut s.mem ((mapIdx (fun i b => (segKey 1 1 i, b)) code 0) ++
      mapIdx (fun i b => (segKey 1 1 (mapBase code.length + i), b)) map 0) }

end Sys2Proof.Machine
end

