-- ==== Sys2Proof/Machine/Dispatch.lean ====
section
/-! DEFINITION. One arm per instruction and event of the opcode table: a direct call of its meaning. -/

namespace Sys2Proof.Machine

/-- What an instruction or an event does (R66, R367 and the entries). -/
def exec (i : Instr) (s : State) : Host.Outcome State Fault Refusal :=
  match i with
  | .nop h => Sys2Proof.Machine.execNop h s
  | .mov h ty d b => Sys2Proof.Machine.execMov h ty d b s
  | .movLong h d imm => Sys2Proof.Machine.execMovLong h d imm s
  | .sel h ty d a b c => Sys2Proof.Machine.execSel h ty d a b c s
  | .plog h op d a b => Sys2Proof.Machine.execPlog h op d a b s
  | .iadd h ty sat d a b => Sys2Proof.Machine.execIadd h ty sat d a b s
  | .iaddLong h d a imm => Sys2Proof.Machine.execIaddLong h d a imm s
  | .isub h ty sat d a b => Sys2Proof.Machine.execIsub h ty sat d a b s
  | .isubLong h d a imm => Sys2Proof.Machine.execIsubLong h d a imm s
  | .imul h ty sat d a b => Sys2Proof.Machine.execImul h ty sat d a b s
  | .imulLong h d a imm => Sys2Proof.Machine.execImulLong h d a imm s
  | .imulh h ty d a b => Sys2Proof.Machine.execImulh h ty d a b s
  | .imad h ty sat d a b c => Sys2Proof.Machine.execImad h ty sat d a b c s
  | .idiv h ty sat d a b => Sys2Proof.Machine.execIdiv h ty sat d a b s
  | .irem h ty d a b => Sys2Proof.Machine.execIrem h ty d a b s
  | .imin h ty d a b => Sys2Proof.Machine.execImin h ty d a b s
  | .imax h ty d a b => Sys2Proof.Machine.execImax h ty d a b s
  | .iabs h ty sat d a => Sys2Proof.Machine.execIabs h ty sat d a s
  | .ineg h ty sat d a => Sys2Proof.Machine.execIneg h ty sat d a s
  | .icmp h ty cc d a b => Sys2Proof.Machine.execIcmp h ty cc d a b s
  | .and h ty d a b => Sys2Proof.Machine.execAnd h ty d a b s
  | .andLong h d a imm => Sys2Proof.Machine.execAndLong h d a imm s
  | .or h ty d a b => Sys2Proof.Machine.execOr h ty d a b s
  | .orLong h d a imm => Sys2Proof.Machine.execOrLong h d a imm s
  | .xor h ty d a b => Sys2Proof.Machine.execXor h ty d a b s
  | .xorLong h d a imm => Sys2Proof.Machine.execXorLong h d a imm s
  | .andn h ty d a b => Sys2Proof.Machine.execAndn h ty d a b s
  | .not h ty d a => Sys2Proof.Machine.execNot h ty d a s
  | .shl h ty d a b => Sys2Proof.Machine.execShl h ty d a b s
  | .shr h ty d a b => Sys2Proof.Machine.execShr h ty d a b s
  | .sar h ty d a b => Sys2Proof.Machine.execSar h ty d a b s
  | .rol h ty d a b => Sys2Proof.Machine.execRol h ty d a b s
  | .popc h ty d a => Sys2Proof.Machine.execPopc h ty d a s
  | .clz h ty d a => Sys2Proof.Machine.execClz h ty d a s
  | .ctz h ty d a => Sys2Proof.Machine.execCtz h ty d a s
  | .brev h ty d a => Sys2Proof.Machine.execBrev h ty d a s
  | .bfx h ty d a b => Sys2Proof.Machine.execBfx h ty d a b s
  | .bfxLong h d a imm => Sys2Proof.Machine.execBfxLong h d a imm s
  | .bfi h ty d a b c => Sys2Proof.Machine.execBfi h ty d a b c s
  | .hadd h ty scl d a b => Sys2Proof.Machine.execHadd h ty scl d a b s
  | .haddLong h d a imm => Sys2Proof.Machine.execHaddLong h d a imm s
  | .hsub h d a b => Sys2Proof.Machine.execHsub h d a b s
  | .hsel h d a => Sys2Proof.Machine.execHsel h d a s
  | .hoff h d a => Sys2Proof.Machine.execHoff h d a s
  | .hmake h d a b => Sys2Proof.Machine.execHmake h d a b s
  | .hcmp h cc d a b => Sys2Proof.Machine.execHcmp h cc d a b s
  | .badd h ty sat d a b => Sys2Proof.Machine.execBadd h ty sat d a b s
  | .baddLong h d a imm => Sys2Proof.Machine.execBaddLong h d a imm s
  | .bsub h ty sat d a b => Sys2Proof.Machine.execBsub h ty sat d a b s
  | .bmul h ty sat d a b => Sys2Proof.Machine.execBmul h ty sat d a b s
  | .band h ty d a b => Sys2Proof.Machine.execBand h ty d a b s
  | .bor h ty d a b => Sys2Proof.Machine.execBor h ty d a b s
  | .bxor h ty d a b => Sys2Proof.Machine.execBxor h ty d a b s
  | .bshl h ty d a b => Sys2Proof.Machine.execBshl h ty d a b s
  | .bshr h ty d a b => Sys2Proof.Machine.execBshr h ty d a b s
  | .bsar h ty d a b => Sys2Proof.Machine.execBsar h ty d a b s
  | .bmin h ty d a b => Sys2Proof.Machine.execBmin h ty d a b s
  | .bmax h ty d a b => Sys2Proof.Machine.execBmax h ty d a b s
  | .bmov h ty d b => Sys2Proof.Machine.execBmov h ty d b s
  | .bmovLong h d imm => Sys2Proof.Machine.execBmovLong h d imm s
  | .bcmp h ty cc d a b => Sys2Proof.Machine.execBcmp h ty cc d a b s
  | .bsel h ty d a b c => Sys2Proof.Machine.execBsel h ty d a b c s
  | .qlog h op d a b => Sys2Proof.Machine.execQlog h op d a b s
  | .bget h ty d a => Sys2Proof.Machine.execBget h ty d a s
  | .bred h ty sat red d a => Sys2Proof.Machine.execBred h ty sat red d a s
  | .acq h tr d a => Sys2Proof.Machine.execAcq h tr d a s
  | .rel h a => Sys2Proof.Machine.execRel h a s
  | .fadd h ty rnd ftz d a b => Sys2Proof.Machine.execFadd h ty rnd ftz d a b s
  | .faddLong h d a imm => Sys2Proof.Machine.execFaddLong h d a imm s
  | .fsub h ty rnd ftz d a b => Sys2Proof.Machine.execFsub h ty rnd ftz d a b s
  | .fmul h ty rnd ftz d a b => Sys2Proof.Machine.execFmul h ty rnd ftz d a b s
  | .fmulLong h d a imm => Sys2Proof.Machine.execFmulLong h d a imm s
  | .ffma h ty rnd ftz d a b c => Sys2Proof.Machine.execFfma h ty rnd ftz d a b c s
  | .fmin h ty ftz d a b => Sys2Proof.Machine.execFmin h ty ftz d a b s
  | .fmax h ty ftz d a b => Sys2Proof.Machine.execFmax h ty ftz d a b s
  | .fabs h ty d a => Sys2Proof.Machine.execFabs h ty d a s
  | .fneg h ty d a => Sys2Proof.Machine.execFneg h ty d a s
  | .fcmp h ty ftz cc d a b => Sys2Proof.Machine.execFcmp h ty ftz cc d a b s
  | .fclass h ty d a => Sys2Proof.Machine.execFclass h ty d a s
  | .frnd h ty rnd d a => Sys2Proof.Machine.execFrnd h ty rnd d a s
  | .fscl h ty rnd ftz d a b => Sys2Proof.Machine.execFscl h ty rnd ftz d a b s
  | .fadd2 h ty rnd ftz d a b => Sys2Proof.Machine.execFadd2 h ty rnd ftz d a b s
  | .fsub2 h ty rnd ftz d a b => Sys2Proof.Machine.execFsub2 h ty rnd ftz d a b s
  | .fmul2 h ty rnd ftz d a b => Sys2Proof.Machine.execFmul2 h ty rnd ftz d a b s
  | .ffma2 h ty rnd ftz d a b c => Sys2Proof.Machine.execFfma2 h ty rnd ftz d a b c s
  | .fmin2 h ty ftz d a b => Sys2Proof.Machine.execFmin2 h ty ftz d a b s
  | .fmax2 h ty ftz d a b => Sys2Proof.Machine.execFmax2 h ty ftz d a b s
  | .fcmp2 h ty ftz cc d a b => Sys2Proof.Machine.execFcmp2 h ty ftz cc d a b s
  | .fdot2 h ty rnd ftz d a b c => Sys2Proof.Machine.execFdot2 h ty rnd ftz d a b c s
  | .cvt h ty ty2 rnd ftz ovf rx d a => Sys2Proof.Machine.execCvt h ty ty2 rnd ftz ovf rx d a s
  | .pack h ty rnd ftz ovf pos d a b => Sys2Proof.Machine.execPack h ty rnd ftz ovf pos d a b s
  | .unpk h ty pos scl d a b => Sys2Proof.Machine.execUnpk h ty pos scl d a b s
  | .fdiv h ty rnd ftz d a b => Sys2Proof.Machine.execFdiv h ty rnd ftz d a b s
  | .fsqrt h ty rnd ftz d a => Sys2Proof.Machine.execFsqrt h ty rnd ftz d a s
  | .rcp h ty ftz d a => Sys2Proof.Machine.execRcp h ty ftz d a s
  | .rsq h ty ftz d a => Sys2Proof.Machine.execRsq h ty ftz d a s
  | .ex2 h ty ftz d a => Sys2Proof.Machine.execEx2 h ty ftz d a s
  | .lg2 h ty ftz d a => Sys2Proof.Machine.execLg2 h ty ftz d a s
  | .sinpi h ty ftz d a => Sys2Proof.Machine.execSinpi h ty ftz d a s
  | .cospi h ty ftz d a => Sys2Proof.Machine.execCospi h ty ftz d a s
  | .tanh h ty ftz d a => Sys2Proof.Machine.execTanh h ty ftz d a s
  | .shfl h ty mode seg d a b => Sys2Proof.Machine.execShfl h ty mode seg d a b s
  | .vote h vm d a => Sys2Proof.Machine.execVote h vm d a s
  | .lred h ty rnd ftz sat red d a => Sys2Proof.Machine.execLred h ty rnd ftz sat red d a s
  | .scan h ty rnd ftz sat red exc d a => Sys2Proof.Machine.execScan h ty rnd ftz sat red exc d a s
  | .bra h off => Sys2Proof.Machine.execBra h off s
  | .braq h off => Sys2Proof.Machine.execBraq h off s
  | .jmpi h a => Sys2Proof.Machine.execJmpi h a s
  | .call h d off => Sys2Proof.Machine.execCall h d off s
  | .callx h slot d => Sys2Proof.Machine.execCallx h slot d s
  | .ret h a => Sys2Proof.Machine.execRet h a s
  | .join h a => Sys2Proof.Machine.execJoin h a s
  | .exit h => Sys2Proof.Machine.execExit h s
  | .nap h a => Sys2Proof.Machine.execNap h a s
  | .brk h code => Sys2Proof.Machine.execBrk h code s
  | .trapi h code d => Sys2Proof.Machine.execTrapi h code d s
  | .ld h ty sc ord lk slot d a b => Sys2Proof.Machine.execLd h ty sc ord lk slot d a b s
  | .ldLong h d a imm => Sys2Proof.Machine.execLdLong h d a imm s
  | .st h ty sc ord lk slot d a b => Sys2Proof.Machine.execSt h ty sc ord lk slot d a b s
  | .stLong h d a imm => Sys2Proof.Machine.execStLong h d a imm s
  | .aadd h ty sc ord d a b => Sys2Proof.Machine.execAadd h ty sc ord d a b s
  | .amin h ty sc ord d a b => Sys2Proof.Machine.execAmin h ty sc ord d a b s
  | .amax h ty sc ord d a b => Sys2Proof.Machine.execAmax h ty sc ord d a b s
  | .aand h ty sc ord d a b => Sys2Proof.Machine.execAand h ty sc ord d a b s
  | .aor h ty sc ord d a b => Sys2Proof.Machine.execAor h ty sc ord d a b s
  | .axor h ty sc ord d a b => Sys2Proof.Machine.execAxor h ty sc ord d a b s
  | .axch h ty sc ord d a b => Sys2Proof.Machine.execAxch h ty sc ord d a b s
  | .acas h ty sc ar d a b c => Sys2Proof.Machine.execAcas h ty sc ar d a b c s
  | .afadd h ty sc ord d a b => Sys2Proof.Machine.execAfadd h ty sc ord d a b s
  | .ldsp h ty sc ord d a b => Sys2Proof.Machine.execLdsp h ty sc ord d a b s
  | .ldspLong h d a imm => Sys2Proof.Machine.execLdspLong h d a imm s
  | .stsp h ty sc ord d a b => Sys2Proof.Machine.execStsp h ty sc ord d a b s
  | .stspLong h d a imm => Sys2Proof.Machine.execStspLong h d a imm s
  | .ldsg h ty sc ord d a b => Sys2Proof.Machine.execLdsg h ty sc ord d a b s
  | .stsg h ty sc ord d a b => Sys2Proof.Machine.execStsg h ty sc ord d a b s
  | .symst h ty cpx d a b => Sys2Proof.Machine.execSymst h ty cpx d a b s
  | .push h cnt d a => Sys2Proof.Machine.execPush h cnt d a s
  | .pop h cnt d a => Sys2Proof.Machine.execPop h cnt d a s
  | .pfet h tr a b => Sys2Proof.Machine.execPfet h tr a b s
  | .fence h sc fk => Sys2Proof.Machine.execFence h sc fk s
  | .copyl h sz d a => Sys2Proof.Machine.execCopyl h sz d a s
  | .copyt h a => Sys2Proof.Machine.execCopyt h a s
  | .copyg h a => Sys2Proof.Machine.execCopyg h a s
  | .mma h ty ty2 scl d a b c => Sys2Proof.Machine.execMma h ty ty2 scl d a b c s
  | .mchb h d a => Sys2Proof.Machine.execMchb h d a s
  | .mche h d => Sys2Proof.Machine.execMche h d s
  | .accz h d => Sys2Proof.Machine.execAccz h d s
  | .accsc h d a => Sys2Proof.Machine.execAccsc h d a s
  | .acccvt h ty scl a b c => Sys2Proof.Machine.execAcccvt h ty scl a b c s
  | .lda h d a b => Sys2Proof.Machine.execLda h d a b s
  | .sta h d a b => Sys2Proof.Machine.execSta h d a b s
  | .guide h d a b => Sys2Proof.Machine.execGuide h d a b s
  | .pairx h rj => Sys2Proof.Machine.execPairx h rj s
  | .mbxtake h tr d a b => Sys2Proof.Machine.execMbxtake h tr d a b s
  | .mbxpost h tr d a b => Sys2Proof.Machine.execMbxpost h tr d a b s
  | .mbxdone h d a b => Sys2Proof.Machine.execMbxdone h d a b s
  | .recEmit h gr d a => Sys2Proof.Machine.execRecEmit h gr d a s
  | .recget h d a => Sys2Proof.Machine.execRecget h d a s
  | .fork h d a b => Sys2Proof.Machine.execFork h d a b s
  | .phase h => Sys2Proof.Machine.execPhase h s
  | .roleqRes h d a => Sys2Proof.Machine.execRoleqRes h d a s
  | .roleqPub h a b => Sys2Proof.Machine.execRoleqPub h a b s
  | .roleqTake h d a => Sys2Proof.Machine.execRoleqTake h d a s
  | .roleqFree h a b => Sys2Proof.Machine.execRoleqFree h a b s
  | .drain h a => Sys2Proof.Machine.execDrain h a s
  | .lref h slot d => Sys2Proof.Machine.execLref h slot d s
  | .lbind h slot d a b => Sys2Proof.Machine.execLbind h slot d a b s
  | .lunb h slot d a => Sys2Proof.Machine.execLunb h slot d a s
  | .lqry h slot d a => Sys2Proof.Machine.execLqry h slot d a s
  | .sega h d a => Sys2Proof.Machine.execSega h d a s
  | .segf h a => Sys2Proof.Machine.execSegf h a s
  | .segq h wd d a => Sys2Proof.Machine.execSegq h wd d a s
  | .segrt h a b => Sys2Proof.Machine.execSegrt h a b s
  | .seal h => Sys2Proof.Machine.execSeal h s
  | .waitb h a => Sys2Proof.Machine.execWaitb h a s
  | .bar h => Sys2Proof.Machine.execBar h s
  | .cbar h => Sys2Proof.Machine.execCbar h s
  | .arrive h rm a b c => Sys2Proof.Machine.execArrive h rm a b c s
  | .await h a b => Sys2Proof.Machine.execAwait h a b s
  | .sread h ac d a => Sys2Proof.Machine.execSread h ac d a s
  | .swrite h d b => Sys2Proof.Machine.execSwrite h d b s
  | .acqGrant core slice lid => Sys2Proof.Machine.execAcqGrant core slice lid s
  | .acqDenial core slice lid => Sys2Proof.Machine.execAcqDenial core slice lid s
  | .joinRelease gid band => Sys2Proof.Machine.execJoinRelease gid band s
  | .collectiveExecute gid band => Sys2Proof.Machine.execCollectiveExecute gid band s
  | .napExpiry gid band lane => Sys2Proof.Machine.execNapExpiry gid band lane s
  | .loadReturn id late ecc => Sys2Proof.Machine.execLoadReturn id late ecc s
  | .atomicReturn id => Sys2Proof.Machine.execAtomicReturn id s
  | .remoteWriteApply wid die => Sys2Proof.Machine.execRemoteWriteApply wid die s
  | .fenceComplete gid band lane => Sys2Proof.Machine.execFenceComplete gid band lane s
  | .pageMigration ctx sel page die => Sys2Proof.Machine.execPageMigration ctx sel page die s
  | .patrolScrub die kind bad => Sys2Proof.Machine.execPatrolScrub die kind bad s
  | .demandPageService ctx sel page grant => Sys2Proof.Machine.execDemandPageService ctx sel page grant s
  | .privateGrowthService gid band grant => Sys2Proof.Machine.execPrivateGrowthService gid band grant s
  | .twinWaitResolve gid band => Sys2Proof.Machine.execTwinWaitResolve gid band s
  | .copyLanding id how => Sys2Proof.Machine.execCopyLanding id how s
  | .copyFault id piece => Sys2Proof.Machine.execCopyFault id piece s
  | .mmaStep core how => Sys2Proof.Machine.execMmaStep core how s
  | .mchbApply core cmd => Sys2Proof.Machine.execMchbApply core cmd s
  | .mcheApply core cmd => Sys2Proof.Machine.execMcheApply core cmd s
  | .acczApply core cmd => Sys2Proof.Machine.execAcczApply core cmd s
  | .accscApply core how => Sys2Proof.Machine.execAccscApply core how s
  | .acccvtApply core cmd => Sys2Proof.Machine.execAcccvtApply core cmd s
  | .staApply core cmd => Sys2Proof.Machine.execStaApply core cmd s
  | .guideApply core cmd => Sys2Proof.Machine.execGuideApply core cmd s
  | .mbxtakeWake gid band => Sys2Proof.Machine.execMbxtakeWake gid band s
  | .mbxpostWake gid band => Sys2Proof.Machine.execMbxpostWake gid band s
  | .nodeCountdownExpiry part gather pol => Sys2Proof.Machine.execNodeCountdownExpiry part gather pol s
  | .childAdmit part pol => Sys2Proof.Machine.execChildAdmit part pol s
  | .spillRefill ctx part => Sys2Proof.Machine.execSpillRefill ctx part s
  | .forkResume gid core cls => Sys2Proof.Machine.execForkResume gid core cls s
  | .inlineChildEnd gid => Sys2Proof.Machine.execInlineChildEnd gid s
  | .phaseReseat core => Sys2Proof.Machine.execPhaseReseat core s
  | .roleqWake gid band => Sys2Proof.Machine.execRoleqWake gid band s
  | .pennantPass ctx graph => Sys2Proof.Machine.execPennantPass ctx graph s
  | .nameResolution ctx sel slot => Sys2Proof.Machine.execNameResolution ctx sel slot s
  | .sealRelease gid band lane => Sys2Proof.Machine.execSealRelease gid band lane s
  | .waitbRelease gid band lane => Sys2Proof.Machine.execWaitbRelease gid band lane s
  | .barRelease gid => Sys2Proof.Machine.execBarRelease gid s
  | .cbarRelease cid => Sys2Proof.Machine.execCbarRelease cid s
  | .arriveApply id => Sys2Proof.Machine.execArriveApply id s
  | .awaitRelease gid band => Sys2Proof.Machine.execAwaitRelease gid band s
  | .bandSelect picks => Sys2Proof.Machine.execBandSelect picks s
  | .admissionCommit part => Sys2Proof.Machine.execAdmissionCommit part s
  | .seating core => Sys2Proof.Machine.execSeating core s
  | .groupRestore core => Sys2Proof.Machine.execGroupRestore core s
  | .groupPreempt gid => Sys2Proof.Machine.execGroupPreempt gid s
  | .partitionSave part slot => Sys2Proof.Machine.execPartitionSave part slot s
  | .partitionRestore part slot => Sys2Proof.Machine.execPartitionRestore part slot s
  | .partitionExchange part slot => Sys2Proof.Machine.execPartitionExchange part slot s
  | .haltLineArrival ctx core => Sys2Proof.Machine.execHaltLineArrival ctx core s
  | .haltSettled ctx => Sys2Proof.Machine.execHaltSettled ctx s
  | .unbindComplete ctx sel slot => Sys2Proof.Machine.execUnbindComplete ctx sel slot s
  | .moveComplete gid => Sys2Proof.Machine.execMoveComplete gid s
  | .scrubComplete => Sys2Proof.Machine.execScrubComplete s
  | .serviceWindowAccess addr size wr => Sys2Proof.Machine.execServiceWindowAccess addr size wr s
  | .mailboxSubmit ctx mbx store => Sys2Proof.Machine.execMailboxSubmit ctx mbx store s
  | .recordAccept ctx mbx => Sys2Proof.Machine.execRecordAccept ctx mbx s
  | .launchRecord ctx mbx pol => Sys2Proof.Machine.execLaunchRecord ctx mbx pol s
  | .ctxCreate r image => Sys2Proof.Machine.execCtxCreate r image s
  | .ctxDestroy r => Sys2Proof.Machine.execCtxDestroy r s
  | .segCreate r desc => Sys2Proof.Machine.execSegCreate r desc s
  | .segFree r sel => Sys2Proof.Machine.execSegFree r sel s
  | .codeInstall r image => Sys2Proof.Machine.execCodeInstall r image s
  | .codeRemove r sel => Sys2Proof.Machine.execCodeRemove r sel s
  | .mailboxSet r mbx desc => Sys2Proof.Machine.execMailboxSet r mbx desc s
  | .unbind r args => Sys2Proof.Machine.execUnbind r args s
  | .stop r => Sys2Proof.Machine.execStop r s
  | .resumeCtx r => Sys2Proof.Machine.execResumeCtx r s
  | .teardown r => Sys2Proof.Machine.execTeardown r s
  | .readHalt r addr => Sys2Proof.Machine.execReadHalt r addr s
  | .reply r seq value => Sys2Proof.Machine.execReply r seq value s
  | .eventRing r ring produced k => Sys2Proof.Machine.execEventRing r ring produced k s
  | .eventRingConsumed port index => Sys2Proof.Machine.execEventRingConsumed port index s
  | .leaseRenew r n => Sys2Proof.Machine.execLeaseRenew r n s
  | .leaseTake r n => Sys2Proof.Machine.execLeaseTake r n s
  | .leaseCountdown => Sys2Proof.Machine.execLeaseCountdown s
  | .setMode r mode => Sys2Proof.Machine.execSetMode r mode s
  | .powerCap r watts => Sys2Proof.Machine.execPowerCap r watts s
  | .sealKey r slot sel key tags => Sys2Proof.Machine.execSealKey r slot sel key tags s
  | .aperture r sel => Sys2Proof.Machine.execAperture r sel s
  | .bind r args => Sys2Proof.Machine.execBind r args s
  | .bar2Access port off n op ide => Sys2Proof.Machine.execBar2Access port off n op ide s
  | .bar0WriteOther port op => Sys2Proof.Machine.execBar0WriteOther port op s
  | .peerTimeout id => Sys2Proof.Machine.execPeerTimeout id s
  | .fabricPortFail port => Sys2Proof.Machine.execFabricPortFail port s
  | .lockstepMismatch die => Sys2Proof.Machine.execLockstepMismatch die s
  | .heartbeat => Sys2Proof.Machine.execHeartbeat s
  | .ensignTakeover => Sys2Proof.Machine.execEnsignTakeover s
  | .coldBoot boot => Sys2Proof.Machine.execColdBoot boot s
  | .warmReset pass => Sys2Proof.Machine.execWarmReset pass s
  | .dieReset die => Sys2Proof.Machine.execDieReset die s
  | .levelRaise => Sys2Proof.Machine.execLevelRaise s
  | .spdmRequest port m => Sys2Proof.Machine.execSpdmRequest port m s
  | .tdiConfigChange port => Sys2Proof.Machine.execTdiConfigChange port s
  | .pageSeal ctx sel page => Sys2Proof.Machine.execPageSeal ctx sel page s
  | .powerThrottle watts hot => Sys2Proof.Machine.execPowerThrottle watts hot s
  | .powerRestore watts => Sys2Proof.Machine.execPowerRestore watts s
  | .peerRequest p => Sys2Proof.Machine.execPeerRequest p s
  | .peerGrant ctx dev peerCtx outgoing => Sys2Proof.Machine.execPeerGrant ctx dev peerCtx outgoing s
  | .tdispRequest port m => Sys2Proof.Machine.execTdispRequest port m s
  | .fabricPortRetrained port => Sys2Proof.Machine.execFabricPortRetrained port s

end Sys2Proof.Machine
end

