-- ==== Sys2Proof/Machine/Step.lean ====
section
/-! DEFINITION. One step of the device (log entry 1): the split that was chosen to issue, or else the next event of the schedule, or else
what the machine does of itself. -/

namespace Sys2Proof.Machine

/-- What one step does once the choice is made: nothing more, or an instruction or event in the state it runs in. -/
def State.perform (q : State × Option Instr) : Host.Outcome State Fault Refusal :=
  match q.2 with
  | some i => exec i q.1
  | none => .next q.1

/-- One step. A split of the issue queue issues: its header is checked, its word fetched and decoded, and its instruction runs (R27, R67,
R74). With the issue queue empty, the event at the head of the schedule takes place, a request behind a waiting CTX_CREATE apart (R344); with
no schedule either, one that the state calls for. -/
def step (s : State) : Host.Outcome State Fault Refusal :=
  match s.issueQ with
  | c :: rest => State.perform (({ s with issueQ := rest } : State).issue c)
  | [] =>
    match s.schedule with
    | e :: rest => State.perform (({ s with schedule := rest } : State).take e)
    | [] => State.perform s.idle

/-- The state with an instruction's word placed as the machine's next: its packed bytes stand at the entry of a launch's code segment, and
the split of the launch's one band is about to issue (log entry 19). -/
def State.withFetchWord (s : State) (nbits w : Nat) : State :=
  s.placed (pack (BitVec.ofNat 96 (w % 2 ^ nbits))) [1#8]

end Sys2Proof.Machine
end

