-- ==== Sys2Proof/Safety.lean ====
section
/-! DEFINITION. What counts as a safe step and a safe run, and the words in which the statements speak of an instruction: the split that
issues, what a result does to the registers of a thread or a band, and what is left as it was. -/

namespace Sys2Proof.Safety

open Sys2Proof.Machine

/-- A state whose memory is in the canonical form. -/
abbrev Canonical (s : State) : Prop := Memory.wf s.mem = true
/-- A step that goes on: neither a fault nor a refusal. -/
def StepSafe (s : State) : Prop := ∃ t, step s = .next t
/-- A run of n steps that goes on at each of them. -/
def RunSafe (n : Nat) (s : State) : Prop := ∃ t, Host.Core.run Sys2Proof.core n s = .next t

/-! ### The split that issues -/

/-- The split c, of band b of group g, issues in s (R27). -/
structure Issuing (s : State) (c : Slot) (g : Group) (b : Band) : Prop where
  cur : s.cur = some c
  group : s.group? c.gid = some g
  band : s.band? c.gid c.band = some b

/-- The V registers of some operands, each with the registers it spans, lie in the band's allotment (R106). -/
def InAllotment (g : Group) (b : Band) (uses : List (Opd × Nat)) : Prop :=
  ∀ u ∈ uses, fits (allotment g b) u.1 u.2 = true

/-- The issuing split is the whole live band (R173), and the guard of its instruction is true (R58). -/
structure Whole (h : Hdr) (c : Slot) (b : Band) : Prop where
  all : c.active = b.live
  guard : bandGuard h b = true

/-! ### What is left as it was -/

/-- t is s with one band replaced: the rest of its group, every other group, and all that lies outside the groups are as they were, so
every byte of every memory reads as before, device memory in the view of every die. -/
structure OnlyBand (s t : State) (gid band : Nat) (b' : Band) : Prop where
  rest : t = { s with groups := t.groups }
  others : ∀ k, k ≠ gid → t.group? k = s.group? k
  group : t.group? gid = (s.group? gid).map fun g => { g with bands := g.bands.set band b' }
  views : ∀ die k, t.viewByte die k = s.viewByte die k
  bytes : ∀ k, memGet t.mem k = memGet s.mem k

/-- b' is b with only threads of a mask changed, each as rel says of its lane, the thread before and the thread after. -/
structure Lanes (b b' : Band) (m : Word) (rel : Nat → Thread → Thread → Prop) : Prop where
  rest : b' = { b with threads := b'.threads }
  count : b'.threads.length = b.threads.length
  idle : ∀ i, m.getLsbD i = false → b'.threads[i]? = b.threads[i]?
  lanes : ∀ i t t', m.getLsbD i = true → b.threads[i]? = some t → b'.threads[i]? = some t' → rel i t t'

/-- A thread that has only gone on to a PC. -/
def WentOn (to_ : PC) (t t' : Thread) : Prop := t' = { t with pc := to_, wait := .none, pcChanged := false }

/-- A thread that waits at its instruction, to go on to a PC. -/
def Waits (w : Wait) (next : PC) (t t' : Thread) : Prop := t' = { t with wait := w, next := next }

/-- An instruction of the issuing split that changes nothing but threads of the split's own lanes, each as rel says. -/
def SplitResult (s : State) (c : Slot) (b : Band) (i : Instr) (rel : Nat → Thread → Thread → Prop) : Prop :=
  ∃ t b', exec i s = .next t ∧ OnlyBand s t c.gid c.band b' ∧ Lanes b b' c.active rel

/-- A lane-guarded instruction (R58): a lane of the split whose guard is true takes the result and goes on, one whose guard is false only
goes on, and nothing else changes. -/
def LaneResult (s : State) (c : Slot) (g : Group) (b : Band) (h : Hdr) (i : Instr) (res : Env → Thread → Prop) : Prop :=
  SplitResult s c b i fun l th th' =>
    if laneGuard h th then res ⟨s, c, g, b, th, l⟩ th' ∧ th'.pc = c.next ∧ th'.wait = .none ∧ th'.pcChanged = false else WentOn c.next th th'

/-- A band-scalar instruction (R58, R132): once for the split when its guard is true; every lane goes on, and nothing else changes. -/
def BandResult (s : State) (c : Slot) (g : Group) (b : Band) (h : Hdr) (i : Instr) (res : Env → Band → Prop) : Prop :=
  ∃ t b1 b', exec i s = .next t ∧ OnlyBand s t c.gid c.band b' ∧
    (if bandGuard h b then res (bandEnv s c g b) b1 else b1 = b) ∧ Lanes b1 b' c.active fun _ => WentOn c.next

/-! ### Results in registers (R103, R105, R140) -/

/-- Whether an operand is V register k. -/
def isV (d : Opd) (k : Nat) : Bool :=
  match d with
  | .v i => i.toNat == k
  | _ => false
/-- Whether an operand is O register k. -/
def isO (d : Opd) (k : Nat) : Bool :=
  match d with
  | .o i => i.toNat == k
  | _ => false
/-- Whether an operand is the V pair whose upper register is k. -/
def isVHigh (d : Opd) (k : Nat) : Bool :=
  match d with
  | .v i => i.toNat + 1 == k
  | _ => false
/-- Whether an operand is B register k. -/
def isB (d : Opd) (k : Nat) : Bool :=
  match d with
  | .b i => i.toNat == k
  | _ => false
/-- Whether an operand is predicate k, and not P7 or Q7, which discard a write (R55). -/
def isPred (d : Opd) (k : BitVec 3) : Bool :=
  k != 7#3 && (d == .p k || d == .q k)

/-- A thread in which only V, O, the last-result queue, the flags, and where it stands may have changed. -/
def ResultRest (t t' : Thread) : Prop :=
  t' = { t with v := t'.v, o := t'.o, lq := t'.lq, fflags := t'.fflags, pc := t'.pc, wait := t'.wait, pcChanged := t'.pcChanged }

/-- A 32-bit result x with flags f: its destination reads x, every other V and O register reads as before, x is pushed once, and the
flags are raised. -/
structure Result32 (d : Opd) (x f : Word) (t t' : Thread) : Prop where
  v : ∀ k, t'.getV k = if isV d k then x else t.getV k
  o : ∀ k, t'.getO k = if isO d k then x else t.getO k
  queue : t'.lq = ⟨⟨x, none, false⟩, t.lq.l0, t.lq.l1, t.lq.l2⟩
  flags : t'.fflags = t.fflags ||| f
  rest : ResultRest t t'

/-- A 64-bit result x with flags f: the pair reads x, the low word in its even register; every other register reads as before; the low
word and then the high word are pushed. -/
structure Result64 (d : Opd) (x : W64) (f : Word) (t t' : Thread) : Prop where
  v : ∀ k, t'.getV k = if isVHigh d k then x.extractLsb' 32 32 else if isV d k then x.extractLsb' 0 32 else t.getV k
  o : ∀ k, t'.getO k = t.getO k
  queue : t'.lq = ⟨⟨x.extractLsb' 32 32, none, false⟩, ⟨x.extractLsb' 0 32, none, false⟩, t.lq.l0, t.lq.l1⟩
  flags : t'.fflags = t.fflags ||| f
  rest : ResultRest t t'

/-- A result of the width of a type. -/
def Result (wide : Bool) (d : Opd) (x : W64) (f : Word) (t t' : Thread) : Prop :=
  if wide then Result64 d x f t t' else Result32 d (x.extractLsb' 0 32) f t t'

/-- A predicate result x with flags f: the predicate reads x, unless it is P7, every other predicate reads as before, and x is pushed as
0 or 1. -/
structure ResultP (d : Opd) (x : Bool) (f : Word) (t t' : Thread) : Prop where
  p : ∀ k, t'.getP k = if isPred d k then x else t.getP k
  queue : t'.lq = ⟨⟨if x then 1 else 0, none, false⟩, t.lq.l0, t.lq.l1, t.lq.l2⟩
  flags : t'.fflags = t.fflags ||| f
  rest : t' = { t with p := t'.p, lq := t'.lq, fflags := t'.fflags, pc := t'.pc, wait := t'.wait, pcChanged := t'.pcChanged }

/-- A band result x: its B register reads x, every other B register as before, nothing else of the band changes, and nothing is
pushed. -/
structure ResultB (d : Opd) (x : Word) (b b' : Band) : Prop where
  regs : ∀ k, b'.getB k = if isB d k then x else b.getB k
  rest : b' = { b with b := b'.b }

/-- A band predicate result x: its Q register reads x, unless it is Q7, and every other as before. -/
structure ResultQ (d : Opd) (x : Bool) (b b' : Band) : Prop where
  q : ∀ k, b'.getQ k = if isPred d k then x else b.getQ k
  rest : b' = { b with q := b'.q }

/-- A lane-guarded instruction of 32 or 64 bits, by its type, that writes f32 or f64 of its operands and raises no flag. -/
def WordResult (s : State) (c : Slot) (g : Group) (b : Band) (h : Hdr) (ty : Ty) (d : Opd) (i : Instr) (f32 : Env → Word)
    (f64 : Env → W64) : Prop :=
  LaneResult s c g b h i fun e t' => if ty.is64 then Result64 d (f64 e) 0 e.t t' else Result32 d (f32 e) 0 e.t t'

/-! ### Numbers -/

/-- The integer types of the vector instructions (R115). -/
def IntType (ty : Ty) : Prop := ty ∈ [.i4, .i8, .i16, .i32, .i64, .n4, .n8, .n16, .n32, .n64]

/-- An exact result as a type holds it (R122): clamped to the type's range where the instruction saturates, otherwise the one value of the
range that it is congruent to. -/
structure Narrowed (signed sat : Bool) (w : Nat) (x r : Int) : Prop where
  low : (if signed then -(2 ^ (w - 1) : Int) else 0) ≤ r
  high : r ≤ (if signed then 2 ^ (w - 1) - 1 else 2 ^ w - 1)
  exact : (if signed then -(2 ^ (w - 1) : Int) else 0) ≤ x → x ≤ (if signed then 2 ^ (w - 1) - 1 else 2 ^ w - 1) → r = x
  wraps : sat = false → (2 ^ w : Int) ∣ x - r
  below : sat = true → x < (if signed then -(2 ^ (w - 1) : Int) else 0) → r = if signed then -(2 ^ (w - 1) : Int) else 0
  above : sat = true → (if signed then 2 ^ (w - 1) - 1 else 2 ^ w - 1) < x → r = if signed then 2 ^ (w - 1) - 1 else 2 ^ w - 1

/-- A result x of an integer operation whose elements come from the elements of up to three operands (R115, R122): each element is the
exact value f of theirs, narrowed to the type. -/
def Elementwise (ty : Ty) (sat : Bool) (f : Int → Int → Int → Int) (a b c : Nat) (x : W64) : Prop :=
  (∀ i < elemCount ty.bits, Narrowed (tySigned ty) sat ty.bits
    (f (readInt (tySigned ty) ty.bits (elemOf ty.bits i a)) (readInt (tySigned ty) ty.bits (elemOf ty.bits i b))
      (readInt (tySigned ty) ty.bits (elemOf ty.bits i c)))
    (readInt (tySigned ty) ty.bits (elemOf ty.bits i x.toNat))) ∧ x.toNat < 2 ^ max 32 ty.bits

/-- A lane-guarded integer instruction whose result is elementwise f of its operands (R122). -/
def IntResult (s : State) (c : Slot) (g : Group) (b : Band) (h : Hdr) (ty : Ty) (sat : Bool) (d x y z : Opd) (i : Instr)
    (f : Int → Int → Int → Int) : Prop :=
  LaneResult s c g b h i fun e t' =>
    ∃ r, Elementwise ty sat f (e.int ty x) (e.int ty y) (e.int ty z) r ∧ Result ty.is64 d r 0 e.t t'

/-- A bit field taken from x (R128): at a position, of a length clipped to the width, its bits above filled with zeros or with its own
highest; an empty one is 0. -/
def FieldTaken (signed : Bool) (w pos len : Nat) (x r : W64) : Prop :=
  ∀ i < w, r.getLsbD i =
    if w ≤ pos ∨ len = 0 then false
    else if i < min len (w - pos) then x.getLsbD (pos + i) else signed && x.getLsbD (pos + min len (w - pos) - 1)
/-- A bit field of x put into z (R128): the other bits are those of z. -/
def FieldPut (w pos len : Nat) (x z r : W64) : Prop :=
  ∀ i < w, r.getLsbD i = if pos ≤ i ∧ i < pos + len then x.getLsbD (i - pos) else z.getLsbD i

/-- A band-scalar integer instruction: f of its two operands, narrowed to 32 bits (R132). -/
def BandInt (s : State) (c : Slot) (g : Group) (b : Band) (h : Hdr) (signed sat : Bool) (d x y : Opd) (i : Instr) (f : Int → Int → Int) : Prop :=
  BandResult s c g b h i fun e b' => ∃ r : Word,
    Narrowed signed sat 32 (f (readInt signed 32 (e.read32 x).toNat) (readInt signed 32 (e.read32 y).toNat)) (readInt signed 32 r.toNat) ∧
      ResultB d r e.b b'

/-- A lane-guarded floating-point instruction: the code and flags r of its operands (R105, R140, R143). -/
def FloatResult (s : State) (c : Slot) (g : Group) (b : Band) (h : Hdr) (wide : Bool) (d : Opd) (i : Instr) (r : Env → Nat × Word) : Prop :=
  LaneResult s c g b h i fun e t' => Result wide d (BitVec.ofNat 64 (r e).1) (r e).2 e.t t'
/-- A lane-guarded instruction of two packed 16-bit elements: their codes side by side and the flags of both (R147). -/
def PackedResult (s : State) (c : Slot) (g : Group) (b : Band) (h : Hdr) (d : Opd) (i : Instr) (r : Env → Nat → Nat × Word) : Prop :=
  FloatResult s c g b h false d i fun e => ((r e 0).1 + (r e 1).1 * 65536, (r e 0).2 ||| (r e 1).2)
/-- The participants of a lane exchange (R155): the lanes of the split whose guard is true, lowest first. -/
def participants (s : State) (c : Slot) (g : Group) (b : Band) (h : Hdr) : List Env :=
  (lanesOf (guarded h c b)).filterMap fun i => (b.threads[i]?).map fun t => ⟨s, c, g, b, t, i⟩

/-! ### Flow and memory -/

/-- A taken branch of a thread from one PC to another (R30): its PC is the target; a backward one that repeats the thread's spin record
demotes it, and another backward one becomes the spin record. -/
structure Branched (at_ to_ : PC) (t t' : Thread) : Prop where
  rest : t' = { t with pc := to_, spin := t'.spin, demoted := t'.demoted }
  forward : at_.off.toNat < to_.off.toNat → t'.spin = t.spin ∧ t'.demoted = t.demoted
  again : to_.off.toNat ≤ at_.off.toNat → t.spin = some (at_, to_) → t'.spin = t.spin ∧ t'.demoted = true
  anew : to_.off.toNat ≤ at_.off.toNat → t.spin ≠ some (at_, to_) → t'.spin = some (at_, to_) ∧ t'.demoted = t.demoted
/-- The target of JMPI (R167): a register's value, or a signed short immediate. -/
def jumpTarget (e : Env) (a : Opd) : Int :=
  match a with
  | .imm k => k.toInt
  | o => ((e.read32 o).toNat : Int)
/-- Whether every access of a split is performed: none meets a row of R190. -/
def AllPerformed (as : List Access) : Prop := ∀ a ∈ as, a.res.row = 8
/-- The accesses of the guarded lanes of a split, lowest lane first. -/
def accessesOf (s : State) (c : Slot) (g : Group) (b : Band) (h : Hdr) (acc : Env → Access) : List Access :=
  (laneEnvs s c g b (guarded h c b)).map acc
/-- The state in which a load by a split has issued (R105, R194): each lane's access, lowest first, has sampled its value and waits to
return, an acquire has ordered what follows it (R303, R304), and every lane goes on. -/
def loadsIssued (s : State) (c : Slot) (g : Group) (ty : Ty) (acq : Option Scope) (d : Opd) (as : List Access) : State :=
  let s1 := as.foldl (fun s a => s.issueLoad c g.die ty d acq a) (s.cachePages g.core g.ctx c.gid c.band as)
  (match acq with
    | some sc => if as.isEmpty then s1 else s1.acquireRead c.gid c.band g.die sc (keysOf as)
    | none => s1).advanceSplit c
/-- No write of a group is still on its way to a die: an atomic's, performed at another one (R309). -/
def OwnShown (s : State) (gid die : Nat) : Prop := ∀ w ∈ s.writes, w.gid = gid → w.die = die ∨ w.applied.contains die = true
/-- Where a split is the second of its band's in a cycle, the first has written to none of some bytes (R194). -/
def NoClash (s : State) (c : Slot) (ks : List Key) : Prop :=
  c.second = true → (∀ w ∈ s.writes, w.gid = c.gid → w.band = c.band → s.cycleId ≤ w.id → ∀ k ∈ ks, w.byte? k = none) ∧
    ∀ p ∈ s.posted, p.gid = c.gid → p.band = c.band → s.cycleId ≤ p.id → p.hits ks = false
/-- A load whose accesses are all performed: it issues, and every lane goes on. A lane whose guard is true waits for one access to its
destination, its queue positions are taken, and, where no atomic of the group is still under way, no other thread's posted write to its bytes
is, and the first split of the cycle has written to none of the load's, the access holds the bytes as the thread reads them, at register
width; a lane whose guard is false only goes on. -/
def LoadForm (s : State) (c : Slot) (g : Group) (b : Band) (h : Hdr) (ty : Ty) (acq : Option Scope) (d : Opd) (i : Instr)
    (acc : Env → Access) : Prop :=
  AllPerformed (accessesOf s c g b h acc) →
    ∃ t : State, exec i s = .next t ∧ t = loadsIssued s c g ty acq d (accessesOf s c g b h acc) ∧
      ∀ (l : Nat) (th : Thread), c.active.getLsbD l = true → b.threads[l]? = some th →
        ∃ th' : Thread, t.thread? c.gid c.band l = some th' ∧
          if laneGuard h th then
            ∃ r ∈ t.loads, r.gid = c.gid ∧ r.band = c.band ∧ r.lane = l ∧ r.dst = d ∧ r.ty = ty ∧ r.atomic = false ∧
              th' = (th.pendOn d ty.is64 r.id).advance c.next ∧
              (OwnShown s c.gid g.die → NoClash s c (keysOf (accessesOf s c g b h acc)) → ∀ sp ks, (acc ⟨s, c, g, b, th, l⟩).res = .ok sp ks →
                (∀ p ∈ s.posted, p.hits ks = true → p.isOf c.gid c.band l = true) →
                r.val = extendTy ty (s.readNat g.die c.gid c.band l sp ks))
          else WentOn c.next th th'
/-- The guarded lanes' accesses of a store, each with its bytes. -/
def storesOf (s : State) (c : Slot) (g : Group) (b : Band) (h : Hdr) (acc : Env → Access) (bytes : Env → List Byte) :
    List (Access × List Byte) :=
  (laneEnvs s c g b (guarded h c b)).map fun e => (acc e, bytes e)
/-- The scope of a store. -/
def storeScope : Instr → Scope
  | .st _ _ sc _ _ _ _ _ _ | .stsp _ _ sc _ _ _ _ | .stsg _ _ sc _ _ _ _ => sc
  | _ => .bd
/-- A store whose accesses are all performed, whose lanes have room for their acknowledgements (R299), with no uncorrectable error in memory
(R194, R189): every lane goes on with its registers, and, unless it is a release, an atomic of the group is still on its way to its die, or
the first split of the cycle has written to some of its bytes, every thread reads every byte outside those stored to as before, and a lane
reads back at once the bytes it stored, at different places: to device memory, to a host, to a peer and to scratchpad, whatever other lanes
store; and elsewhere where memory is canonical and no other lane of the store names the bytes. -/
def StoreForm (s : State) (c : Slot) (g : Group) (b : Band) (h : Hdr) (rel : Bool) (i : Instr) (acc : Env → Access)
    (bytes : Env → List Byte) : Prop :=
  AllPerformed (accessesOf s c g b h acc) → s.storeRoom c (storesOf s c g b h acc bytes) = true → s.eccBad = [] →
    ∃ t, exec i s = .next t ∧ t = storeLanes s c g rel (storeScope i) (storesOf s c g b h acc bytes) ∧
      (∀ l th, c.active.getLsbD l = true → b.threads[l]? = some th → ∃ th', t.thread? c.gid c.band l = some th' ∧
        th'.pc = c.next ∧ th'.wait = .none ∧ th'.v = th.v ∧ th'.o = th.o ∧ th'.lq = th.lq ∧ th'.p = th.p ∧ th'.fflags = th.fflags) ∧
      (rel = false → OwnShown s c.gid g.die → NoClash s c (keysOf (accessesOf s c g b h acc)) →
        (∀ k, k ∉ keysOf (accessesOf s c g b h acc) →
          (∀ die, t.viewByte die k = s.viewByte die k) ∧ memGet t.mem k = memGet s.mem k ∧
          ∀ die gid band lane sp, t.readByte die gid band lane sp k = s.readByte die gid band lane sp k) ∧
        ∀ l th e sp ks, (guarded h c b).getLsbD l = true → b.threads[l]? = some th → e = ⟨s, c, g, b, th, l⟩ →
          (acc e).res = .ok sp ks → ks.Nodup → ks.length = (bytes e).length →
          (sp = .device ∨ sp = .scratch ∨ sp = .peer ∨ (∃ port, sp = .host port) ∨
            Canonical s ∧ ∀ u ∈ laneEnvs s c g b (guarded h c b), u.lane ≠ l → ∀ k ∈ keysOf [acc u], k ∉ ks) →
          ks.map (t.readByte g.die c.gid c.band l sp) = bytes e)

/-- The state in which a use of a BOUND entry by a split runs its own effect (R266 to R268): a link cache that does not hold the entry takes
it, and a CALLX asks the entry itself. -/
def linkUsed (s : State) (c : Slot) (g : Group) (e : Binding) (slot : BitVec 12) (call : Bool) : State :=
  if !call && (s.core g.core).links.any fun l => l.ctx == g.ctx && l.sel == c.pc.sel && l.slot == slot then s
  else s.modCore g.core fun k => { k with links := cacheLink k.links ⟨g.ctx, c.pc.sel, slot, e.gen, e.target, e.kind, e.rights⟩ }
/-- The state in which an atomic by a split is done (R195, R302, R304): with no guarded lane the split only goes on; otherwise earlier loads
keep what they have read, a release makes what precedes it visible, the lanes' read-modify-writes follow in order, a write among them counts
as a store of the group, and an acquire orders what follows. -/
def atomicsDone (s : State) (c : Slot) (g : Group) (ty : Ty) (ord : Ord) (sc : Scope) (d : Opd) (ls : List AtomicLane) : State :=
  if ls.isEmpty then s.advanceSplit c
  else
    let as := ls.map (·.acc)
    let s1 := (as.foldl (fun s a => s.freezeLoads c.gid c.band a.lane) (s.cachePages g.core g.ctx c.gid c.band as)).freezeSplit c g.die (keysOf as)
    let r := State.atomicAll c g.die ty d (if ordRel ord then some sc else none) ls
      (if ordRel ord then s1.release c.gid g.die sc (anyBeyond as) else s1) false
    let s2 := if r.2.2 then r.1.storeIssued c.gid else r.1
    (if (ordAcq ord sc).isSome then s2.acquire c.gid g.die else s2).advanceSplit c
/-- An atomic whose accesses are all performed, whose lanes have room for their acknowledgements (R299), with no uncorrectable error in memory
(R195): its read-modify-writes are done, and every lane goes on; a guarded lane waits for its old value. Where memory is canonical and no
write is under way, a guarded lane whose bytes no other lane names gets the bytes as they stood, at register width, and reads them from then
on, where they are at home, at the new value, if its instruction writes one; and every byte that no lane names reads as before, in the view of
every die. -/
def AtomicForm (s : State) (c : Slot) (g : Group) (b : Band) (h : Hdr) (ty : Ty) (ord : Ord) (sc : Scope) (d : Opd) (i : Instr)
    (acc : Env → Access) (f : Env → Nat → Option Nat) : Prop :=
  AllPerformed (accessesOf s c g b h acc) →
    s.atomicRoom c ((laneEnvs s c g b (guarded h c b)).map fun e => ⟨acc e, f e⟩) = true → s.eccBad = [] →
    ∃ t : State, exec i s = .next t ∧
      t = atomicsDone s c g ty ord sc d ((laneEnvs s c g b (guarded h c b)).map fun e => ⟨acc e, f e⟩) ∧
      (∀ (l : Nat) (th : Thread), c.active.getLsbD l = true → b.threads[l]? = some th →
        ∃ th' u : Thread, t.thread? c.gid c.band l = some th' ∧ (u = th ∨ u = { th with demoted := false, spin := none, nap := 0 }) ∧
          if laneGuard h th then
            ∃ r ∈ t.loads, r.gid = c.gid ∧ r.band = c.band ∧ r.lane = l ∧ r.dst = d ∧ r.ty = ty ∧ r.atomic = true ∧
              th' = (u.pendOn d ty.is64 r.id).advance c.next ∧
              ∀ (sp : Space) (ks : List Key) (old : Nat), Canonical s → s.writes = [] → s.posted = [] → (acc ⟨s, c, g, b, th, l⟩).res = .ok sp ks →
                ks.Nodup → old = s.readNat g.die c.gid c.band l sp ks →
                (∀ e ∈ laneEnvs s c g b (guarded h c b), e.lane ≠ l → ∀ k ∈ keysOf [acc e], k ∉ ks) →
                r.val = extendTy ty old ∧
                  natOfBytes (ks.map (t.readByte (s.homeOfKey (ks.headD 0)) c.gid c.band l sp)) =
                    ((f ⟨s, c, g, b, th, l⟩ old).getD old) % 2 ^ (8 * ks.length)
          else WentOn c.next u th') ∧
      (s.writes = [] → s.posted = [] → ∀ k, k ∉ keysOf (accessesOf s c g b h acc) →
        (∀ die, t.viewByte die k = s.viewByte die k) ∧ memGet t.mem k = memGet s.mem k)

/-- Every write under way is to device memory, and no posted one is to private memory, as the steps keep it. -/
def DeviceWrites (s : State) : Prop :=
  (∀ w ∈ s.writes, ∀ p ∈ w.bytes, p.1 % 8 = 0) ∧ ∀ w ∈ s.posted, ∀ p ∈ w.bytes, p.1 % 8 ≠ 2
/-- The state in which a release fence of a group on a die has made visible, or passed on, what precedes it (R303, R307). -/
def fenceOrdered (s : State) (gid die : Nat) (sc : Scope) : State := if wideScope sc then s.passOn gid die sc else s.expose gid sc
/-- The state in which a fence by the guarded lanes of a split has ordered what precedes it and what follows (R204, R303, R307): a release
passes on what its scope takes and is noted by its threads, and an acquire makes acquires of the loads before it and orders what follows. -/
def fenced (s : State) (c : Slot) (g : Group) (m : Word) (sc : Scope) (fk : FenceKind) : State :=
  let s1 := if fk ≠ .acq ∧ m ≠ 0 then (fenceOrdered s c.gid g.die sc).noteFence c.gid c.band m sc else s
  if fk ≠ .rel ∧ m ≠ 0 then (s1.fenceLoads c.gid c.band m sc).acquire c.gid g.die else s1
/-- A private-memory access of PUSH or POP: a run of bytes at a byte offset, aligned to 4 (R202). -/
def stackAccess (e : Env) (off : Int) (n : Nat) (nd : Need) : Access :=
  ⟨e.lane, handleOf 0xFFFC off, (if off < 0 then Res.halt 3 rLimit else e.s.resolve e.c.gid e.c.band e.lane 0xFFFC off n nd).orIllegal (off % 4 != 0)⟩
/-- The result x of a load or an atomic arrives (R105): each word goes to its register, and to its position in the last-result queue, where
that still waits for it; nothing waits for it any longer, and every other register and position is as it was. -/
structure Arrived (d : Opd) (wide : Bool) (id : Nat) (x : W64) (t t' : Thread) : Prop where
  v : ∀ k, t'.getV k = if tabGet t.pend k = some id ∧ isV d k then x.extractLsb' 0 32
    else if tabGet t.pend k = some id ∧ wide ∧ isVHigh d k then x.extractLsb' 32 32 else t.getV k
  o : ∀ k, t'.getO k = if tabGet t.pend (256 + k) = some id ∧ isO d k then x.extractLsb' 0 32 else t.getO k
  queue : ∀ p ∈ [(t.lq.l0, t'.lq.l0), (t.lq.l1, t'.lq.l1), (t.lq.l2, t'.lq.l2), (t.lq.l3, t'.lq.l3)], p.2 =
    if p.1.pend = some (2 * id) then ⟨x.extractLsb' 0 32, none, false⟩
    else if p.1.pend = some (2 * id + 1) then ⟨x.extractLsb' 32 32, none, false⟩ else p.1
  pend : ∀ k, tabGet t'.pend k ≠ some id ∧ (tabGet t.pend k ≠ some id → tabGet t'.pend k = tabGet t.pend k)
  rest : t' = { t with v := t'.v, o := t'.o, lq := t'.lq, pend := t'.pend }
/-- An access completes: its result arrives at its thread, its record is gone, and no other thread changes, nor any byte, but that the answer
of a peer also shows what it answers to have been performed there. -/
def Completes (s : State) (r : LoadRec) (i : Instr) : Prop :=
  ∀ th, s.thread? r.gid r.band r.lane = some th →
    ∃ t th', exec i s = .next t ∧ t.thread? r.gid r.band r.lane = some th' ∧ Arrived r.dst r.ty.is64 r.id r.val th th' ∧
      (∀ gid band lane, (gid, band, lane) ≠ (r.gid, r.band, r.lane) → t.thread? gid band lane = s.thread? gid band lane) ∧
      t = { s.performed r with groups := t.groups, loads := t.loads } ∧ (r.peer = false → s.performed r = s) ∧ ∀ q ∈ t.loads, q.id ≠ r.id
/-- The registers a lane keeps while it goes on. -/
structure Kept (next : PC) (th th' : Thread) : Prop where
  pc : th'.pc = next
  wait : th'.wait = .none
  v : th'.v = th.v
  o : th'.o = th.o
  lq : th'.lq = th.lq
  p : th'.p = th.p
  fflags : th'.fflags = th.fflags

/-! ### Engines -/

/-- What a command of a split leaves of the threads: the lanes of the split go on with their registers, each of a mask with one more
operation in its open batch; the band keeps its B and Q registers, and every other band its threads. -/
structure CommandLanes (s t : State) (c : Slot) (b : Band) (m : Word) : Prop where
  band : ∃ b' : Band, t.band? c.gid c.band = some b' ∧ b'.b = b.b ∧ b'.q = b.q
  lanes : ∀ (l : Nat) (th : Thread), c.active.getLsbD l = true → b.threads[l]? = some th → ∃ th' : Thread,
    t.thread? c.gid c.band l = some th' ∧ Kept c.next th th' ∧ th'.openOps = if m.getLsbD l then th.openOps + 1 else th.openOps
  others : ∀ gid band l, (gid, band) ≠ (c.gid, c.band) → t.thread? gid band l = s.thread? gid band l
/-- A matrix command of the whole band (R209, R210), where the queue and the batches have room: it joins the end of the core's command
queue, the band goes on, and, with no write on its way, no byte of memory changes. -/
def EngineForm (s : State) (c : Slot) (g : Group) (b : Band) (i : Instr) (k : MKind) : Prop :=
  s.engineRoom g.core 1 (bandJoins c.gid c.band b) = true →
    ∃ (t : State) (cmd : MCmd), exec i s = .next t ∧ (t.core g.core).mq = (s.core g.core).mq ++ [cmd] ∧ cmd.kind = k ∧
      cmd.gid = c.gid ∧ cmd.band = c.band ∧ cmd.pc = c.pc ∧ cmd.joins = bandJoins c.gid c.band b ∧ CommandLanes s t c b b.live ∧
      (s.writes = [] → s.posted = [] → t.mem = s.mem ∧ t.writes = [] ∧ t.posted = [])
/-- A matrix command that may start is applied (R210): it leaves the queue, its tile becomes what f makes of it, and every other tile of
the core is as it was. -/
def CommandApplied (s : State) (core id tile : Nat) (i : Instr) (f : Tile → Tile → Prop) : Prop :=
  ∃ t, exec i s = .next t ∧ f ((s.core core).tile tile) ((t.core core).tile tile) ∧
    (∀ j, j ≠ tile → (t.core core).tile j = (s.core core).tile j) ∧ (∀ q ∈ (t.core core).mq, q.id ≠ id) ∧ t.mem = s.mem
/-- An accumulator element as a number. -/
def tileElem (x : Tile) (k : Nat) : FV := Fmt.fp32.read (tabGetD x.acc k 0).toNat
/-- A number rounded to FP32, as its word. -/
def toFp32 (v : FV) : Word := BitVec.ofNat 32 (Fmt.fp32.result .rn false v).1
/-- A copy that starts (R209, R218), where its engine and the batches have room: it is in flight with its pieces, the split goes on, the
lanes that issue it have one more operation in their open batch, and, with no write on its way, no byte of memory changes. -/
def CopyStarts (s : State) (c : Slot) (g : Group) (b : Band) (m : Word) (i : Instr) (as : List Access) (tiled : Bool)
    (pieces : List Piece) (arrv : Option (Nat × List Nat)) (follow : Option MKind) : Prop :=
  AllPerformed as → pieces ≠ [] → s.copyRoom g.core tiled pieces = true → s.joinRoom (joinsOf c.gid c.band b m) = true →
    ∃ (t : State) (cp : Copy), exec i s = .next t ∧ t.copies = s.copies ++ [cp] ∧ cp.gid = c.gid ∧ cp.band = c.band ∧ cp.core = g.core ∧
      cp.tiled = tiled ∧ cp.pieces = pieces ∧ cp.arrv = arrv ∧ cp.follow = follow ∧ cp.joins = joinsOf c.gid c.band b m ∧
      cp.landed = false ∧ cp.away = false ∧ CommandLanes s t c b m ∧
      (s.writes = [] → s.posted = [] → t.mem = s.mem ∧ t.writes = [] ∧ t.posted = [])

/-! ### Requests -/

/-- A request that is served: the device answers requests and no scrub is under way, its reserved field is zero, and the party's port is
not in ERROR (R345, R356, R358, R362). -/
def Served (s : State) (r : Req) : Prop :=
  s.level ≠ 0 ∧ s.shut = false ∧ r.rsv = 0 ∧ ∀ p, partyPort r.party = some p → (s.port p).tdi ≠ Tdi.error
/-- What a request leaves: a state of which it holds and to which the response with its status was added last. -/
def Answered (s : State) (r : Req) (status : Nat) (i : Instr) (holds : State → Prop) : Prop :=
  ∃ t v, exec i s = .next t ∧ t.resps.getLast? = some ⟨r.party, r.tag, status, v⟩ ∧ holds t
/-- A band instruction that goes on and writes one pair of B registers. -/
def WritesPair (t : State) (c : Slot) (b : Band) (d : Opd) (x : W64) : Prop :=
  ∃ b' : Band, t.band? c.gid c.band = some b' ∧
    (∀ k, b'.getB k = if k = pairB d then x.extractLsb' 0 32 else if k = pairB d + 1 then x.extractLsb' 32 32 else b.getB k) ∧
    b'.q = b.q ∧ ∀ (l : Nat) (th : Thread), c.active.getLsbD l = true → b.threads[l]? = some th → ∃ th' : Thread,
      b'.threads[l]? = some th' ∧ Kept c.next th th'
/-- A band instruction that goes on with its B registers as they were. -/
def WritesNoB (t : State) (c : Slot) (b : Band) : Prop :=
  ∃ b' : Band, t.band? c.gid c.band = some b' ∧ b'.b = b.b ∧
    ∀ (l : Nat) (th : Thread), c.active.getLsbD l = true → b.threads[l]? = some th → ∃ th' : Thread,
      b'.threads[l]? = some th' ∧ Kept c.next th th'

/-- RES or TAKE of a stage queue (R252): the count it takes its ticket from rises by one; where the ticket's slot is in the state it asks for,
the pair gets the slot's window offset and the ticket, and otherwise the lanes wait for the slot. -/
def TicketForm (s : State) (c : Slot) (b : Band) (i : Instr) (q : StageQ) (take_ : Bool) (q0 : Nat) (d : Opd) : Prop :=
  ∀ k : Word, k = BitVec.ofNat 32 (s.scratchWord q.gid (q.off + if take_ then 4 else 0)) →
    (s.slotState q k = (if take_ then k + 1 else k) → ∃ t : State, exec i s = .next t ∧ WritesPair t c b d (q.result k) ∧
      BitVec.ofNat 32 (t.scratchWord q.gid (q.off + if take_ then 4 else 0)) = k + 1) ∧
    (s.slotState q k ≠ (if take_ then k + 1 else k) → ∃ t : State, exec i s = .next t ∧
      BitVec.ofNat 32 (t.scratchWord q.gid (q.off + if take_ then 4 else 0)) = k + 1 ∧
      ∀ (l : Nat) (th : Thread), c.active.getLsbD l = true → b.threads[l]? = some th → ∃ th' : Thread,
        t.thread? c.gid c.band l = some th' ∧ th'.wait = .queue (.roleq q0 k take_ (BitVec.ofNat 6 (pairB d))) ∧ th'.next = c.next)

end Sys2Proof.Safety
end

