-- ==== Sys2Proof/Certificates/Slice0/Obligations.lean ====
section
/-! DEFINITION. The statements for the provers. -/

open Sys2Proof Sys2Proof.Machine Sys2Proof.Safety

/-! ### Moves, predicates, integers, logic, handles (R115 to R130) -/

/-- NOP leaves every register; MOV, long MOV and SEL write and push the operand they choose. -/
def Obligations.RegisterMoves : Prop :=
  ∀ (s : State) (c : Slot) (g : Group) (b : Band) (h : Hdr) (ty : Ty) (d x y z : Opd) (imm : Word), Issuing s c g b →
    InAllotment g b [(d, width ty.is64), (x, width ty.is64), (y, width ty.is64)] → InAllotment g b [(d, 1)] →
    LaneResult s c g b h (.nop h) (fun e t' => WentOn c.next e.t t') ∧
    LaneResult s c g b h (.mov h ty d y) (fun e t' => Result ty.is64 d (e.read ty.is64 y) 0 e.t t') ∧
    LaneResult s c g b h (.movLong h d imm) (fun e t' => Result32 d imm 0 e.t t') ∧
    LaneResult s c g b h (.sel h ty d x y z) (fun e t' =>
      (e.pred z = true → Result ty.is64 d (e.read ty.is64 x) 0 e.t t') ∧ (e.pred z = false → Result ty.is64 d (e.read ty.is64 y) 0 e.t t'))

/-- PLOG, ICMP and HCMP write their predicate, unless it is P7, and push it as 0 or 1; nothing else changes. -/
def Obligations.PredicateResults : Prop :=
  ∀ (s : State) (c : Slot) (g : Group) (b : Band) (h : Hdr) (ty t : Ty) (op : Opl) (cc : Cc) (p : BitVec 3) (x y : Opd), Issuing s c g b →
    t = ty.or .i32 → InAllotment g b [(x, width t.is64), (y, width t.is64)] →
    LaneResult s c g b h (.plog h op (.p p) x y) (fun e t' => ResultP (.p p) (oplEval op (e.pred x) (e.pred y)) 0 e.t t') ∧
    LaneResult s c g b h (.icmp h ty cc (.p p) x y) (fun e t' => ResultP (.p p)
      (ccHolds cc (readInt (tySigned t) t.bits (e.int t x)) (readInt (tySigned t) t.bits (e.int t y))) 0 e.t t') ∧
    (InAllotment g b [(x, 2), (y, 2)] →
      LaneResult s c g b h (.hcmp h cc (.p p) x y) (fun e t' => ResultP (.p p) (ccHandles cc (e.read true x) (e.read true y)) 0 e.t t'))

/-- The integer instructions compute each element exactly and wrap it, or clamp it under saturation: IDIV by zero gives -1 or the greatest
unsigned number, and IREM by zero its dividend. -/
def Obligations.IntegerResults : Prop :=
  ∀ (s : State) (c : Slot) (g : Group) (b : Band) (h : Hdr) (ty t : Ty) (sat : Bool) (d x y z : Opd), Issuing s c g b →
    t = ty.or .i32 → IntType t →
    InAllotment g b [(d, width t.is64), (x, width t.is64), (y, width t.is64), (z, width t.is64)] →
    IntResult s c g b h t sat d x y z (.iadd h ty sat d x y) (fun p q _ => p + q) ∧
    IntResult s c g b h t sat d x y z (.isub h ty sat d x y) (fun p q _ => p - q) ∧
    IntResult s c g b h t sat d x y z (.imul h ty sat d x y) (fun p q _ => p * q) ∧
    IntResult s c g b h t false d x y z (.imulh h ty d x y) (fun p q _ => p * q / 2 ^ t.bits) ∧
    IntResult s c g b h t sat d x y z (.imad h ty sat d x y z) (fun p q r => p * q + r) ∧
    IntResult s c g b h t sat d x y z (.idiv h ty sat d x y)
      (fun p q _ => if q = 0 then (if tySigned t then -1 else 2 ^ t.bits - 1) else p.tdiv q) ∧
    IntResult s c g b h t false d x y z (.irem h ty d x y) (fun p q _ => p.tmod q) ∧
    IntResult s c g b h t false d x y z (.imin h ty d x y) (fun p q _ => min p q) ∧
    IntResult s c g b h t false d x y z (.imax h ty d x y) (fun p q _ => max p q) ∧
    IntResult s c g b h t sat d x y z (.iabs h ty sat d x) (fun p _ _ => (p.natAbs : Int)) ∧
    IntResult s c g b h t sat d x y z (.ineg h ty sat d x) (fun p _ _ => -p)

/-- The long integer forms take their 32-bit immediate as the second operand and compute on 32 bits. -/
def Obligations.LongResults : Prop :=
  ∀ (s : State) (c : Slot) (g : Group) (b : Band) (h : Hdr) (d x : Opd) (imm : Word), Issuing s c g b →
    InAllotment g b [(d, 1), (x, 1)] →
    LaneResult s c g b h (.iaddLong h d x imm) (fun e t' => Result32 d (e.read32 x + imm) 0 e.t t') ∧
    LaneResult s c g b h (.isubLong h d x imm) (fun e t' => Result32 d (e.read32 x - imm) 0 e.t t') ∧
    LaneResult s c g b h (.imulLong h d x imm) (fun e t' => Result32 d (e.read32 x * imm) 0 e.t t')

/-- The bitwise instructions, their long forms, and the shifts: a shift by the width or more leaves zeros, or for SAR copies of the sign,
and ROL takes its count modulo the width. -/
def Obligations.LogicAndShiftResults : Prop :=
  ∀ (s : State) (c : Slot) (g : Group) (b : Band) (h : Hdr) (ty : Ty) (d x y : Opd) (imm : Word), Issuing s c g b →
    (InAllotment g b [(d, width ty.is64), (x, width ty.is64), (y, width ty.is64)] →
      WordResult s c g b h ty d (.and h ty d x y) (fun e => e.read32 x &&& e.read32 y) (fun e => e.read true x &&& e.read true y) ∧
      WordResult s c g b h ty d (.or h ty d x y) (fun e => e.read32 x ||| e.read32 y) (fun e => e.read true x ||| e.read true y) ∧
      WordResult s c g b h ty d (.xor h ty d x y) (fun e => e.read32 x ^^^ e.read32 y) (fun e => e.read true x ^^^ e.read true y) ∧
      WordResult s c g b h ty d (.andn h ty d x y) (fun e => e.read32 x &&& ~~~(e.read32 y)) (fun e => e.read true x &&& ~~~(e.read true y)) ∧
      WordResult s c g b h ty d (.not h ty d x) (fun e => ~~~(e.read32 x)) (fun e => ~~~(e.read true x))) ∧
    (InAllotment g b [(d, 1), (x, 1)] →
      LaneResult s c g b h (.andLong h d x imm) (fun e t' => Result32 d (e.read32 x &&& imm) 0 e.t t') ∧
      LaneResult s c g b h (.orLong h d x imm) (fun e t' => Result32 d (e.read32 x ||| imm) 0 e.t t') ∧
      LaneResult s c g b h (.xorLong h d x imm) (fun e t' => Result32 d (e.read32 x ^^^ imm) 0 e.t t')) ∧
    (InAllotment g b [(d, width ty.is64), (x, width ty.is64), (y, 1)] →
      WordResult s c g b h ty d (.shl h ty d x y) (fun e => e.read32 x <<< (e.read32 y).toNat) (fun e => e.read true x <<< (e.read32 y).toNat) ∧
      WordResult s c g b h ty d (.shr h ty d x y) (fun e => e.read32 x >>> (e.read32 y).toNat) (fun e => e.read true x >>> (e.read32 y).toNat) ∧
      WordResult s c g b h ty d (.sar h ty d x y) (fun e => (e.read32 x).sshiftRight (e.read32 y).toNat)
        (fun e => (e.read true x).sshiftRight (e.read32 y).toNat) ∧
      WordResult s c g b h ty d (.rol h ty d x y) (fun e => (e.read32 x).rotateLeft (e.read32 y).toNat)
        (fun e => (e.read true x).rotateLeft (e.read32 y).toNat))

/-- The bit counts and BREV, over the width w of the type: the number of set bits, the zeros above the highest and below the lowest set bit
(w where none is set), and the bits in the opposite order. -/
def Obligations.BitCountResults : Prop :=
  ∀ (s : State) (c : Slot) (g : Group) (b : Band) (h : Hdr) (ty : Ty) (d x : Opd) (w : Nat), Issuing s c g b →
    w = (if ty.is64 then 64 else 32) →
    (InAllotment g b [(d, 1), (x, width ty.is64)] →
    LaneResult s c g b h (.popc h ty d x) (fun e t' => Result32 d (BitVec.ofNat 32
      ((List.range w).countP fun i => (e.read ty.is64 x).getLsbD i)) 0 e.t t') ∧
    LaneResult s c g b h (.clz h ty d x) (fun e t' => Result32 d (BitVec.ofNat 32
      ((List.range w).findIdx fun i => (e.read ty.is64 x).getLsbD (w - 1 - i))) 0 e.t t') ∧
    LaneResult s c g b h (.ctz h ty d x) (fun e t' => Result32 d (BitVec.ofNat 32
      ((List.range w).findIdx fun i => (e.read ty.is64 x).getLsbD i)) 0 e.t t')) ∧
    (InAllotment g b [(d, width ty.is64), (x, width ty.is64)] →
    LaneResult s c g b h (.brev h ty d x) (fun e t' => ∃ r : W64, Result ty.is64 d r 0 e.t t' ∧
      ∀ i < w, r.getLsbD i = (e.read ty.is64 x).getLsbD (w - 1 - i)))

/-- The bit fields: BFX gives the field at its position, clipped to the width and extended by its type; BFI replaces it in the third operand
and leaves the bits around it; an empty field gives 0, or the third operand. -/
def Obligations.BitFieldResults : Prop :=
  ∀ (s : State) (c : Slot) (g : Group) (b : Band) (h : Hdr) (ty t : Ty) (d x y z : Opd) (imm : Word) (w : Nat), Issuing s c g b →
    t = ty.or .n32 → t ∈ [Ty.i32, .i64, .n32, .n64] → w = t.bits →
    InAllotment g b [(d, width t.is64), (x, width t.is64), (y, 1), (z, width t.is64)] → InAllotment g b [(d, 1), (x, 1)] →
    LaneResult s c g b h (.bfx h ty d x y) (fun e t' => ∃ r : W64, Result t.is64 d r 0 e.t t' ∧
      FieldTaken (tySigned t) w ((e.read32 y).extractLsb' 0 8).toNat ((e.read32 y).extractLsb' 8 8).toNat (e.read t.is64 x) r) ∧
    LaneResult s c g b h (.bfxLong h d x imm) (fun e t' => ∃ r : W64, Result32 d (r.extractLsb' 0 32) 0 e.t t' ∧
      FieldTaken false 32 (imm.extractLsb' 0 8).toNat (imm.extractLsb' 8 8).toNat (e.read false x) r) ∧
    LaneResult s c g b h (.bfi h ty d x y z) (fun e t' => ∃ r : W64, Result t.is64 d r 0 e.t t' ∧
      FieldPut w ((e.read32 y).extractLsb' 0 8).toNat ((e.read32 y).extractLsb' 8 8).toNat (e.read t.is64 x) (e.read t.is64 z) r)

/-- The handle instructions: HADD steps the offset, which wraps at 2^48, and keeps the selector; HSUB is the difference of the offsets of
one selector; HSEL, HOFF and HMAKE take a handle apart and put it together. -/
def Obligations.HandleResults : Prop :=
  ∀ (s : State) (c : Slot) (g : Group) (b : Band) (h : Hdr) (ty t : Ty) (scl : BitVec 3) (d x y : Opd) (imm : Word),
    Issuing s c g b → t = ty.or .i32 → t ∈ [Ty.i32, .i64, .n32, .n64] →
    (InAllotment g b [(d, 2), (x, 2), (y, width t.is64)] → LaneResult s c g b h (.hadd h ty scl d x y) (fun e t' => ∃ r : W64, Result64 d r 0 e.t t' ∧
      hsel r = hsel (e.read true x) ∧
      (hoff r : Int) = ((hoff (e.read true x) : Int) +
        readInt (tySigned t) t.bits ((e.read t.is64 y).toNat % 2 ^ t.bits) * 2 ^ scl.toNat) % 2 ^ 48)) ∧
    (InAllotment g b [(d, 2), (x, 2)] → LaneResult s c g b h (.haddLong h d x imm) (fun e t' => ∃ r : W64, Result64 d r 0 e.t t' ∧
      hsel r = hsel (e.read true x) ∧ (hoff r : Int) = ((hoff (e.read true x) : Int) + imm.toInt) % 2 ^ 48)) ∧
    (InAllotment g b [(d, 2), (x, 2), (y, 2)] → LaneResult s c g b h (.hsub h d x y) (fun e t' => ∃ r : W64, Result64 d r 0 e.t t' ∧
      (hsel (e.read true x) = hsel (e.read true y) → r.toInt = (hoff (e.read true x) : Int) - hoff (e.read true y)) ∧
      (hsel (e.read true x) ≠ hsel (e.read true y) → r = 0x8000000000000000))) ∧
    (InAllotment g b [(d, 1), (x, 2)] →
      LaneResult s c g b h (.hsel h d x) (fun e t' => Result32 d ((hsel (e.read true x)).setWidth 32) 0 e.t t')) ∧
    (InAllotment g b [(d, 2), (x, 2)] →
      LaneResult s c g b h (.hoff h d x) (fun e t' => Result64 d (BitVec.ofNat 64 (hoff (e.read true x))) 0 e.t t')) ∧
    (InAllotment g b [(d, 2), (x, 1), (y, 2)] → LaneResult s c g b h (.hmake h d x y) (fun e t' => ∃ r : W64, Result64 d r 0 e.t t' ∧
      hsel r = (e.read32 x).extractLsb' 0 16 ∧ hoff r = hoff (e.read true y)))

/-! ### Band scalars and chunks (R106 to R109, R131 to R136) -/

/-- The band-scalar instructions write one B register, computed as the vector instruction computes on 32 bits, and push nothing. -/
def Obligations.BandScalarResults : Prop :=
  ∀ (s : State) (c : Slot) (g : Group) (b : Band) (h : Hdr) (ty : Ty) (sat sg : Bool) (d x y z : Opd) (imm : Word), Issuing s c g b →
    sg = tySigned (ty.or .i32) → (ty.or .i32) ∈ [Ty.i32, .n32] →
    BandInt s c g b h sg sat d x y (.badd h ty sat d x y) (· + ·) ∧ BandInt s c g b h sg sat d x y (.bsub h ty sat d x y) (· - ·) ∧
    BandInt s c g b h sg sat d x y (.bmul h ty sat d x y) (· * ·) ∧ BandInt s c g b h sg false d x y (.bmin h ty d x y) min ∧
    BandInt s c g b h sg false d x y (.bmax h ty d x y) max ∧
    BandResult s c g b h (.baddLong h d x imm) (fun e b' => ResultB d (e.read32 x + imm) e.b b') ∧
    BandResult s c g b h (.band h ty d x y) (fun e b' => ResultB d (e.read32 x &&& e.read32 y) e.b b') ∧
    BandResult s c g b h (.bor h ty d x y) (fun e b' => ResultB d (e.read32 x ||| e.read32 y) e.b b') ∧
    BandResult s c g b h (.bxor h ty d x y) (fun e b' => ResultB d (e.read32 x ^^^ e.read32 y) e.b b') ∧
    BandResult s c g b h (.bshl h ty d x y) (fun e b' => ResultB d (e.read32 x <<< (e.read32 y).toNat) e.b b') ∧
    BandResult s c g b h (.bshr h ty d x y) (fun e b' => ResultB d (e.read32 x >>> (e.read32 y).toNat) e.b b') ∧
    BandResult s c g b h (.bsar h ty d x y) (fun e b' => ResultB d ((e.read32 x).sshiftRight (e.read32 y).toNat) e.b b') ∧
    BandResult s c g b h (.bmov h ty d y) (fun e b' => ResultB d (e.read32 y) e.b b') ∧
    BandResult s c g b h (.bmovLong h d imm) (fun e b' => ResultB d imm e.b b') ∧
    BandResult s c g b h (.bsel h ty d x y z) (fun e b' => ResultB d (if e.pred z then e.read32 x else e.read32 y) e.b b')

/-- BCMP and QLOG write one Q register, unless it is Q7; BGET gives the value of the lowest active lane, and BRED the reduction over the
active lanes, whatever their predicates. -/
def Obligations.BandPredicatesAndReductions : Prop :=
  ∀ (s : State) (c : Slot) (g : Group) (b : Band) (h : Hdr) (ty : Ty) (sat : Bool) (op : Opl) (cc : Cc) (red : Red) (q : BitVec 3)
    (d x y : Opd), Issuing s c g b → InAllotment g b [(x, 1)] →
    BandResult s c g b h (.bcmp h ty cc (.q q) x y) (fun e b' => ResultQ (.q q)
      (ccHolds cc (readInt (tySigned (ty.or .i32)) 32 (e.read32 x).toNat) (readInt (tySigned (ty.or .i32)) 32 (e.read32 y).toNat)) e.b b') ∧
    BandResult s c g b h (.qlog h op (.q q) x y) (fun e b' => ResultQ (.q q) (oplEval op (e.pred x) (e.pred y)) e.b b') ∧
    (∀ i t, c.active.getLsbD i = true → (∀ j < i, c.active.getLsbD j = false) → b.threads[i]? = some t →
      BandResult s c g b h (.bget h ty d x) (fun e b' => ResultB d (Env.read32 ⟨s, c, g, b, t, i⟩ x) e.b b')) ∧
    (∀ xs : List Word, xs = (lanesOf c.active).filterMap (fun i => (b.threads[i]?).map fun t => Env.read32 ⟨s, c, g, b, t, i⟩ x) →
      (∀ i, c.active.getLsbD i = true → i < b.threads.length) →
      BandResult s c g b h (.bred h ty sat red d x) (fun e b' =>
        ResultB d (BitVec.ofNat 32 (redInt red (tySigned (ty.or .i32)) sat 32 (xs.map BitVec.toNat))) e.b b'))

/-- ACQ and REL as their band executes them with a true guard: a request for more than S.POOL is denied at once, any other holds the band
until its pool is served, one under TR as any, and REL returns the highest-numbered chunks, all of them for 0. -/
def Obligations.ChunkRequests : Prop :=
  ∀ (s : State) (c : Slot) (g : Group) (b : Band) (h : Hdr) (q : BitVec 3) (x : Opd) (n : Int), Issuing s c g b → Whole h c b →
    n = ((bandEnv s c g b).read32 x).toInt →
    (1 ≤ n → n ≤ 15 → (g.curBudget + 16 * (b.held + n) : Int) ≤ 256 →
      ((s.poolOf g : Int) < n → ∀ tr, BandResult s c g b h (.acq h tr (.q q) x) (fun e b' => ResultQ (.q q) false e.b b')) ∧
      (n ≤ s.poolOf g → ∀ tr, SplitResult s c b (.acq h tr (.q q) x) (fun _ => Waits (.acq n.toNat q tr) c.next))) ∧
    (0 ≤ n → n ≤ b.held → BandResult s c g b h (.rel h x) (fun e b' => ∃ k : Nat, k = (if n = 0 then b.held else n.toNat) ∧
      b' = { e.b with held := b.held - k, chunks := b.chunks.take (b.held - k) }))

/-- A grant of chunks (R108): S.HELD rises by them, their registers read zero and wait for no load, every other register is as before, the
predicate is true, the live threads go on and no other thread changes; a denied band holds no chunk, its predicate is false and it goes
on; a band whose ACQ.TRY does not fit keeps what it holds, its predicate is false and it goes on. Where its waits are not frozen, the slice
grants what fits, oldest first, then decides each ACQ.TRY of the cycle by what is left, and denies what no release can serve. -/
def Obligations.ChunkGrants : Prop :=
  (∀ (s : State) (gid band n : Nat) (q : BitVec 3) (g : Group) (b : Band), s.group? gid = some g → s.band? gid band = some b →
    ∃ b' : Band, (s.acqGrant gid band n q).band? gid band = some b' ∧
      ((s.chunkRows gid band n).any (1024 < · + 16) = false → OnlyBand s (s.acqGrant gid band n q) gid band b') ∧
      (∀ gid' band' l, (gid', band') ≠ (gid, band) → (s.acqGrant gid band n q).thread? gid' band' l = s.thread? gid' band' l) ∧
      b'.held = b.held + n ∧ b'.threads.length = b.threads.length ∧ (∀ k, b'.getQ k = if isPred (.q q) k then true else b.getQ k) ∧
      ∀ (l : Nat) (t t' : Thread), b.threads[l]? = some t → b'.threads[l]? = some t' →
        (∀ k, t'.getV k = if allotment g b ≤ k ∧ k < allotment g b + 16 * n then 0 else t.getV k) ∧
        (∀ k, tabGet t'.pend k = if allotment g b ≤ k ∧ k < allotment g b + 16 * n then none else tabGet t.pend k) ∧
        t' = { t with v := t'.v, pend := t'.pend, pc := t'.pc, wait := t'.wait, pcChanged := t'.pcChanged } ∧ (t.here = true → t'.pc = t.next ∧ t'.wait = .none)) ∧
  (∀ (s : State) (gid band : Nat) (q : BitVec 3) (b : Band), s.band? gid band = some b →
    ∃ b' : Band, OnlyBand s (s.acqDeny gid band q) gid band b' ∧ b'.held = 0 ∧ b'.chunks = [] ∧
      (∀ k, b'.getQ k = if isPred (.q q) k then false else b.getQ k) ∧
      b'.threads = b.threads.map fun t => if t.here then t.release else t) ∧
  (∀ (s : State) (gid band : Nat) (q : BitVec 3) (b : Band), s.band? gid band = some b →
    ∃ b' : Band, OnlyBand s (s.acqFalse gid band q) gid band b' ∧ b'.held = b.held ∧ b'.chunks = b.chunks ∧
      (∀ k, b'.getQ k = if isPred (.q q) k then false else b.getQ k) ∧
      b'.threads = b.threads.map fun t => if t.here then t.release else t) ∧
  ∀ (s : State) (core slice lid : Nat),
    (∀ w, s.teamFrozen core lid = false → s.acqWaiters core slice lid = [w] →
      (∀ s1 : State, w.2.2.1 ≤ s.freeChunks core slice lid → s1 = s.acqGrant w.1 w.2.1 w.2.2.1 w.2.2.2 →
        (s1.acqAsked core slice lid true = [] → exec (.acqGrant core slice lid) s = .next s1) ∧
        (∀ v, s1.acqAsked core slice lid true = [v] → s1.freeChunks core slice lid < v.2.2.1 →
          exec (.acqGrant core slice lid) s = .next (s1.acqFalse v.1 v.2.1 v.2.2.2))) ∧
      (s.freeChunks core slice lid < w.2.2.1 → s.acqAsked core slice lid true = [] → exec (.acqGrant core slice lid) s = .next s) ∧
      (∀ s1 : State, s.acqStuck core slice lid = true → s.acqAsked core slice lid true = [] → s1 = s.acqDeny w.1 w.2.1 w.2.2.2 →
        s1.acqWaiters core slice lid = [] → exec (.acqDenial core slice lid) s = .next s1)) ∧
    (∀ v, s.teamFrozen core lid = false → s.acqWaiters core slice lid = [] → s.acqAsked core slice lid true = [v] →
      exec (.acqGrant core slice lid) s = .next (if v.2.2.1 ≤ s.freeChunks core slice lid then s.acqGrant v.1 v.2.1 v.2.2.1 v.2.2.2
        else s.acqFalse v.1 v.2.1 v.2.2.2)) ∧
    (s.teamFrozen core lid = false → exec (.acqGrant core slice lid) s = .next (s.acqServe core slice lid) ∧
      exec (.acqDenial core slice lid) s = .next (State.acqDenials 33 (s.acqServe core slice lid) core slice lid)) ∧
    (s.teamFrozen core lid = true → exec (.acqGrant core slice lid) s = .next s ∧ exec (.acqDenial core slice lid) s = .next s)

/-! ### Floating point, conversions and exchange (R138 to R159) -/

/-- The floating-point instructions read their operands exactly, round the exact value once to the format, write and push it, and raise
its flags. Flush to zero is read as log entry 57 reads it. -/
def Obligations.FloatResults : Prop :=
  ∀ (s : State) (c : Slot) (g : Group) (b : Band) (h : Hdr) (ty t : Ty) (rnd : Rnd) (ftz : Bool) (d x y z : Opd) (imm : Word),
    Issuing s c g b → t = ty.or .f32 →
    InAllotment g b [(d, width t.is64), (x, width t.is64), (y, width t.is64), (z, width t.is64)] →
    InAllotment g b [(d, 1), (x, 1)] →
    FloatResult s c g b h t.is64 d (.fadd h ty rnd ftz d x y)
      (fun e => (fmtOf t).result rnd ftz (FV.sum rnd [e.fval t ftz x, e.fval t ftz y])) ∧
    FloatResult s c g b h t.is64 d (.fsub h ty rnd ftz d x y)
      (fun e => (fmtOf t).result rnd ftz (FV.sum rnd [e.fval t ftz x, (e.fval t ftz y).negate])) ∧
    FloatResult s c g b h t.is64 d (.fmul h ty rnd ftz d x y)
      (fun e => (fmtOf t).result rnd ftz ((e.fval t ftz x).mul (e.fval t ftz y))) ∧
    FloatResult s c g b h t.is64 d (.ffma h ty rnd ftz d x y z)
      (fun e => (fmtOf t).result rnd ftz (FV.sum rnd [(e.fval t ftz x).mul (e.fval t ftz y), e.fval t ftz z])) ∧
    (∀ n : Opd, InAllotment g b [(n, 1)] → FloatResult s c g b h t.is64 d (.fscl h ty rnd ftz d x n)
      (fun e => (fmtOf t).result rnd ftz (scaleVal (e.read32 n).toInt (e.fval t ftz x)))) ∧
    FloatResult s c g b h t.is64 d (.fsqrt h ty rnd ftz d x) (fun e => (fmtOf t).result rnd ftz (e.fval t ftz x).sqrt) ∧
    FloatResult s c g b h t.is64 d (.fdiv h ty rnd ftz d x y) (fun e =>
      (((fmtOf t).result rnd ftz (FV.div (e.fval t ftz x) (e.fval t ftz y)).1).1,
        ((fmtOf t).result rnd ftz (FV.div (e.fval t ftz x) (e.fval t ftz y)).1).2 ||| (FV.div (e.fval t ftz x) (e.fval t ftz y)).2)) ∧
    FloatResult s c g b h false d (.faddLong h d x imm)
      (fun e => Fmt.fp32.result .rn false (FV.sum .rn [e.fval .f32 false x, Fmt.fp32.read imm.toNat])) ∧
    FloatResult s c g b h false d (.fmulLong h d x imm)
      (fun e => Fmt.fp32.result .rn false ((e.fval .f32 false x).mul (Fmt.fp32.read imm.toNat)))

/-- The exact floating-point instructions: FMIN and FMAX, FABS, FNEG and FRND round nothing; FCLASS gives the class word; FCMP writes and
pushes its predicate and raises NV as its condition does. -/
def Obligations.FloatExactResults : Prop :=
  ∀ (s : State) (c : Slot) (g : Group) (b : Band) (h : Hdr) (ty t : Ty) (rnd : Rnd) (ftz : Bool) (cc : Fcc) (p : BitVec 3) (d x y : Opd),
    Issuing s c g b → t = ty.or .f32 →
    InAllotment g b [(d, width t.is64), (x, width t.is64), (y, width t.is64)] →
    FloatResult s c g b h t.is64 d (.fmin h ty ftz d x y) (fun e =>
      (((fmtOf t).result .rn false (FV.minmax false (e.fval t ftz x) (e.fval t ftz y)).1).1,
        (FV.minmax false (e.fval t ftz x) (e.fval t ftz y)).2)) ∧
    FloatResult s c g b h t.is64 d (.fmax h ty ftz d x y) (fun e =>
      (((fmtOf t).result .rn false (FV.minmax true (e.fval t ftz x) (e.fval t ftz y)).1).1,
        (FV.minmax true (e.fval t ftz x) (e.fval t ftz y)).2)) ∧
    FloatResult s c g b h t.is64 d (.fabs h ty d x) (fun e => (fmtOf t).result .rn false ((e.fval t false x).withSign fun _ => false)) ∧
    FloatResult s c g b h t.is64 d (.fneg h ty d x) (fun e => (fmtOf t).result .rn false (e.fval t false x).negate) ∧
    FloatResult s c g b h t.is64 d (.frnd h ty rnd d x) (fun e => (fmtOf t).result .rn false ((e.fval t false x).integral rnd)) ∧
    (∀ w : Opd, InAllotment g b [(w, 1)] → LaneResult s c g b h (.fclass h ty w x)
      (fun e t' => Result32 w ((fmtOf t).classBits (e.fread (fmtOf t) t.is64 x)) 0 e.t t')) ∧
    LaneResult s c g b h (.fcmp h ty ftz cc (.p p) x y) (fun e t' => ResultP (.p p)
      (fccHolds cc ((e.fval t ftz x).cmp (e.fval t ftz y))) (fccFlags cc (e.fval t ftz x) (e.fval t ftz y)) e.t t')

/-- The packed instructions compute each 16-bit element as the scalar instruction does and raise the flags of both; FCMP2 gives all ones
or zeros for each; FDOT2 rounds the exact sum of both products and the addend once to FP32. Flush to zero is read as log entry 57 reads
it. -/
def Obligations.PackedFloatResults : Prop :=
  ∀ (s : State) (c : Slot) (g : Group) (b : Band) (h : Hdr) (ty t : Ty) (rnd : Rnd) (ftz : Bool) (cc : Fcc) (d x y z : Opd),
    Issuing s c g b → t = ty.or .f16 → InAllotment g b [(d, 1), (x, 1), (y, 1), (z, 1)] →
    PackedResult s c g b h d (.fadd2 h ty rnd ftz d x y)
      (fun e i => (fmtOf t).result rnd ftz (FV.sum rnd [e.half t ftz i x, e.half t ftz i y])) ∧
    PackedResult s c g b h d (.fsub2 h ty rnd ftz d x y)
      (fun e i => (fmtOf t).result rnd ftz (FV.sum rnd [e.half t ftz i x, (e.half t ftz i y).negate])) ∧
    PackedResult s c g b h d (.fmul2 h ty rnd ftz d x y)
      (fun e i => (fmtOf t).result rnd ftz ((e.half t ftz i x).mul (e.half t ftz i y))) ∧
    PackedResult s c g b h d (.ffma2 h ty rnd ftz d x y z)
      (fun e i => (fmtOf t).result rnd ftz (FV.sum rnd [(e.half t ftz i x).mul (e.half t ftz i y), e.half t ftz i z])) ∧
    PackedResult s c g b h d (.fmin2 h ty ftz d x y) (fun e i =>
      (((fmtOf t).result .rn false (FV.minmax false (e.half t ftz i x) (e.half t ftz i y)).1).1,
        (FV.minmax false (e.half t ftz i x) (e.half t ftz i y)).2)) ∧
    PackedResult s c g b h d (.fmax2 h ty ftz d x y) (fun e i =>
      (((fmtOf t).result .rn false (FV.minmax true (e.half t ftz i x) (e.half t ftz i y)).1).1,
        (FV.minmax true (e.half t ftz i x) (e.half t ftz i y)).2)) ∧
    PackedResult s c g b h d (.fcmp2 h ty ftz cc d x y) (fun e i =>
      (if fccHolds cc ((e.half t ftz i x).cmp (e.half t ftz i y)) then 65535 else 0, fccFlags cc (e.half t ftz i x) (e.half t ftz i y))) ∧
    FloatResult s c g b h false d (.fdot2 h ty rnd ftz d x y z) (fun e => Fmt.fp32.result rnd ftz
      (FV.sum rnd [e.fval .f32 ftz z, (e.half t ftz 0 x).mul (e.half t ftz 0 y), (e.half t ftz 1 x).mul (e.half t ftz 1 y)]))

/-- The seven special functions complete, write and push their value of the FP32 operand with its flags (R43, R150), with R43's table at
the special inputs; a NaN gives the canonical NaN (R41). The values elsewhere are the model's correct rounding, log entry 12. -/
def Obligations.SpecialFunctions : Prop :=
  (∀ (s : State) (c : Slot) (g : Group) (b : Band) (h : Hdr) (ty : Ty) (ftz : Bool) (d x : Opd), Issuing s c g b →
    InAllotment g b [(d, 1), (x, 1)] →
    FloatResult s c g b h false d (.rcp h ty ftz d x) (fun e => SpFn.rcp.eval ftz (e.fread .fp32 false x)) ∧
    FloatResult s c g b h false d (.rsq h ty ftz d x) (fun e => SpFn.rsq.eval ftz (e.fread .fp32 false x)) ∧
    FloatResult s c g b h false d (.ex2 h ty ftz d x) (fun e => SpFn.ex2.eval ftz (e.fread .fp32 false x)) ∧
    FloatResult s c g b h false d (.lg2 h ty ftz d x) (fun e => SpFn.lg2.eval ftz (e.fread .fp32 false x)) ∧
    FloatResult s c g b h false d (.sinpi h ty ftz d x) (fun e => SpFn.sinpi.eval ftz (e.fread .fp32 false x)) ∧
    FloatResult s c g b h false d (.cospi h ty ftz d x) (fun e => SpFn.cospi.eval ftz (e.fread .fp32 false x)) ∧
    FloatResult s c g b h false d (.tanh h ty ftz d x) (fun e => SpFn.tanh.eval ftz (e.fread .fp32 false x))) ∧
  (∀ ftz : Bool,
    (SpFn.rcp.eval ftz 0 = (0x7F800000, fDZ) ∧ SpFn.rcp.eval ftz 0x80000000 = (0xFF800000, fDZ) ∧
      SpFn.rcp.eval ftz 0x7F800000 = (0, 0) ∧ SpFn.rcp.eval ftz 0xFF800000 = (0x80000000, 0)) ∧
    (SpFn.rsq.eval ftz 0 = (0x7F800000, fDZ) ∧ SpFn.rsq.eval ftz 0x80000000 = (0xFF800000, fDZ) ∧ SpFn.rsq.eval ftz 0x7F800000 = (0, 0)) ∧
    (SpFn.ex2.eval ftz 0xFF800000 = (0, 0) ∧ SpFn.ex2.eval ftz 0x7F800000 = (0x7F800000, 0)) ∧
    (SpFn.lg2.eval ftz 0 = (0xFF800000, fDZ) ∧ SpFn.lg2.eval ftz 0x80000000 = (0xFF800000, fDZ) ∧
      SpFn.lg2.eval ftz 0x7F800000 = (0x7F800000, 0)) ∧
    (SpFn.sinpi.eval ftz 0 = (0, 0) ∧ SpFn.sinpi.eval ftz 0x80000000 = (0x80000000, 0) ∧
      SpFn.sinpi.eval ftz 0x7F800000 = (0x7FC00000, fNV) ∧ SpFn.sinpi.eval ftz 0xFF800000 = (0x7FC00000, fNV)) ∧
    (SpFn.cospi.eval ftz 0 = (0x3F800000, 0) ∧ SpFn.cospi.eval ftz 0x80000000 = (0x3F800000, 0) ∧
      SpFn.cospi.eval ftz 0x7F800000 = (0x7FC00000, fNV) ∧ SpFn.cospi.eval ftz 0xFF800000 = (0x7FC00000, fNV)) ∧
    (SpFn.tanh.eval ftz 0 = (0, 0) ∧ SpFn.tanh.eval ftz 0x80000000 = (0x80000000, 0) ∧ SpFn.tanh.eval ftz 0x7F800000 = (0x3F800000, 0) ∧
      SpFn.tanh.eval ftz 0xFF800000 = (0xBF800000, 0))) ∧
  (∀ (f : SpFn) (ftz sig : Bool) (a : Nat), Fmt.fp32.readF ftz a = .nan sig → f.eval ftz a = (0x7FC00000, if sig then fNV else 0)) ∧
  (∀ (ftz : Bool) (a m : Nat) (e : Int), Fmt.fp32.readF ftz a = .fin true m e → 0 < m →
    SpFn.rsq.eval ftz a = (0x7FC00000, fNV) ∧ SpFn.lg2.eval ftz a = (0x7FC00000, fNV)) ∧
  (∀ ftz : Bool, SpFn.rsq.eval ftz 0xFF800000 = (0x7FC00000, fNV) ∧ SpFn.lg2.eval ftz 0xFF800000 = (0x7FC00000, fNV)) ∧
  (∀ (ftz : Bool) (k : Int), -149 ≤ k → k ≤ 127 →
    SpFn.ex2.eval ftz (Fmt.fp32.result .rn false (FV.ofInt k)).1 = Fmt.fp32.result .rn ftz (.fin false 1 k) ∧
    (ftz = false ∨ -126 ≤ k →
      SpFn.lg2.eval ftz (Fmt.fp32.result .rn false (.fin false 1 k)).1 = ((Fmt.fp32.result .rn false (FV.ofInt k)).1, 0))) ∧
  ∀ (ftz n : Bool) (a m j : Nat) (e : Int), Fmt.fp32.readF ftz a = .fin n m e → 0 < m → m * 2 * 2 ^ e.toNat = j * 2 ^ (-e).toNat →
    SpFn.sinpi.eval ftz a = (if j % 2 = 0 then (if n then 0x80000000 else 0) else if (j % 4 = 1) = (n = false) then 0x3F800000 else 0xBF800000, 0) ∧
    SpFn.cospi.eval ftz a = (if j % 2 = 1 then 0 else if j % 4 = 0 then 0x3F800000 else 0xBF800000, 0)

/-- The conversions: CVT converts its operand's exact value to the destination type; PACK puts two converted values into elements n and n
+ 1 of its destination and leaves the other elements; UNPK gives one element as FP32, when no lane's scale entry is malformed. Flush to
zero is read as log entry 57 reads it; that an integer conversion is out of range by its rounded value is the model's reading, log entry
65. -/
def Obligations.Conversions : Prop :=
  ∀ (s : State) (c : Slot) (g : Group) (b : Band) (h : Hdr) (ty ty2 : Ty) (rnd : Rnd) (ftz ovf rx scl : Bool) (pos : BitVec 3)
    (d x y : Opd), Issuing s c g b → InAllotment g b [(d, width (ty.or .f32).is64), (x, width (ty2.or .i32).is64)] →
    InAllotment g b [(d, 1), (x, 1), (y, 1)] →
    FloatResult s c g b h (ty.or .f32).is64 d (.cvt h ty ty2 rnd ftz ovf rx d x)
      (fun e => cvtTo (ty.or .f32) rnd ftz ovf rx (e.cvtSrc (ty2.or .i32) ftz x)) ∧
    (packOk ty ovf ftz pos = true → LaneResult s c g b h (.pack h ty rnd ftz ovf pos d x y) (fun e t' => ∃ r : Word,
      (∀ j < 32 / (ty.or .f16).bits, elemOf (ty.or .f16).bits j r.toNat =
        if j = pos.toNat then (cvtTo (ty.or .f16) rnd ftz ovf false (e.fval .f32 ftz x)).1 % 2 ^ (ty.or .f16).bits
        else if j = pos.toNat + 1 then (cvtTo (ty.or .f16) rnd ftz ovf false (e.fval .f32 ftz y)).1 % 2 ^ (ty.or .f16).bits
        else elemOf (ty.or .f16).bits j (e.read32 d).toNat) ∧
      Result32 d r ((cvtTo (ty.or .f16) rnd ftz ovf false (e.fval .f32 ftz x)).2 |||
        (cvtTo (ty.or .f16) rnd ftz ovf false (e.fval .f32 ftz y)).2) e.t t')) ∧
    ((∀ e ∈ participants s c g b h, (scl && ty.or .f16 == .e2m1 && badX (scaleOf (e.read32 y)).2) = false) →
      FloatResult s c g b h false d (.unpk h ty pos scl d x y) (fun e =>
        let v := if ty.or .f16 = .f16 ∨ ty.or .f16 = .bf16 then e.half (ty.or .f16) false pos.toNat x
          else elemVal (ty.or .f16) (elemOf (ty.or .f16).bits pos.toNat (e.read32 x).toNat) (if scl then some (scaleOf (e.read32 y)) else none)
        Fmt.fp32.result .rn false (if v.isNan then FV.nan false else v)))

/-- The exchanges, among the lanes of the split whose guard is true, all read before any is written: SHFL gives the source lane's value,
or the lane's own where there is none; VOTE decides over the participants; LRED combines all, and SCAN those up to, or below, the lane. -/
def Obligations.ExchangeResults : Prop :=
  ∀ (s : State) (c : Slot) (g : Group) (b : Band) (h : Hdr) (ty t : Ty) (mode : ShMode) (seg : ShSeg) (rnd : Rnd) (ftz sat exc : Bool)
    (red : Red) (p : BitVec 3) (d x y : Opd), Issuing s c g b → t = ty.or .i32 →
    InAllotment g b [(d, width t.is64), (x, width t.is64), (y, 1)] → InAllotment g b [(d, 1)] →
    LaneResult s c g b h (.shfl h ty mode seg d x y) (fun e t' =>
      (∀ j o, shflSrc mode (segSize seg) e.lane (e.read32 y).toInt = some j → o ∈ participants s c g b h → o.lane = j →
        Result t.is64 d (o.read t.is64 x) 0 e.t t') ∧
      ((∀ j, shflSrc mode (segSize seg) e.lane (e.read32 y).toInt = some j → ∀ o ∈ participants s c g b h, o.lane ≠ j) →
        Result t.is64 d (e.read t.is64 x) 0 e.t t')) ∧
    LaneResult s c g b h (.vote h .all (.p p) x) (fun e t' =>
      ResultP (.p p) (decide (∀ o ∈ participants s c g b h, o.pred x = true)) 0 e.t t') ∧
    LaneResult s c g b h (.vote h .any (.p p) x) (fun e t' =>
      ResultP (.p p) (decide (∃ o ∈ participants s c g b h, o.pred x = true)) 0 e.t t') ∧
    LaneResult s c g b h (.vote h .uni (.p p) x) (fun e t' => ResultP (.p p)
      (decide ((∀ o ∈ participants s c g b h, o.pred x = true) ∨ ∀ o ∈ participants s c g b h, o.pred x = false)) 0 e.t t') ∧
    LaneResult s c g b h (.vote h .bal d x) (fun e t' => ∃ r : Word,
      (∀ l < 32, r.getLsbD l = decide (∃ o ∈ participants s c g b h, o.lane = l ∧ o.pred x = true)) ∧ Result32 d r 0 e.t t') ∧
    FloatResult s c g b h t.is64 d (.lred h ty rnd ftz sat red d x) (fun _ => redVal t red rnd ftz sat x (participants s c g b h)) ∧
    FloatResult s c g b h t.is64 d (.scan h ty rnd ftz sat red exc d x) (fun e => redVal t red rnd ftz sat x
      ((participants s c g b h).filter fun o => if exc then o.lane < e.lane else o.lane ≤ e.lane))

/-! ### Flow (R161 to R178) -/

/-- BRA and JMPI take the lanes whose guard is true to their targets and BRAQ takes the whole split, when the targets may be transferred
to; the other lanes go on. -/
def Obligations.Branches : Prop :=
  ∀ (s : State) (c : Slot) (g : Group) (b : Band) (h : Hdr) (off : Word) (x : Opd), Issuing s c g b →
    (s.targetFault g.die g.ctx c.pc.sel (xtTarget c off) = none →
      SplitResult s c b (.bra h off) (fun _ th th' =>
        if laneGuard h th then Branched c.pc ⟨c.pc.sel, BitVec.ofInt 32 (xtTarget c off)⟩ th th' else WentOn c.next th th') ∧
      (bandGuard h b = true → SplitResult s c b (.braq h off) (fun _ => Branched c.pc ⟨c.pc.sel, BitVec.ofInt 32 (xtTarget c off)⟩))) ∧
    (bandGuard h b = false → SplitResult s c b (.braq h off) (fun _ => WentOn c.next)) ∧
    (InAllotment g b [(x, 1)] →
      (∀ e ∈ participants s c g b h, s.targetFault g.die g.ctx c.pc.sel (jumpTarget e x) = none) →
      SplitResult s c b (.jmpi h x) (fun l th th' =>
        if laneGuard h th then Branched c.pc ⟨c.pc.sel, BitVec.ofInt 32 (jumpTarget ⟨s, c, g, b, th, l⟩ x)⟩ th th' else WentOn c.next th th'))

/-- CALL writes its return handle, raises the depth and goes to its target; RET, when no guarded lane's handle is malformed and no target
faults, goes to the PC of its handle and lowers the depth, and nothing else changes but for a handle of a cross call: it also takes the top
of the lane's cross-call stack, which its handle names, and lowers that entry's in-flight count by one. -/
def Obligations.CallsAndReturns : Prop :=
  ∀ (s : State) (c : Slot) (g : Group) (b : Band) (h : Hdr) (d x : Opd) (off : Word), Issuing s c g b →
    (InAllotment g b [(d, 2)] → s.targetFault g.die g.ctx c.pc.sel (xtTarget c off) = none →
      (∀ e ∈ participants s c g b h, e.t.depth ≠ 4095) →
      SplitResult s c b (.call h d off) (fun _ th th' =>
        if laneGuard h th then ∃ u, Result64 d (returnHandle c.pc.sel false 0 c.next.off) 0 th u ∧
          th' = { u with depth := th.depth + 1, pc := ⟨c.pc.sel, BitVec.ofInt 32 (xtTarget c off)⟩, wait := th.wait }
        else WentOn c.next th th')) ∧
    (InAllotment g b [(x, 2)] →
      (∀ e ∈ participants s c g b h, badReturn e.t (e.read true x) = false ∧
        s.targetFault g.die g.ctx ((e.read true x).extractLsb' 48 16) (((e.read true x).extractLsb' 0 32).toNat : Int) = none) →
      (∃ (u : State) (b' : Band), OnlyBand s u c.gid c.band b' ∧
        Lanes b b' c.active (fun l th th' =>
          if laneGuard h th then ∃ r : W64, r = Env.read ⟨s, c, g, b, th, l⟩ true x ∧
            (r.getLsbD 47 = true → th.xstack.head? = some (r.extractLsb' 48 16, r.extractLsb' 32 12)) ∧
            th' = { th with
              depth := th.depth - 1, xstack := if r.getLsbD 47 then th.xstack.drop 1 else th.xstack
              pc := ⟨r.extractLsb' 48 16, r.extractLsb' 0 32⟩ }
          else WentOn c.next th th') ∧
        exec (.ret h x) s = .next ((participants s c g b h).foldl (fun u e =>
          if (e.read true x).getLsbD 47 then
            u.lowerCount g.ctx ((e.read true x).extractLsb' 48 16) ((e.read true x).extractLsb' 32 12)
          else u) u)) ∧
      ∀ (v : State) (ctx : Nat) (sel : BitVec 16) (slot : BitVec 12) (e : Binding), v.binding? ctx sel slot = some e →
        ∃ e', (v.lowerCount ctx sel slot).binding? ctx sel slot = some e' ∧ e'.inflight = (e.inflight + 2 ^ 32 - 1) % 2 ^ 32)

/-- CALLX through a BOUND entry whose target it may call: each guarded lane gets the cross-call return handle, the entry's key on its
cross-call stack and the target's PC, and the entry's in-flight count rises by one for each; LREF gives the entry's target, and LD and ST
through a DATA entry access it; a use puts the entry in the core's link cache. The order of the entry's checks is the model's, log entry
51. -/
def Obligations.LinkUses : Prop :=
  ∀ (s : State) (c : Slot) (g : Group) (b : Band) (h : Hdr) (slot : BitVec 12) (d : Opd) (e : Binding), Issuing s c g b →
    guarded h c b ≠ 0 → slot.toNat < s.slotCount g.ctx c.pc.sel →
    s.binding? g.ctx c.pc.sel slot = some e → e.state = .bound →
    (∀ l ∈ (s.core g.core).links, l.ctx = g.ctx → l.sel = c.pc.sel → l.slot = slot →
      l.target = e.target ∧ l.kind = e.kind ∧ l.rights = e.rights) →
    (InAllotment g b [(d, 2)] → exec (.lref h slot d) s = .next ((linkUsed s c g e slot false).modBand c.gid c.band fun b =>
      b.onLanes c.active fun _ t => (if laneGuard h t then t.put64 d e.target else t).advance c.next)) ∧
    (InAllotment g b [(d, 2)] → e.kind = 1 → hasRights e.rights rtX = true →
      (∀ u ∈ participants s c g b h, u.t.depth ≠ 4095 ∧ u.t.xstack.length < 16) →
      s.targetFault g.die g.ctx (hsel e.target) (hoff e.target) = none →
      exec (.callx h slot d) s = .next
        (((linkUsed s c g e slot true).modBinding g.ctx c.pc.sel slot fun e =>
          { e with inflight := (e.inflight + (lanesOf (guarded h c b)).length) % 2 ^ 32 }).modBand c.gid c.band fun b =>
            b.onLanes c.active fun _ t =>
              if laneGuard h t then
                { (t.put64 d (returnHandle c.pc.sel true slot c.next.off)) with
                  depth := t.depth + 1, xstack := (c.pc.sel, slot) :: t.xstack,
                  pc := ⟨hsel e.target, BitVec.ofNat 32 (hoff e.target)⟩ }
              else t.advance c.next)) ∧
    (∀ (ty : Ty) (sc : Scope) (ord : Ord) (x y : Opd) (u : State), e.kind = 0 → InAllotment g b [(d, width ty.is64), (y, 1)] →
      u = linkUsed s c g e slot false →
      (hasRights e.rights rtR = true →
        AllPerformed ((laneEnvs u c g b (guarded h c b)).map fun v =>
          v.handleAccess (some e.target) x (v.disp y) (tyBytes ty) .load (ord == .acq)) →
        exec (.ld h ty sc ord true slot d x y) s = .next (loadsIssued u c g ty (ordAcq ord sc) d
          ((laneEnvs u c g b (guarded h c b)).map fun v => v.handleAccess (some e.target) x (v.disp y) (tyBytes ty) .load (ord == .acq)))) ∧
      (hasRights e.rights rtW = true → exec (.st h ty sc ord true slot d x y) s = .next (storeLanes u c g (ord == .rel) sc
        ((laneEnvs u c g b (guarded h c b)).map fun v =>
          (v.handleAccess (some e.target) x (v.disp y) (tyBytes ty) .store (ord == .rel), v.storeBytes ty d)))))

/-- JOIN holds the guarded lanes at its PC with the mask its register holds; NAP lets them go on with a count of at most 1,048,575; the
count read in NAP's last cycle ends by NAP_EXPIRY. -/
def Obligations.JoinAndNap : Prop :=
  ∀ (s : State) (c : Slot) (g : Group) (b : Band) (h : Hdr) (x : Opd), Issuing s c g b →
    SplitResult s c b (.join h x) (fun _ th th' =>
      if laneGuard h th then Waits (.join ((bandEnv s c g b).read32 x) c.pc) c.next th th' else WentOn c.next th th') ∧
    (InAllotment g b [(x, 1)] → LaneResult s c g b h (.nap h x) (fun e t' =>
      t' = { e.t with nap := min (e.read32 x).toNat 1048575, pc := c.next, wait := .none, pcChanged := false })) ∧
    (∀ gid band lane bd th, s.frozen gid = false → s.band? gid band = some bd → bd.threads[lane]? = some th → th.nap = 1 →
      ∃ t, exec (.napExpiry gid band lane) s = .next t ∧ ∃ th', t.thread? gid band lane = some th' ∧ th' = { th with nap := 0 })

/-- EXIT: each lane of the split whose guard is true is no longer live, waits for nothing and holds no cross call, and keeps its registers;
in a group that runs an inline child it ends the thread's part of the child instead, and waits, with no cross call, for the others; each
other lane of the split goes on. -/
def Obligations.ExitEndsThreads : Prop :=
  ∀ (s : State) (c : Slot) (g : Group) (b : Band) (h : Hdr), Issuing s c g b →
    ∃ t, exec (.exit h) s = .next t ∧ ∀ l th, c.active.getLsbD l = true → b.threads[l]? = some th →
      ∃ th', t.thread? c.gid c.band l = some th' ∧
        if laneGuard h th then
          (g.inl = [] → th' = th.exited ∧ th'.live = false ∧ th'.wait = .none ∧ th'.xstack = [] ∧ th'.v = th.v) ∧
          (g.inl ≠ [] → th' = { th with wait := .inl, xstack := [], pend := [] })
        else th' = th.advance c.next

/-- BRK with some guarded lane that has not passed it: those lanes stop at its PC; a context that debugs lanes posts one event, and another
whose halt line is low raises it with reason BREAK, one halt sequence on, at the BRK's PC; lanes that resume past it go on and must
break again. -/
def Obligations.BrkStopsOrPasses : Prop :=
  ∀ (s : State) (c : Slot) (g : Group) (b : Band) (h : Hdr) (code : BitVec 15) (x : Context), Issuing s c g b →
    s.ctx? g.ctx = some x → b.fault = none →
    ((∃ e ∈ participants s c g b h, e.t.breakPassed = false) →
      ∃ t, exec (.brk h code) s = .next t ∧
        (∀ l th, c.active.getLsbD l = true → b.threads[l]? = some th → laneGuard h th = true → th.breakPassed = false →
          t.thread? c.gid c.band l = some { th with stopped := true }) ∧
        (x.laneDebug = true → ∃ x', t.ctx? g.ctx = some x' ∧ x'.eventSeq = x.eventSeq + 1) ∧
        (x.laneDebug = false → x.line = false → ∃ x', t.ctx? g.ctx = some x' ∧ x'.line = true ∧ x'.halt = .halting ∧ x'.haltReason = rBreak ∧
          x'.haltSeq = x.haltSeq + 1 ∧ x'.haltPc = c.pc.val)) ∧
    ((∀ e ∈ participants s c g b h, e.t.breakPassed = true) →
      SplitResult s c b (.brk h code) (fun _ th th' =>
        if laneGuard h th then th' = { th with breakPassed := false, pc := c.next, wait := .none, pcChanged := false } else WentOn c.next th th'))

/-- TRAPI posts a SOFTWARE event with the mask, band and code and asks for a reply: where some party owns the class the guarded lanes park
until it replies; where none does they read 0xFFFF_FFFF at once. -/
def Obligations.TrapiParksOrReadsOnes : Prop :=
  ∀ (s : State) (c : Slot) (g : Group) (b : Band) (h : Hdr) (code : BitVec 15) (d : Opd) (r : Word × Bool × State), Issuing s c g b →
    InAllotment g b [(d, 1)] → guarded h c b ≠ 0 →
    r = s.post g.ctx clSoftware c.gid c.band c.pc.val (laneArg (guarded h c b) c.band) (code.setWidth 32) true →
    exec (.trapi h code d) s = .next (r.2.2.modBand c.gid c.band fun b => b.onLanes c.active fun _ t =>
      if laneGuard h t then
        if r.2.1 then t.hold (.trap r.1 d code none) c.next else (t.put32 d 0xFFFFFFFF).advance c.next
      else t.advance c.next)

/-! ### Memory (R179 to R204) -/

/-- Each load, when every lane's access is performed, completes its issue: every lane goes on, and a guarded lane waits for one access that
holds the bytes the thread reads, extended as the type says. That a load may sample at issue is the model's choice, log entry 4. -/
def Obligations.LoadsIssue : Prop :=
  ∀ (s : State) (c : Slot) (g : Group) (b : Band) (h : Hdr) (ty : Ty) (sc : Scope) (ord : Ord) (slot : BitVec 12) (d x y : Opd) (imm : Word),
    Issuing s c g b →
    (InAllotment g b [(d, width ty.is64), (x, 2), (y, 1)] → LoadForm s c g b h ty (ordAcq ord sc) d (.ld h ty sc ord false slot d x y)
      (fun e => e.handleAccess none x (e.disp y) (tyBytes ty) .load (ord == .acq))) ∧
    (InAllotment g b [(d, 1), (x, 2)] →
      LoadForm s c g b h .i32 none d (.ldLong h d x imm) (fun e => e.handleAccess none x imm.toInt 4 .load false)) ∧
    (InAllotment g b [(d, width ty.is64), (x, 1), (y, 1)] → LoadForm s c g b h ty (ordAcq ord sc) d (.ldsp h ty sc ord d x y)
      (fun e => e.scratchAccess x (e.disp y) (tyBytes ty) .load (ord == .acq))) ∧
    (InAllotment g b [(d, 1), (x, 1)] →
      LoadForm s c g b h .i32 none d (.ldspLong h d x imm) (fun e => e.scratchAccess x imm.toInt 4 .load false)) ∧
    (InAllotment g b [(d, width ty.is64), (x, 1), (y, 1)] → LoadForm s c g b h ty (ordAcq ord sc) d (.ldsg h ty sc ord d x y)
      (fun e => e.windowAccess x y (tyBytes ty) .load (ord == .acq)))

/-- The stores, when every lane's access is performed and memory holds no error: every lane of the split goes on with its registers as
they were, a plain store leaves every byte outside those its accesses name as it was, and the lane that stored reads its bytes back as the
value it stored. When a store leaves its die is read as log entries 20 and 26 read it. -/
def Obligations.StoresAndTheirFrame : Prop :=
  ∀ (s : State) (c : Slot) (g : Group) (b : Band) (h : Hdr) (ty : Ty) (sc : Scope) (ord : Ord) (slot : BitVec 12) (d x y : Opd) (imm : Word),
    Issuing s c g b →
    (InAllotment g b [(d, width ty.is64), (x, 2), (y, 1)] → StoreForm s c g b h (ord == .rel) (.st h ty sc ord false slot d x y)
      (fun e => e.handleAccess none x (e.disp y) (tyBytes ty) .store (ord == .rel)) (fun e => e.storeBytes ty d)) ∧
    (InAllotment g b [(d, 1), (x, 2)] → StoreForm s c g b h false (.stLong h d x imm)
      (fun e => e.handleAccess none x imm.toInt 4 .store false) (fun e => e.storeBytes .i32 d)) ∧
    (InAllotment g b [(d, width ty.is64), (x, 1), (y, 1)] → StoreForm s c g b h (ord == .rel) (.stsp h ty sc ord d x y)
      (fun e => e.scratchAccess x (e.disp y) (tyBytes ty) .store (ord == .rel)) (fun e => e.storeBytes ty d)) ∧
    (InAllotment g b [(d, 1), (x, 1)] → StoreForm s c g b h false (.stspLong h d x imm)
      (fun e => e.scratchAccess x imm.toInt 4 .store false) (fun e => e.storeBytes .i32 d)) ∧
    (InAllotment g b [(d, width ty.is64), (x, 1), (y, 1)] → StoreForm s c g b h (ord == .rel) (.stsg h ty sc ord d x y)
      (fun e => e.windowAccess x y (tyBytes ty) .store (ord == .rel)) (fun e => e.storeBytes ty d))

/-- A plain write to device memory is read back at once by the party that made it, whatever writes were there before, and leaves every other
byte as it reads to everybody; nothing changes in the view of another die, and a thread's store, which others on its die need not see yet,
changes no view and no other party's reading at all. That, and when a store shows on its die, is the model's reading of R308, log entry
20. -/
def Obligations.DeviceWriteReadsBack : Prop :=
  ∀ (s t : State) (die gid band lane : Nat) (bs : List (Key × Byte)), (∀ w ∈ s.writes, w.id < s.nextId) →
    t = s.writeBytes die gid band lane .device bs →
    (∀ k x, tabGet bs k = some x → t.readByte die gid band lane .device k = x) ∧
    (∀ k, tabGet bs k = none → (∀ d, t.viewByte d k = s.viewByte d k) ∧
      ∀ d gid' band' lane' sp, t.readByte d gid' band' lane' sp k = s.readByte d gid' band' lane' sp k) ∧
    (∀ k d, d ≠ die → t.viewByte d k = s.viewByte d k) ∧
    (lane < engineLane → (∀ k d, t.viewByte d k = s.viewByte d k) ∧
      ∀ k d gid' band' lane', (gid', band', lane') ≠ (gid, band, lane) →
        t.readByte d gid' band' lane' .device k = s.readByte d gid' band' lane' .device k)

/-- Memory reads as it was written: after a list of bytes at different keys is put, each key reads its byte and every other key as before.
That unwritten memory reads as 0 is the model's choice, log entry 6. -/
def Obligations.MemoryReadsAsWritten : Prop :=
  ∀ (m : List Host.Cell) (bs : List (Key × Byte)), Memory.wf m = true → (bs.map (·.1)).Nodup →
    (∀ k x, (k, x) ∈ bs → memGet (memPut m bs) k = x) ∧ ∀ k, (∀ p ∈ bs, p.1 ≠ k) → memGet (memPut m bs) k = memGet m k

/-- A load's return writes its sampled value into its destination, a V register, an O register or both registers of a V pair, and into its
places in the last-result queue, where they still wait for it; nothing waits for it any longer, and nothing else changes. When a load samples
is the model's choice, log entry 4. -/
def Obligations.LoadReturnWrites : Prop :=
  ∀ (s : State) (r : LoadRec), s.loads.find? (fun q => q.id == r.id && !q.atomic) = some r → s.eccBad = [] →
    Completes s r (.loadReturn r.id 0 0)

/-- Each atomic, when every lane's access is performed, is one read-modify-write a lane, in ascending order, each returning the old value,
and every lane goes on: AADD, AMIN and AMAX compute on the type, AAND, AOR and AXOR on bits, AXCH and ACAS exchange, AFADD rounds the exact
sum. The home die of a page is the model's choice, log entry 8. -/
def Obligations.AtomicsPerform : Prop :=
  ∀ (s : State) (c : Slot) (g : Group) (b : Band) (h : Hdr) (ty t : Ty) (sc : Scope) (ord : Ord) (ar : Bool) (d x y z : Opd),
    Issuing s c g b → t = ty.or .i32 →
    InAllotment g b [(d, width ty.is64), (x, 2), (y, width ty.is64), (z, width ty.is64)] →
    AtomicForm s c g b h ty ord sc d (.aadd h ty sc ord d x y) (fun e => e.handleAccess none x 0 (tyBytes ty) ⟨rtA, tyBytes ty < 4, false⟩ true)
      (fun e old => some (intNarrow (tySigned t) false t.bits
        ((· + ·) (readInt (tySigned t) t.bits old) (readInt (tySigned t) t.bits (e.read ty.is64 y).toNat)))) ∧
    AtomicForm s c g b h ty ord sc d (.amin h ty sc ord d x y) (fun e => e.handleAccess none x 0 (tyBytes ty) ⟨rtA, true, false⟩ true)
      (fun e old => some (intNarrow (tySigned t) false t.bits
        (min (readInt (tySigned t) t.bits old) (readInt (tySigned t) t.bits (e.read ty.is64 y).toNat)))) ∧
    AtomicForm s c g b h ty ord sc d (.amax h ty sc ord d x y) (fun e => e.handleAccess none x 0 (tyBytes ty) ⟨rtA, true, false⟩ true)
      (fun e old => some (intNarrow (tySigned t) false t.bits
        (max (readInt (tySigned t) t.bits old) (readInt (tySigned t) t.bits (e.read ty.is64 y).toNat)))) ∧
    AtomicForm s c g b h ty ord sc d (.aand h ty sc ord d x y) (fun e => e.handleAccess none x 0 (tyBytes ty) ⟨rtA, true, false⟩ true)
      (fun e old => some (old &&& (e.read ty.is64 y).toNat)) ∧
    AtomicForm s c g b h ty ord sc d (.aor h ty sc ord d x y) (fun e => e.handleAccess none x 0 (tyBytes ty) ⟨rtA, true, false⟩ true)
      (fun e old => some (old ||| (e.read ty.is64 y).toNat)) ∧
    AtomicForm s c g b h ty ord sc d (.axor h ty sc ord d x y) (fun e => e.handleAccess none x 0 (tyBytes ty) ⟨rtA, true, false⟩ true)
      (fun e old => some (old ^^^ (e.read ty.is64 y).toNat)) ∧
    AtomicForm s c g b h ty ord sc d (.axch h ty sc ord d x y) (fun e => e.handleAccess none x 0 (tyBytes ty) ⟨rtA, tyBytes ty < 4, false⟩ true)
      (fun e _ => some ((e.read ty.is64 y).toNat)) ∧
    AtomicForm s c g b h ty (if ar then .ar else .none) sc d (.acas h ty sc ar d x y z)
      (fun e => e.handleAccess none x 0 (tyBytes ty) ⟨rtR ||| rtA, false, false⟩ true)
      (fun e old => if old = (e.read ty.is64 y).toNat % 2 ^ (8 * tyBytes ty)
        then some ((e.read ty.is64 z).toNat % 2 ^ (8 * tyBytes ty)) else none) ∧
    (¬(ty.or .f32 = .f16 ∨ ty.or .f32 = .bf16) →
      AtomicForm s c g b h ty ord sc d (.afadd h ty sc ord d x y)
        (fun e => e.handleAccess none x 0 ((ty.or .f32).bits / 8) ⟨rtA, true, false⟩ true)
        (fun e old => some ((fmtOf (ty.or .f32)).result .rn false
          (FV.sum .rn [(fmtOf (ty.or .f32)).read old, e.fval (ty.or .f32) false y])).1)) ∧
    (ty.or .f32 = .f16 ∨ ty.or .f32 = .bf16 →
      AtomicForm s c g b h ty ord sc d (.afadd h ty sc ord d x y) (fun e => e.handleAccess none x 0 4 ⟨rtA, true, false⟩ true)
        (fun e old => some
          (((fmtOf (ty.or .f32)).result .rn false
            (FV.sum .rn [(fmtOf (ty.or .f32)).read (elemOf 16 0 old), e.half (ty.or .f32) false 0 y])).1 +
          ((fmtOf (ty.or .f32)).result .rn false
            (FV.sum .rn [(fmtOf (ty.or .f32)).read (elemOf 16 1 old), e.half (ty.or .f32) false 1 y])).1 * 65536)))

/-- PUSH and POP, when every lane's access is performed and memory holds no error: PUSH writes the run of registers at the lane's stack
offset and raises it, POP reads the run below and lowers it, and no other byte or register changes; the pages they touch enter the core's
translation cache. -/
def Obligations.PrivateStack : Prop :=
  ∀ (s : State) (c : Slot) (g : Group) (b : Band) (h : Hdr) (cnt : BitVec 4) (d : Opd) (i : BitVec 8) (n : Nat), Issuing s c g b →
    n = cnt.toNat + 1 → InAllotment g b [(d, 1), (.v i, n)] → s.eccBad = [] → Canonical s → DeviceWrites s →
    (AllPerformed (accessesOf s c g b h fun e => stackAccess e ((e.read32 d).toNat : Int) (4 * n) .store) →
      ∃ t : State, exec (.push h cnt d (.v i)) s = .next t ∧ t.writes = s.writes ∧
        (∀ k, k ∉ keysOf (accessesOf s c g b h fun e => stackAccess e ((e.read32 d).toNat : Int) (4 * n) .store) →
          memGet t.mem k = memGet s.mem k) ∧
        ∀ (l : Nat) (th : Thread), c.active.getLsbD l = true → b.threads[l]? = some th →
          ∃ th' : Thread, t.thread? c.gid c.band l = some th' ∧ th'.pc = c.next ∧ th'.wait = .none ∧
            if laneGuard h th then
              Result32 d (Env.read32 ⟨s, c, g, b, th, l⟩ d + BitVec.ofNat 32 (4 * n)) 0 { th with demoted := false, spin := none, nap := 0 } th' ∧
                ∀ j < n, t.privWord c.gid c.band l ((Env.read32 ⟨s, c, g, b, th, l⟩ d).toNat + 4 * j) = th.getV (i.toNat + j)
            else Kept c.next th th') ∧
    (AllPerformed (accessesOf s c g b h fun e => stackAccess e (((e.read32 d).toNat : Int) - 4 * n) (4 * n) .load) →
      ∃ (t : State) (b' : Band), exec (.pop h cnt d (.v i)) s = .next t ∧
        OnlyBand (s.cachePages g.core g.ctx c.gid c.band (accessesOf s c g b h fun e => stackAccess e (((e.read32 d).toNat : Int) - 4 * n) (4 * n)
          .load)) t c.gid c.band b' ∧ t.mem = s.mem ∧
        Lanes b b' c.active fun l th th' => if laneGuard h th then
          ∃ x : Word, x = Env.read32 ⟨s, c, g, b, th, l⟩ d - BitVec.ofNat 32 (4 * n) ∧
            (∀ k, th'.getV k = if isV d k then x else if i.toNat ≤ k ∧ k < i.toNat + n
              then s.privWord c.gid c.band l (x.toNat + 4 * (k - i.toNat)) else th.getV k) ∧
            (∀ k, th'.getO k = if isO d k then x else th.getO k) ∧ th'.lq = ⟨⟨x, none, false⟩, th.lq.l0, th.lq.l1, th.lq.l2⟩ ∧
            th'.fflags = th.fflags ∧ th'.p = th.p ∧ th'.pc = c.next ∧ th'.wait = .none
        else WentOn c.next th th')

/-- PFET never holds a lane and changes no byte; FENCE holds the guarded lanes whose stores at its scope are not acknowledged, unless it only
acquires, and makes acquires of their earlier loads, unless it only releases; with no write under way it changes no byte. When a fence
completes is read as log entries 13 and 26 read it. A releasing fence stays with its threads at its scope, with all that happens before it,
which their later writes publish. -/
def Obligations.PrefetchAndFence : Prop :=
  ∀ (s : State) (c : Slot) (g : Group) (b : Band) (h : Hdr) (tr : Bool) (x y : Opd) (sc : Scope) (fk : FenceKind), Issuing s c g b →
    (InAllotment g b [(x, 2), (y, 1)] →
      ∃ t, exec (.pfet h tr x y) s = .next t ∧ t.mem = s.mem ∧ t.writes = s.writes ∧ WritesNoB t c b) ∧
    ∃ t : State, exec (.fence h sc fk) s = .next t ∧ (s.writes = [] → s.posted = [] → t.mem = s.mem ∧ t.writes = [] ∧ t.posted = []) ∧
      (fk ≠ .rel → ∀ r ∈ s.loads, r.gid = c.gid → r.band = c.band → (guarded h c b).getLsbD r.lane = true → r.atomic = false →
        ∃ r' ∈ t.loads, r'.acq.isSome = true ∧ r' = { r with acq := r'.acq }) ∧
      ∀ (l : Nat) (th : Thread), c.active.getLsbD l = true → b.threads[l]? = some th →
        ∃ th' u : Thread, t.thread? c.gid c.band l = some th' ∧
          (u = if laneGuard h th = true ∧ fk ≠ .acq then th.fenced sc ((fenceOrdered s c.gid g.die sc).before c.gid) else th) ∧
          if laneGuard h th = true ∧ fk ≠ .acq ∧ (fenced s c g (guarded h c b) sc fk).unacked g.die c.gid c.band l sc
              (fenced s c g (guarded h c b) sc fk).nextId = true
          then Waits (.fence sc (fenced s c g (guarded h c b) sc fk).nextId) c.next u th' else WentOn c.next u th'

/-- SYMST by the guarded canonical lanes, when every access and image of theirs is performed, its writes have room for their acknowledgements
and memory holds no error: in lane order each writes its primary and its images, S.FIXED rises by the lanes that meet a conflict, and every
lane goes on. The handle's offset is unused, log entry 27. -/
def Obligations.SymmetricStores : Prop :=
  ∀ (s : State) (c : Slot) (g : Group) (b : Band) (h : Hdr) (ty : Ty) (cpx : Bool) (d a : Opd) (i : BitVec 8) (n : Nat) (x : Context)
    (k : Launch) (ls : List SymLane) (all : List Key) (v : State), Issuing s c g b → n = (if cpx then 8 else tyBytes ty) →
    InAllotment g b [(d, width (n == 8)), (a, 2), (.v i, 3)] → s.ctx? g.ctx = some x → s.launch? g.curLid = some k → s.eccBad = [] →
    ls = ((laneEnvs s c g b (guarded h c b)).filter fun e => e.t.canon).map (fun e =>
      symCheck s x e (if k.block.sym then k.block.gens else []) k.block.extents ty cpx n (e.read true a)
        ((e.t.getV i.toNat).toNat, (e.t.getV (i.toNat + 1)).toNat, (e.t.getV (i.toNat + 2)).toNat) (e.read (n == 8) d)) →
    (∀ q ∈ ls, q.res.row = 8) → (∀ q ∈ ls, s.ackRoom c.gid c.band q.items.length [q.lane] = true) →
    all = ls.flatMap (fun q => q.items.flatMap fun i => i.2.1) →
    v = (ls.foldl (fun s q => s.freezeLoads c.gid c.band q.lane)
      (s.cachePages g.core g.ctx c.gid c.band (ls.flatMap (·.images)))).freezeSplit c g.die all →
    ∃ u t : State, u = ls.foldl (fun s' q => s'.symWrites c s.nextId g.die q) (if guarded h c b = 0 then v else v.storeIssued c.gid) ∧
      exec (.symst h ty cpx d a (.v i)) s = .next t ∧ t.mem = u.mem ∧ t.writes = u.writes ∧ t.posted = u.posted ∧
      (t.launch? g.curLid).map (·.fixed) =
        some (BitVec.ofNat 32 (min (k.fixed.toNat + (ls.filter (·.conflict)).length) 0xFFFFFFFF)) ∧
      ∀ (l : Nat) (th : Thread), c.active.getLsbD l = true → b.threads[l]? = some th →
        ∃ th' : Thread, t.thread? c.gid c.band l = some th' ∧ Kept c.next th th'

/-! ### The matrix engine (R205 to R229) -/

/-- The matrix commands of the whole band, with operands that pass their checks and room: each joins the core's queue once, in every lane's
open batch; MMA also raises the band's count, and waits where the twin rule says so; where the rule shares it, both twins' commands join the
queue together, the even band's first, both counts rise and the lanes of both go on. -/
def Obligations.MatrixCommandsIssue : Prop :=
  ∀ (s : State) (c : Slot) (g : Group) (b : Band) (h : Hdr) (ty ty2 : Ty) (scl : Bool) (k : BitVec 4) (x y z : Opd) (e : Env),
    Issuing s c g b → Whole h c b → e = bandEnv s c g b →
    (mmaBad g (e.read32 x).toNat (e.read32 y).toNat ty ty2 scl (e.read32 z) = false →
      (h.hy = .s ∨ s.twinRule c.gid c.band c.pc = .go →
        EngineForm s c g b (.mma h ty ty2 scl (.acc k) x y z)
          (.mma k.toNat (e.read32 x).toNat (e.read32 y).toNat ty ty2 scl (if scl then e.read32 z else 0)) ∧
        (s.engineRoom g.core 1 (bandJoins c.gid c.band b) = true → ∀ t, exec (.mma h ty ty2 scl (.acc k) x y z) s = .next t →
          (t.band? c.gid c.band).map (·.mmaCount) = some (b.mmaCount + 1))) ∧
      (h.hy ≠ .s → s.twinRule c.gid c.band c.pc = .wait →
        SplitResult s c b (.mma h ty ty2 scl (.acc k) x y z) fun _ => Waits .twin c.next) ∧
      (∀ (w : Band) (u : Env) (kind : Env → MKind), h.hy ≠ .s → s.twinRule c.gid c.band c.pc = .share →
        s.band? c.gid (twinBand c.band) = some w → u = bandEnv s { c with band := twinBand c.band, active := w.live } g w →
        s.engineRoom g.core 2 (bandJoins c.gid c.band b ++ bandJoins c.gid (twinBand c.band) w) = true →
        (kind = fun v => .mma k.toNat (v.read32 x).toNat (v.read32 y).toNat ty ty2 scl (if scl then v.read32 z else 0)) →
        ∃ (t : State) (p q : MCmd), exec (.mma h ty ty2 scl (.acc k) x y z) s = .next t ∧
          (t.core g.core).mq = (s.core g.core).mq ++ [p, q] ∧ p.gid = c.gid ∧ q.gid = c.gid ∧ p.pc = c.pc ∧ q.pc = c.pc ∧
          p.band = min c.band (twinBand c.band) ∧ q.band = max c.band (twinBand c.band) ∧
          p.kind = kind (if c.band % 2 = 0 then e else u) ∧ q.kind = kind (if c.band % 2 = 0 then u else e) ∧
          (t.band? c.gid c.band).map (·.mmaCount) = some (b.mmaCount + 1) ∧
          (t.band? c.gid (twinBand c.band)).map (·.mmaCount) = some (w.mmaCount + 1) ∧
          (∀ (l : Nat) (th : Thread), b.live.getLsbD l = true → b.threads[l]? = some th →
            ∃ th' : Thread, t.thread? c.gid c.band l = some th' ∧ Kept c.next th th') ∧
          ∀ (l : Nat) (th : Thread), w.live.getLsbD l = true → w.threads[l]? = some th →
            ∃ th' : Thread, t.thread? c.gid (twinBand c.band) l = some th' ∧ Kept c.next th th')) ∧
    (-1024 ≤ (e.read32 x).toInt → (e.read32 x).toInt ≤ 1023 → s.openIssued g.core k.toNat = false →
      EngineForm s c g b (.mchb h (.acc k) x) (.mchb k.toNat (e.read32 x).toInt)) ∧
    (s.openIssued g.core k.toNat = true → EngineForm s c g b (.mche h (.acc k)) (.mche k.toNat)) ∧
    (s.openIssued g.core k.toNat = false →
      EngineForm s c g b (.accz h (.acc k)) (.accz k.toNat) ∧
      ((e.read32 x).toNat % 4 = 0 → g.inScratch (e.read32 x).toNat 256 = true →
        EngineForm s c g b (.accsc h (.acc k) x) (.accsc k.toNat (e.read32 x).toNat)) ∧
      ((e.read32 x).toNat % 256 = 0 → g.inScratch (e.read32 x).toNat (2 * planesOf ty * 256) = true →
        (scl = true → (e.read32 y).toNat % 256 = 0 ∧ g.inScratch (e.read32 y).toNat 512 = true) →
        EngineForm s c g b (.acccvt h ty scl (.acc k) x y)
          (.acccvt k.toNat ty scl (e.read32 x).toNat (if scl then (e.read32 y).toNat else 0))) ∧
      ((e.read32 y).toNat ≤ 63 → InAllotment g b [(x, 2)] →
        EngineForm s c g b (.sta h (.acc k) x y) (.sta k.toNat (e.read32 y).toNat ((laneEnvs s c g b c.active).map fun u =>
          (u.lane, (u.read true x).extractLsb' 0 32, (u.read true x).extractLsb' 32 32)))))

/-- LDA gives each lane its two elements of a row once no queued command names the tile; GUIDE waits for its twin's, and the later of the
two enters one command for both; PAIRX sets the pairing of a band with sleeves. -/
def Obligations.TileReadsAndPairs : Prop :=
  ∀ (s : State) (c : Slot) (g : Group) (b : Band) (h : Hdr) (k k2 : BitVec 4) (d x y : Opd) (rj : Bool) (e : Env),
    Issuing s c g b → e = bandEnv s c g b →
    (Whole h c b → s.openIssued g.core k.toNat = false →
      ((e.read32 y).toNat ≤ 63 → (∀ q ∈ (s.core g.core).mq, k.toNat ∉ q.kind.tiles) → InAllotment g b [(d, 2)] → s.eccBad = [] →
        SplitResult s c b (.lda h d (.acc k) y) (fun l th th' => th'.pc = c.next ∧ th'.wait = .none ∧
          Result64 d (tabGetD ((s.core g.core).tile k.toNat).acc (64 * (e.read32 y).toNat + 2 * l + 1) 0 ++
            tabGetD ((s.core g.core).tile k.toNat).acc (64 * (e.read32 y).toNat + 2 * l) 0) 0 th th')) ∧
      (∀ (o : Band) (w : Word), s.twinOf g c.band ≠ 0 → s.openIssued g.core k2.toNat = false →
        s.band? c.gid (twinBand c.band) = some o → o.live ≠ 0 → w = BitVec.ofNat 32 (e.fread .fp32 false x) →
        (o.guide = none → ∃ (t : State) (b' : Band), exec (.guide h (.acc k) (.acc k2) x) s = .next t ∧ OnlyBand s t c.gid c.band b' ∧
          b'.guide = some ⟨k.toNat, k2.toNat, w, c.pc, b.guideCount⟩ ∧
          ∀ (l : Nat) (th th' : Thread), c.active.getLsbD l = true → b.threads[l]? = some th → b'.threads[l]? = some th' →
            Waits .guide c.next th th') ∧
        (∀ p, o.guide = some p → p.d = k.toNat → p.w = w → s.openIssued g.core p.a = false →
          s.engineRoom g.core 1 (bandJoins c.gid c.band b ++ bandJoins c.gid (twinBand c.band) o) = true →
          ∃ (t : State) (cmd : MCmd), exec (.guide h (.acc k) (.acc k2) x) s = .next t ∧
            (t.core g.core).mq = (s.core g.core).mq ++ [cmd] ∧
            cmd.kind = .guide k.toNat (if c.band % 2 = 0 then k2.toNat else p.a) (if c.band % 2 = 0 then p.a else k2.toNat) w ∧
            (t.band? c.gid c.band).map (·.guideCount) = some (b.guideCount + 1) ∧
            (t.band? c.gid (twinBand c.band)).map (fun u => (u.guide, u.guideCount)) = some (none, o.guideCount + 1)))) ∧
    BandResult s c g b h (.pairx h rj) (fun u b' => b' = if s.twinOf g c.band = 0 then u.b else { u.b with paired := rj })

/-- The commands as the engine applies them in a core whose halt line is low: a step rounds each exact sum of an element and its 32 products
once, or adds the truncated products to the open chain and sets its NaN and infinity bits; MCHB, MCHE, ACCZ, ACCSC, STA and GUIDE give their
tile what they say; an operand's word may be read ahead of the rest, once. That MCHB is a write of its tile is log entry 31. -/
def Obligations.MatrixCommandsApply : Prop :=
  ∀ (s : State) (core id : Nat) (cmd : MCmd), s.startable core id = some cmd → s.eccBad = [] →
    (∀ off : Nat, off ∈ cmd.kind.reads → tabGet cmd.got off = none → ((s.core core).mq.map (·.id)).Nodup →
      ∃ t : State, exec (.mmaStep core (.read id off)) s = .next t ∧ exec (.accscApply core (.read id off)) s = .next t ∧ t.mem = s.mem ∧
        (t.core core).tiles = (s.core core).tiles ∧
        ((t.core core).mq.find? fun q => q.id == id) = some { cmd with got := tabSet cmd.got off (s.scratchWord cmd.gid off) }) ∧
    (∀ (tile a b : Nat) (fa fb : Ty) (scl : Bool) (sw : Word) (as bs : List (List FV)) (sa sb : Nat) (rd : Nat → Nat),
      cmd.kind = .mma tile a b fa fb scl sw → rd = s.cmdWord cmd → sa = (sw.extractLsb' 0 16).toNat * 256 → sb = (sw.extractLsb' 16 16).toNat * 256 →
      (takesScale fa scl = true → scaleBad rd sa a fa = false) → (takesScale fb scl = true → scaleBad rd sb b fb = false) →
      as = operandRows rd a fa (if takesScale fa scl then some sa else none) →
      bs = operandRows rd b fb (if takesScale fb scl then some sb else none) →
      CommandApplied s core id tile (.mmaStep core (.apply id)) fun x x' =>
        (x.chain = none → x' = { x with acc := x'.acc } ∧ ∀ i < 64, ∀ j < 64, tabGetD x'.acc (64 * i + j) 0 =
          toFp32 (FV.sum .rn (tileElem x (64 * i + j) :: List.zipWith FV.mul (as.getD i []) (bs.getD j [])))) ∧
        (∀ ch, x.chain = some ch → ∃ ch', x' = { x with chain := some ch' } ∧ ch'.anchor = ch.anchor ∧
          ch'.acc0 = ch.acc0 ∧ ∀ i < 64, ∀ j < 64, ∀ ps, ps = List.zipWith FV.mul (as.getD i []) (bs.getD j []) →
            tabGetD ch'.sums (64 * i + j) 0 = tabGetD ch.sums (64 * i + j) 0 + (ps.map (truncTo (ch.anchor - 160))).sum ∧
            (tabGetD ch'.spec (64 * i + j) 0).testBit 0 = ((tabGetD ch.spec (64 * i + j) 0).testBit 0 || ps.any FV.isNan) ∧
            (tabGetD ch'.spec (64 * i + j) 0).testBit 1 = ((tabGetD ch.spec (64 * i + j) 0).testBit 1 || ps.contains (.inf false)) ∧
            (tabGetD ch'.spec (64 * i + j) 0).testBit 2 = ((tabGetD ch.spec (64 * i + j) 0).testBit 2 || ps.contains (.inf true)))) ∧
    (∀ (tile : Nat) (a : Int), cmd.kind = .mchb tile a →
      CommandApplied s core id tile (.mchbApply core id) fun x x' => x' = { x with chain := some ⟨a, x.acc, [], []⟩ }) ∧
    (∀ tile : Nat, cmd.kind = .mche tile →
      CommandApplied s core id tile (.mcheApply core id) fun x x' => (x.chain = none → x' = x) ∧
        ∀ ch, x.chain = some ch → x' = { x with acc := x'.acc, ovf := x'.ovf, chain := none } ∧
          (∀ k < 4096, tabGetD x'.acc k 0 = (foldElem ch k).1) ∧
          x'.ovf = (x.ovf || (List.range 4096).any fun k => (foldElem ch k).2)) ∧
    (∀ tile : Nat, cmd.kind = .accz tile →
      CommandApplied s core id tile (.acczApply core id) fun x x' => x' = { x with acc := x'.acc, ovf := false } ∧ ∀ k, tabGetD x'.acc k 0 = 0) ∧
    (∀ (tile off : Nat), cmd.kind = .accsc tile off →
      CommandApplied s core id tile (.accscApply core (.apply id)) fun x x' => x' = { x with acc := x'.acc } ∧ ∀ k < 4096,
        tabGetD x'.acc k 0 = toFp32 (FV.mul (tileElem x k) (Fmt.fp32.read (s.cmdWord cmd (off + 4 * (k / 64)))))) ∧
    (∀ (tile row : Nat) (vals : List (Nat × Word × Word)), cmd.kind = .sta tile row vals → (vals.map (·.1)).Nodup →
      CommandApplied s core id tile (.staApply core id) fun x x' => x' = { x with acc := x'.acc } ∧
        (∀ v ∈ vals, tabGetD x'.acc (64 * row + 2 * v.1) 0 = v.2.1 ∧ tabGetD x'.acc (64 * row + 2 * v.1 + 1) 0 = v.2.2) ∧
        ∀ k, (∀ v ∈ vals, k ≠ 64 * row + 2 * v.1 ∧ k ≠ 64 * row + 2 * v.1 + 1) → tabGetD x'.acc k 0 = tabGetD x.acc k 0) ∧
    (∀ (d cc u : Nat) (w : Word), cmd.kind = .guide d cc u w →
      CommandApplied s core id d (.guideApply core id) fun x x' => x' = { x with acc := x'.acc } ∧ ∀ k < 4096,
        tabGetD x'.acc k 0 = toFp32 (FV.sum .rn [tileElem ((s.core core).tile u) k, (Fmt.fp32.read w.toNat).mul
          (FV.sum .rn [tileElem ((s.core core).tile cc) k, (tileElem ((s.core core).tile u) k).negate])]))

/-- ACCCVT as the engine applies it, its outputs apart: each half of the tile becomes a plane tile of converted elements, scaled where it
scales by the row's exponent, which stands in the half's scale tile. A twin wait that need not last retries its MMA. The order of commands
of different tiles is log entry 54. -/
def Obligations.TileConversion : Prop :=
  (∀ (s : State) (core id : Nat) (cmd : MCmd) (tile out sout : Nat) (ty : Ty) (scl : Bool) (row : Nat → Nat → List FV),
    s.startable core id = some cmd → cmd.kind = .acccvt tile ty scl out sout → Canonical s → s.eccBad = [] →
    (scl = true → out + 2 * planesOf ty * 256 ≤ sout ∨ sout + 512 ≤ out) →
    (row = fun hf i => (List.range 32).map fun k => tileElem ((s.core core).tile tile) (64 * i + 32 * hf + k)) →
    ∃ t : State, exec (.acccvtApply core id) s = .next t ∧ (∀ q ∈ (t.core core).mq, q.id ≠ id) ∧
      (∀ j, (t.core core).tile j = (s.core core).tile j) ∧
      ∀ hf < 2, ∀ i < 64,
        planeRow (t.scratchWord cmd.gid) (out + hf * planesOf ty * 256) ty i = (row hf i).map (fun v =>
          cvtElem ty (if scl then blockExp (cvtTop ty) (row hf i) else 0) v % 2 ^ planesOf ty) ∧
        (scl = true → scaleEntry (t.scratchWord cmd.gid) (sout + 256 * hf) i = ((blockExp (cvtTop ty) (row hf i) + 127).toNat, 0))) ∧
  ∀ (s : State) (gid band : Nat) (b : Band) (th : Thread), s.frozen gid = false → s.band? gid band = some b →
    b.threads.find? (fun t => t.here && t.wait == .twin) = some th → s.twinRule gid band th.pc ≠ .wait →
    ∃ t, exec (.twinWaitResolve gid band) s = .next t ∧ ∀ (l : Nat) (u : Thread), l < 32 → b.threads[l]? = some u →
      t.thread? gid band l = some (if u.wait = .twin then u.retry else u)

/-! ### The copy engine (R205 to R220) -/

/-- The copies, with accesses that are all performed and room: COPYL moves one piece for each guarded lane, COPYT a row in parts, a
plane tile or a scale tile to its destination or to each receiver, COPYG one element for each index. That these are the pieces a copy
lands in is the model's division, log entry 28. -/
def Obligations.CopiesStart : Prop :=
  ∀ (s : State) (c : Slot) (g : Group) (b : Band) (h : Hdr) (sz : CopySz) (d a : Opd) (e : Env) (o : Nat), Issuing s c g b → s.eccBad = [] →
    e = bandEnv s c g b → o = (e.read32 a).toNat →
    (∀ (n : Nat) (ends : List (CEnd × CEnd)), n = copyBytes sz → InAllotment g b [(d, 2), (a, 2)] →
      (∀ l th, c.active.getLsbD l = true → b.threads[l]? = some th → th.here = true) →
      ends = (laneEnvs s c g b (guarded h c b)).map (fun u =>
        (s.mkEnd c.gid (some u.lane) (hsel (u.read true a)) (hoff (u.read true a)),
          s.mkEnd c.gid (some u.lane) (hsel (u.read true d)) (hoff (u.read true d)))) →
      CopyStarts s c g b (guarded h c b) (.copyl h sz d a)
        (ends.flatMap fun p => [⟨p.1.lane.getD 0, p.1.handle, (s.endAtIssue c.gid c.band p.1 n .copyFrom).orIllegal (p.1.off % (n : Int) != 0)⟩,
          ⟨p.2.lane.getD 0, p.2.handle, (s.endAtIssue c.gid c.band p.2 n .copyTo).orIllegal (p.2.off % (n : Int) != 0)⟩]) false
        (ends.map fun p => ⟨[p.1], p.2, n, none, none, none, [], [], false, false⟩)
        none none) ∧
    (∀ (bs : List Byte) (t : TileDesc) (srcs : List CEnd) (land : Nat) (dsts : List Int) (parts : List (List CEnd))
      (row : List CEnd × CEnd → List Piece), Whole h c b →
      o % 64 = 0 → g.inScratch o 128 = true → bs = s.scratchBytes c o 128 → tileDesc g bs = some t →
      srcs = (List.range t.rows).map (fun r : Nat => s.mkEnd c.gid none (hsel t.src) ((hoff t.src : Int) + (r : Int) * t.srcStride)) →
      land = (match t.planes with | some ty => 256 * planesOf ty | none => t.rowBytes) →
      dsts = (List.range (if t.planes.isSome then 1 else t.rows)).map (fun r : Nat => (hoff t.dst : Int) + (r : Int) * t.dstStride) →
      parts = (if t.planes.isSome then [srcs] else srcs.map fun x => [x]) →
      row = (fun p => if t.planes.isSome then [⟨p.1, p.2, t.rowBytes, t.planes, none, none, [], [], false, false⟩]
        else (partsOf t.rowBytes).map fun q => ⟨p.1.map fun x => { x with off := x.off + q.1 }, { p.2 with off := p.2.off + q.1 }, q.2, none,
          if t.scales then some t.bound else none, none, [], [], false, false⟩) →
      (∀ gs, t.mcast = true → s.receivers g t.mask (dsts.map fun x => (x, land)) = some gs →
        CopyStarts s c g b b.live (.copyt h a) (srcs.map fun x => s.endAccess c.gid c.band x t.rowBytes .copyFrom) true
          ((parts.zip dsts).flatMap fun p => gs.flatMap fun r => row (p.1, ⟨0xFFFE, p.2, none, some r⟩))
          (t.arrv.map fun i => (i, gs)) t.follow) ∧
      (∀ ends, t.mcast = false → ends = dsts.map (fun x => s.mkEnd c.gid none (hsel t.dst) x) →
        CopyStarts s c g b b.live (.copyt h a)
          ((srcs.map fun x => s.endAccess c.gid c.band x t.rowBytes .copyFrom) ++ ends.map fun x => s.endAccess c.gid c.band x land .copyTo) true
          ((parts.zip ends).flatMap row)
          (t.arrv.map fun i => (i, ((ends.head?).bind (·.gid)).toList)) t.follow)) ∧
    (∀ (bs : List Byte) (n cnt list : Nat) (src dst : W64) (pairs : List (CEnd × CEnd)), Whole h c b → o % 64 = 0 → g.inScratch o 64 = true →
      bs = s.scratchBytes c o 64 → gatherSize (leAt bs 0 1) = some n → cnt = leAt bs 2 2 → list = leAt bs 4 4 →
      src = BitVec.ofNat 64 (leAt bs 8 8) → dst = BitVec.ofNat 64 (leAt bs 0x10 8) → zeroAt bs 1 1 = true → zeroAt bs 0x1C 36 = true →
      1 ≤ cnt → cnt ≤ 4096 → list % 4 = 0 → g.inScratch list (4 * cnt) = true →
      pairs = (List.range cnt).map (fun k : Nat =>
        (s.mkEnd c.gid none (hsel src) ((hoff src + natOfBytes (s.scratchBytes c (list + 4 * k) 4) * leAt bs 0x18 4 : Nat) : Int),
          s.mkEnd c.gid none (hsel dst) ((hoff dst + k * n : Nat) : Int))) →
      CopyStarts s c g b b.live (.copyg h a)
        (pairs.flatMap fun p => [⟨0, p.1.handle, (s.endAtIssue c.gid c.band p.1 n .copyFrom).orIllegal (p.1.off % (n : Int) != 0)⟩,
          ⟨0, p.2.handle, (s.endAtIssue c.gid c.band p.2 n .copyTo).orIllegal (p.2.off % (n : Int) != 0)⟩]) true
        (pairs.map fun p => ⟨[p.1], p.2, n, none, none, none, [], [], false, false⟩) none none)

/-- A piece of a copy whose line operations may go on and of which nothing has landed yet writes its value at its destination and no other
byte, and is landed; the copy with no follow-on MMA is over with its last piece; a piece for which the core has no room, or whose context's
line is high, does not start. A unit of a piece may land ahead of the rest. A piece whose source or destination meets an error fails the copy.
The pieces and units a copy lands in are the model's, log entry 28. -/
def Obligations.CopiesLandOrFail : Prop :=
  ∀ (s : State) (id i : Nat) (cp : Copy) (p : Piece), s.copies.find? (fun q => q.id == id) = some cp → cp.landed = false →
    cp.pieces[i]? = some p → p.landed = false → (s.pieceUp cp p = false → exec (.copyLanding id (.start i)) s = .next s) ∧
    (s.pieceUp cp p = true → ∀ u : State, u = s.landSource cp p →
    (∃ t : State, exec (.copyLanding id (.start i)) s = .next t ∧ t.mem = u.mem ∧ t.writes = u.writes ∧
      ∃ cp' ∈ t.copies, cp'.id = id ∧ (cp'.pieces[i]?) = some { p with started := true }) ∧
    (∀ (bs : List Byte) (space : Space) (ks : List Key), u.pieceSource cp p = .ok bs → u.pieceTarget cp p = .ok (space, ks) →
      (p.out = [] → ∃ t : State, exec (.copyLanding id (.land i)) s = .next t ∧
        (cp.arrv = none ∨ s.writes = [] ∧ s.posted = [] →
          (space = .single ∨ (space = .scratch ∨ space = .peer) ∧ u.posted = [] → t.mem = memPut u.mem (ks.zip (p.value bs))) ∧
          (space = .device → t.mem = u.mem ∧ (ks.zip (p.value bs) ≠ [] → ∃ w ∈ t.writes, w.bytes = bytesAt ks (p.value bs) ∧
            w.die = dieOf cp.core ∧ w.applied = [dieOf cp.core])) ∧
          (∀ port, space = .host port → t.mem = u.mem ∧ (ks.zip (p.value bs) ≠ [] → ∃ w ∈ t.posted, w.port = port ∧
            w.bytes = bytesAt ks (p.value bs) ∧ cp.gid ∈ w.vis))) ∧
        ((∃ j q, j ≠ i ∧ cp.pieces[j]? = some q ∧ q.landed = false) →
          ∃ cp' ∈ t.copies, cp'.id = id ∧ cp'.landed = false ∧ (cp'.pieces[i]?).map (·.landed) = some true) ∧
        ((∀ j q, j ≠ i → cp.pieces[j]? = some q → q.landed = true) → cp.follow = none → ∀ q ∈ t.copies, q.id ≠ id)) ∧
      ∀ k, u.byUnits cp i p = true → k ∉ p.out → cp.unit p * k < ks.length →
        space = .single ∨ (space = .scratch ∨ space = .peer) ∧ u.posted = [] →
        ∃ t : State, exec (.copyLanding id (.write i k)) s = .next t ∧ t.writes = u.writes ∧
          t.mem = memPut u.mem (((ks.zip (p.value bs)).drop (cp.unit p * k)).take (cp.unit p))) ∧
    ∀ (e : CEnd) (dir : Nat) (v t : State) (j : Instr), (j = .copyLanding id (.land i) ∧ v = u ∨ j = .copyFault id i ∧ v = s) →
      t = v.failEnd cp e (if dir = 0 then p.n else p.landBytes) dir →
      (v.pieceSource cp p = .error (true, e) ∧ dir = 0 ∨
        (∃ bs, v.pieceSource cp p = .ok bs) ∧ v.pieceTarget cp p = .error (true, e) ∧ dir = 1) →
      exec j s = .next t ∧ (∀ q ∈ t.copies, q.id ≠ id) ∧
        (∀ x, s.ctx? cp.ctx = some x → x.escalate = false →
          (t.ctx? cp.ctx).map (·.eventSeq) = some (x.eventSeq + 1) ∧ ∀ g, t.group? cp.gid = some g → g.place = .ended) ∧
        ∀ x, s.ctx? cp.ctx = some x → x.escalate = true → (s.core cp.core).cFault = none → (t.ctx? cp.ctx).map (·.line) = some true ∧
          (t.core cp.core).cFault.map (fun f => (f.reason, f.pc)) = some (rCopyerr, some cp.pc))

/-! ### Mailboxes and work graphs (R230 to R254) -/

/-- MBXTAKE hands the next accepted record to the scratchpad and its sequence to the pair, or gives 0 under TR, or waits; MBXPOST gives
the next sequence where the ring has room, and otherwise gives 0 under TR, or waits; MBXDONE completes a sequence that was taken and
moves the watermark over what is done. -/
def Obligations.MailboxInstructions : Prop :=
  ∀ (s : State) (c : Slot) (g : Group) (b : Band) (h : Hdr) (tr : Bool) (d x y : Opd) (m o : Nat) (mb : Mailbox), Issuing s c g b →
    Whole h c b → m = ((bandEnv s c g b).read32 x).toNat → o = ((bandEnv s c g b).read32 y).toNat → m ≤ 63 → s.mbx? g.ctx m = some mb →
    mb.enabled = true →
    (o % 8 = 0 → g.inScratch o 56 = true → mb.toHost = false → mb.launcher = false →
      (mb.nextTake ≤ mb.accepted →
        ∃ t : State, exec (.mbxtake h tr d x y) s = .next t ∧ WritesPair t c b d (BitVec.ofNat 64 mb.nextTake) ∧
          (Canonical s → ∀ i < 56, ∀ v, ((tabGet mb.recs mb.nextTake).getD [])[i]? = some v → memGet t.mem (scratchKey c.gid (o + i)) = v) ∧
          (s.writes = [] → s.posted = [] → t.writes = [] ∧ t.posted = [] ∧
            t.mem = memPut s.mem (((List.range 56).map fun i => scratchKey c.gid (o + i)).zip ((tabGet mb.recs mb.nextTake).getD []))) ∧
          t.mbx? g.ctx m = some { mb with taken := (mb.nextTake + 1) % 2 ^ 64 }) ∧
      (mb.accepted < mb.nextTake → tr = true →
        ∃ t : State, exec (.mbxtake h tr d x y) s = .next t ∧ WritesPair t c b d 0 ∧ t.mem = s.mem ∧ t.ctxs = s.ctxs) ∧
      (mb.accepted < mb.nextTake → tr = false →
        SplitResult s c b (.mbxtake h tr d x y) fun _ => Waits (.queue (.take m)) c.next)) ∧
    (o % 8 = 0 → g.inScratch o 56 = true → mb.toHost = true → s.eccBad = [] →
      ((mb.accepted : Int) - mb.consumed < mb.slots →
        ∃ t : State, exec (.mbxpost h tr d x y) s = .next t ∧ WritesPair t c b d (BitVec.ofNat 64 (mb.accepted + 1)) ∧
          t.mbx? g.ctx m = some { mb with accepted := (mb.accepted + 1) % 2 ^ 64 }) ∧
      ((mb.slots : Int) ≤ (mb.accepted : Int) - mb.consumed → tr = true →
        ∃ t : State, exec (.mbxpost h tr d x y) s = .next t ∧ WritesPair t c b d 0 ∧ t.mem = s.mem ∧ t.ctxs = s.ctxs) ∧
      ((mb.slots : Int) ≤ (mb.accepted : Int) - mb.consumed → tr = false →
        SplitResult s c b (.mbxpost h tr d x y) fun _ => Waits (.queue (.post m)) c.next)) ∧
    ∀ q : Nat, q = (b.getBPair (pairB y)).toNat → mb.toHost = false → mb.launcher = false → mb.watermark < q → q < mb.taken → q ∉ mb.done →
      ∃ t : State, exec (.mbxdone h d x y) s = .next t ∧ WritesNoB t c b ∧
        t.mbx? g.ctx m = some { mb with
          done := (q :: mb.done).filter (markOf mb.watermark (q :: mb.done) < ·), watermark := markOf mb.watermark (q :: mb.done),
          recs := tabDel mb.recs q }

/-- A host's side of a mailbox: a valid submission queues its records; each is accepted in order with its 56 bytes; waiting lanes retry
when a record or a slot is there; MAILBOX_SET gives the context the mailbox its descriptor says. That records still to be accepted count
as accepted in a submission's test, and that MAILBOX_SET takes over only the consumed count, are the model's readings, log entry 22. -/
def Obligations.MailboxEvents : Prop :=
  (∀ (s : State) (ctx m : Nat) (mb : Mailbox), s.mbx? ctx m = some mb →
    (∀ (store : List Byte) (tail n d : Nat), tail = numAt store 0 4 → n = numAt store 4 2 + 1 →
      d = (tail + 2 ^ 32 - (mb.accepted + mb.incoming.length) % 2 ^ 32) % 2 ^ 32 → s.level ≠ 0 → s.shut = false →
      (s.port mb.port).tdi ≠ Tdi.error →
      store.length = 64 → numAt store 6 2 < 2 → mb.toHost = false → mb.enabled = true → 0 < d → d ≤ n → n ≤ mb.slots →
      mb.accepted + mb.incoming.length - (mb.watermark + mb.done.length) + d ≤ mb.slots →
      ∃ t : State, exec (.mailboxSubmit ctx m store) s = .next t ∧ t.mem = s.mem ∧ t.mbx? ctx m = some { mb with
        incoming := mb.incoming ++ (List.range d).map fun i => ((mb.accepted + mb.incoming.length + i + 1) % 2 ^ 64, i + 1 == d,
          if numAt store 6 2 = 1 ∧ i + n = d then some (store.drop 8) else none) }) ∧
    (∀ seq last inl rest, s.ensignRuns = true → s.eccBad = [] → mb.incoming = (seq, last, inl) :: rest →
      ∃ (t : State) (bs : List Byte), exec (.recordAccept ctx m) s = .next t ∧
        t.mbx? ctx m = some { mb with accepted := seq, incoming := rest, recs := tabSet mb.recs seq bs } ∧ 56 ≤ bs.length ∧
        (∀ x, inl = some x → bs = x ++ List.replicate (56 - x.length) 0) ∧ (last = false → s.writes = [] → t.mem = s.mem)) ∧
    (∀ (gid band : Nat) (g : Group) (b : Band), s.frozen gid = false → s.group? gid = some g → g.bands[band]? = some b → g.ctx = ctx →
      (mb.nextTake ≤ mb.accepted → ∃ t, exec (.mbxtakeWake gid band) s = .next t ∧ ∀ (l : Nat) (th : Thread), l < 32 →
        b.threads[l]? = some th → th.wait = .queue (.take m) → t.thread? gid band l = some th.retry) ∧
      ((mb.accepted : Int) - mb.consumed < mb.slots → ∃ t, exec (.mbxpostWake gid band) s = .next t ∧ ∀ (l : Nat) (th : Thread), l < 32 →
        b.threads[l]? = some th → th.wait = .queue (.post m) → t.thread? gid band l = some th.retry))) ∧
  ∀ (s : State) (m : Nat) (r : Req) (desc : List Byte) (x : Context) (new : Mailbox), Served s r → s.leads r.party = true →
    s.ctx? r.ctx = some x → m ≤ 63 → mailboxOf x desc ((partyPort r.party).getD 0) = some new →
    Answered s r 0 (.mailboxSet r m desc) fun t => ∃ mb, t.mbx? r.ctx m = some mb ∧ mb.consumed = new.consumed ∧ mb.slots = new.slots ∧
      mb.ring = new.ring ∧ mb.ack = new.ack ∧ mb.compl = new.compl ∧ mb.toHost = new.toHost ∧ mb.launcher = new.launcher ∧
      mb.enabled = new.enabled

/-- REC puts the guarded lanes' records into the gather buffers of their nodes where there is room, and the lanes go on; RECGET writes and
pushes a record's words and then says whether the thread has one; a buffer that holds a group's records, or whose countdown has run out,
launches one group with them, through bind records of the policy while the ensign pair runs, and in host-assisted mode leaves the placement to
the lease holder. The key of a gather buffer is the model's, log entry 40, and so is that the policy places only while the pair runs, log
entry 84. -/
def Obligations.WorkGraphRecords : Prop :=
  (∀ (s u : State) (c : Slot) (g : Group) (b : Band) (h : Hdr) (gr : BitVec 8) (i : BitVec 8) (a : Opd) (x : Context) (part : Nat)
    (items : List (Env × Access × Option Block)) (recs : List (W64 × List Byte × Nat)), Issuing s c g b → InAllotment g b [(.v i, 1), (a, 2)] →
    s.eccBad = [] → s.ctx? g.ctx = some x → part = partOf g.core →
    u = (laneEnvs s c g b (guarded h c b)).foldl (fun v e =>
      v.landAt c.gid c.band e.lane (e.access (hsel (e.read true a)) (hoff (e.read true a)) 128 .load false).res) s →
    items = (laneEnvs u c g b (guarded h c b)).map (fun e =>
      match (e.access (hsel (e.read true a)) (hoff (e.read true a)) 128 .load false).res with
      | .ok sp ks =>
        (e, e.access (hsel (e.read true a)) (hoff (e.read true a)) 128 .load false,
          (x.block (ks.map fun k => u.readByte g.die c.gid c.band e.lane sp k) 1).filter fun n =>
            n.isNode && i.toNat + (n.recBytes + 3) / 4 ≤ allotment g b)
      | _ => (e, e.access (hsel (e.read true a)) (hoff (e.read true a)) 128 .load false, none)) →
    (∀ q ∈ items, q.2.1.res.row = 8 ∧ q.2.2.isSome = true) →
    recs = items.filterMap (fun q => q.2.2.map fun n => (q.2.1.h, recordOf q.1.t i.toNat n.recBytes, n.countdown)) →
    (∀ r ∈ recs, (s.part part).recordsOf g.ctx r.1 (g.graphOr gr.toNat) + (recs.filter fun q => q.1 == r.1).length ≤ 4096) →
    ∃ t : State, exec (.recEmit h gr (.v i) a) s = .next t ∧
      t.part part = recs.foldl (fun p r => p.addRecord g.ctx r.1 (g.graphOr gr.toNat) r.2.2 r.2.1) (s.part part) ∧ WritesNoB t c b) ∧
  (∀ (s : State) (c : Slot) (g : Group) (b : Band) (h : Hdr) (i : BitVec 8) (p : BitVec 3) (k : Nat), Issuing s c g b →
    InAllotment g b [(.v i, 1)] → g.node = true → g.inl = [] → k = (((s.launch? g.lid).map (·.block.recBytes)).getD 0 + 3) / 4 →
    i.toNat + k ≤ allotment g b → i.toNat + k ≤ 256 →
    ∃ (t : State) (b' : Band), exec (.recget h (.v i) (.p p)) s = .next t ∧ t.band? c.gid c.band = some b' ∧
      (s.writes = [] → t.mem = s.mem ∧ t.writes = []) ∧ Lanes b b' c.active fun _ th th' => th'.spin = (if laneGuard h th then none else th.spin) ∧ th'.pc = c.next ∧
      th'.wait = .none ∧ if laneGuard h th then
        (∀ r, th'.getV r = if i.toNat ≤ r ∧ r < i.toNat + k
          then BitVec.ofNat 32 (natOfBytes (((th.record.getD []).drop (4 * (r - i.toNat))).take 4)) else th.getV r) ∧
        (∀ q, th'.getP q = if isPred (.p p) q then th.record.isSome else th.getP q) ∧
        th'.lq.l0 = ⟨if th.record.isSome then 1 else 0, none, false⟩ ∧ th'.o = th.o
      else th'.v = th.v ∧ th'.p = th.p ∧ th'.lq = th.lq) ∧
  ∀ (s s2 : State) (part k lid : Nat) (pol : Policy) (q : Gather) (x : Context) (bs : List Byte) (blk : Block) (s1 : State),
    (s.part part).gathers[k]? = some q → s.ctx? q.ctx = some x → s.devRead q.ctx q.handle 0 128 = some bs → x.block bs 1 = some blk →
    q.records ≠ [] → ((q.running = true ∧ q.count = 0) ∨ blk.perGroup ≤ q.records.length) → pol.parts = [part] →
    (lid, s1) = s.newLaunch q.ctx blk.oneGroup q.handle 0 none none (some q.graph) (q.records.take (max blk.perGroup 1)) →
    (if s.mode.getLsbD 1 then (if s.ensignRuns then s1.writeBinds lid pol else none) else some s1) = some s2 →
    ∃ t : State, exec (.nodeCountdownExpiry part k pol) s = .next t ∧ t.launches = s2.launches ∧ t.cores = s2.cores ∧
      ∀ p ∈ (t.part part).gathers, p.records ≠ []

/-- FORK by the whole group, its operands agreed and its block readable: with room in the child queue the child is sent there and the
parent leaves its seats; with none, a child that may run inline starts in the group, where no load of it is on its way; another is spilled,
where the spill queue has room, and the parent leaves its seats, or else the group halts. A spilled child moves into a queue with room, an
inline child's last thread ends it, and a saved parent without running children gets its RESUME record. The lanes an inline child runs on
are log entry 17; that the policy finishes the placement of a launch before it takes the oldest child is the model's choice, log entry
72. -/
def Obligations.ForkAndChildren : Prop :=
  (∀ (s u : State) (c : Slot) (g : Group) (b : Band) (h : Hdr) (d x y : Opd) (hd arg : W64) (cnt : Word) (cx : Context) (sp : Space)
    (ks : List Key) (blk : Block) (sent : State → Child → Prop), Issuing s c g b → c.active = b.live → s.eccBad = [] → g.place ≠ .ended →
    s.midStep c.gid = false →
    (∀ i b', i ≠ c.band → g.bands[i]? = some b' → gatheredAt b' c.pc = true) →
    g.agreeAt (forkArgs s c g d x y) = some (hd, cnt, arg) → g.agree (bandGuard h) = some true → cnt ≠ 0 → cnt.toNat ≤ 65535 →
    s.ctx? g.ctx = some cx → s.resolve c.gid c.band 0 (hsel hd) (hoff hd) 128 .load = .ok sp ks →
    u = s.landAt c.gid c.band 0 (.ok sp ks) → cx.block (ks.map fun k => u.readByte g.die c.gid c.band 0 sp k) cnt.toNat = some blk →
    (sent = fun t ch => exec (.fork h d x y) s = .next t ∧ ch.handle = hd ∧ ch.arg = arg ∧ ch.count = cnt.toNat ∧ ch.parent = c.gid ∧
      ∃ g' : Group, t.group? c.gid = some g' ∧ g'.place = .forked ∧ g'.moving = true ∧
        ∀ b' ∈ g'.bands, b'.held = 0 ∧ b'.chunks = [] ∧ ∀ th ∈ b'.threads, th.here = true → th.pc = c.next) →
    ((s.part (partOf g.core)).children.length < 64 →
      ∃ t ch, sent t ch ∧ (t.part (partOf g.core)).children = (s.part (partOf g.core)).children ++ [ch]) ∧
    (64 ≤ (s.part (partOf g.core)).children.length → canInline g blk = false →
      (hsel cx.spill ≠ 0 → cx.spillQ.length < cx.spillCap →
        ∃ t ch, sent t ch ∧ t.parts = s.parts ∧ (t.ctx? g.ctx).map (·.spillQ) = some (cx.spillQ ++ [ch])) ∧
      (hsel cx.spill = 0 ∨ cx.spillCap ≤ cx.spillQ.length → exec (.fork h d x y) s = .next (u.haltGroup c.gid rWorkOverflow))) ∧
    (64 ≤ (s.part (partOf g.core)).children.length → canInline g blk = true →
      needGrowth g (frameAt cx.privMax g.budget (g.inl.length + 1) + 4 * (g.budget + 48)) = [] → s.fileErr g c.gid = none →
      (∀ r ∈ s.loads, r.gid ≠ c.gid) →
      (∃ n, Inline.issued ⟨blk, hd, arg, cnt.toNat, 0, 0, [], [], c.next⟩ (blk.clusters * Inline.units ⟨blk, hd, arg, cnt.toNat, 0, 0, [], [],
        c.next⟩) 0 = some n) →
      ∃ (t : State) (g' : Group) (f : Inline), exec (.fork h d x y) s = .next t ∧ t.parts = s.parts ∧ t.group? c.gid = some g' ∧
        g'.inl = f :: g.inl ∧ f.block = blk ∧ f.handle = hd ∧ f.arg = arg ∧ f.count = cnt.toNat ∧ f.next = c.next ∧
        g'.place = g.place ∧ ∀ (i : Nat) (b0 b' : Band), g.bands[i]? = some b0 → g'.bands[i]? = some b' →
          (∀ k, b'.getB k = if k = 0 then arg.extractLsb' 0 32 else if k = 1 then arg.extractLsb' 32 32 else 0) ∧ b'.q = 0 ∧ b'.held = 0 ∧
          ∀ (l : Nat) (th th' : Thread), b0.live.getLsbD l = true → b0.threads[l]? = some th → b'.threads[l]? = some th' →
            if 32 * i + l < blk.threads then
              th'.pc = ⟨blk.code, (blk.stages.headD ⟨0, 16, 1, 0⟩).entry⟩ ∧ th'.wait = .none ∧ th'.depth = 0 ∧ th'.xstack = [] ∧
                (∀ k, th'.getV k = 0 ∧ th'.getO k = 0) ∧ th'.p = 0
            else th'.wait = .inl)) ∧
  (∀ (s s1 : State) (part : Nat) (pol : Policy) (ch : Child) (rest : List Child), (s.part part).children = ch :: rest →
    s1 = s.modPart part (fun p => { p with children := rest }) → s.ensignRuns = true →
    (s.mode.getLsbD 1 = true →
      s.unfinished (fun lid l => l.mbx.isNone && (s.part part).owner == some l.ctx && !s.childWaits lid) = none) →
    (((s.launch? ch.lid).map (·.toCommit)).getD 0 = 0 ∨ s.mode.getLsbD 1 = false → exec (.childAdmit part pol) s = .next s1) ∧
    (∀ s2, ((s.launch? ch.lid).map (·.toCommit)).getD 0 ≠ 0 → s.mode.getLsbD 1 = true → s1.writeBinds ch.lid pol = some s2 →
      exec (.childAdmit part pol) s = .next s2 ∧
        ∀ l, s.launch? ch.lid = some l → (s2.launch? ch.lid).map (·.bound) = some (l.bound ++ l.unbound.take pol.parts.length))) ∧
  (∀ (s s2 : State) (part lid : Nat) (pol : Policy), s.ensignRuns = true → s.mode.getLsbD 1 = true →
    s.unfinished (fun lid l => l.mbx.isNone && (s.part part).owner == some l.ctx && !s.childWaits lid) = some lid →
    s.writeBinds lid pol = some s2 → exec (.childAdmit part pol) s = .next s2) ∧
  (∀ (s : State) (ctx part : Nat) (x : Context) (g : Group) (ch : Child) (rest : List Child), s.ctx? ctx = some x → x.spillQ = ch :: rest →
    s.ensignRuns = true → s.group? ch.parent = some g → partOf g.core = part → (s.part part).children.length < 64 →
    ∃ t, exec (.spillRefill ctx part) s = .next t ∧ (t.ctx? ctx).map (·.spillQ) = some rest ∧
      (t.part part).children = (s.part part).children ++ [ch]) ∧
  (∀ (s : State) (gid : Nat) (g : Group) (f : Inline), s.group? gid = some g → g.inl = [f] → s.frozen gid = false → s.eccBad = [] →
    (∀ b ∈ g.bands, ∀ th ∈ b.threads, th.here = false ∧ th.openOps = 0 ∧ th.sealed = []) →
    f.issued (f.block.clusters * f.units) (f.index + 1) = none →
    ∃ (t : State) (g' : Group), exec (.inlineChildEnd gid) s = .next t ∧ t.group? gid = some g' ∧ g'.inl = [] ∧
      ∀ (i l : Nat) (b' : Band) (th : Thread), g'.bands[i]? = some b' → b'.threads[l]? = some th → (f.masks.getD i 0).getLsbD l = true →
        th.pc = f.next ∧ th.wait = .none) ∧
  ∀ (s : State) (gid core cls : Nat) (g : Group), s.group? gid = some g → g.place = .forked → s.inShadow gid = false →
    (∀ p ∈ s.launches, p.2.parent = some gid → p.2.groupsLeft = 0) →
    (∀ p ∈ s.cores, ∀ r ∈ p.2.slots, r.kind = 2 → r.gid ≠ some gid) → partOf core = partOf g.core → cls ≤ 3 → s.mode.getLsbD 1 = true →
    s.ensignRuns = true → s.saving (partOf core) = none →
    (s.part (partOf core)).owner = some g.ctx → (s.core core).slots.length < 64 →
    ∃ (t : State) (r : BindRec), exec (.forkResume gid core cls) s = .next t ∧ (t.core core).slots = (s.core core).slots ++ [r] ∧
      r.kind = 2 ∧ r.gid = some gid ∧ r.cls = cls ∧ r.tag = (s.part (partOf core)).nextTag

/-- PHASE by the whole group with room: the group waits in its core's phase queue with its carried registers and no chunk; the head of the
queue is seated when it fits; a group pre-empted leaves its seats, while its context halts only once its partition is settled, a RESUME record
with the current tag restores it, a parent once its children have ended, and a move ends. What a phase does not carry is read as log entries 5
and 42 read it. -/
def Obligations.PhasesAndMoves : Prop :=
  (∀ (s : State) (c : Slot) (g : Group) (b : Band) (h : Hdr) (r : Carry), Issuing s c g b → c.active = b.live →
    (∀ i b', i ≠ c.band → g.bands[i]? = some b' → gatheredAt b' c.pc = true) → g.agree (bandGuard h) = some true →
    g.place ≠ .ended → r = s.carryAt g.ctx c.pc → r.bad = false → (∀ i ∈ r.v, i < g.curBudget) → (s.core g.core).phaseQ.length < 64 → (∀ q ∈ s.loads, q.gid ≠ c.gid) →
    ∃ (t : State) (g' : Group), exec (.phase h) s = .next t ∧ (t.core g.core).phaseQ = (s.core g.core).phaseQ ++ [c.gid] ∧
      t.group? c.gid = some g' ∧ g'.place = .phase ∧ t.mem = s.mem ∧
      ∀ (i l : Nat) (b' b0 : Band) (th th' : Thread), g.bands[i]? = some b0 → g'.bands[i]? = some b' → b0.threads[l]? = some th →
        b'.threads[l]? = some th' → b'.held = 0 ∧ (∀ k ∈ r.b, k < 64 → b'.getB k = b0.getB k) ∧
          (th.here = true → th'.pc = c.next ∧ th'.wait = .none ∧ ∀ k, th'.getV k = if k ∈ r.v then th.getV k else 0)) ∧
  (∀ (s s1 : State) (core gid : Nat) (rest : List Nat) (g : Group) (o' : Occ) (ps : List (Nat × Nat × Nat)),
    s1 = s.packSeats core (State.phaseOver core) →
    (s.core core).phaseQ = gid :: rest → s1.group? gid = some g → s.lineLow g.ctx = true → s.partRuns (partOf core) = true →
    Occ.place g.lid (s.poolOf g) g.budget (s1.sleeves g) g.bands.length (s1.occ core) [] = some (ps, o') → o'.regs 0 ≤ 1024 → o'.regs 1 ≤ 1024 →
    ∃ t : State, exec (.phaseReseat core) s = .next t ∧ (t.core core).phaseQ = rest ∧ (t.group? gid).map (·.place) = some .seated) ∧
  (∀ (s : State) (gid : Nat) (g : Group), s.group? gid = some g → g.place = .seated → g.moving = false →
    s.midStep gid = false → s.eccBad = [] →
    (∀ x, s.ctx? g.ctx = some x → x.halt = .halting → s.settledOn x (partOf · == partOf g.core) = true) →
    ∃ (t : State) (g' : Group), exec (.groupPreempt gid) s = .next t ∧ t.group? gid = some g' ∧ g'.place = .preempted ∧ g'.moving = true ∧
      g'.saveQ = (s.core g.core).mq.filter (fun q => q.gid == gid) ∧ ∀ q ∈ (t.core g.core).mq, q.gid ≠ gid) ∧
  (∀ (s : State) (gid : Nat) (g : Group), s.group? gid = some g →
    (g.place ≠ .seated → g.place ≠ .phase → s.landsStill gid = true → exec (.moveComplete gid) s = .next s) ∧
    (g.follows = [] ∧ (g.place = .seated ∨ g.place = .phase) ∨ g.place ≠ .seated ∧ g.place ≠ .phase ∧ s.landsStill gid = false →
      ∃ t, exec (.moveComplete gid) s = .next t ∧ t.group? gid = some { g with moving := false } ∧ ∀ k, k ≠ gid → t.group? k = s.group? k) ∧
    (g.place = .seated ∨ g.place = .phase → (s.core g.core).mq.length + g.follows.length ≤ 32 →
      ∃ t : State, exec (.moveComplete gid) s = .next t ∧ t.group? gid = some { g.markFollows with moving := false, follows := [] } ∧
        (t.core g.core).mq = (s.core g.core).mq ++ g.follows)) ∧
  ∀ (s s1 : State) (core gid : Nat) (r : BindRec) (g : Group) (ps : List (Nat × Nat × Nat × List Nat)) (base : Nat),
    s1 = s.packSeats core (State.restoreOver core g) →
    (s.core core).slots.head? = some r → r.kind = 2 → r.gid = some gid → s.group? gid = some g → r.rsv = false →
    (s.part (partOf core)).owner = some r.ctx → r.tag = (s.part (partOf core)).tag → s.partRuns (partOf core) = true → s.lineLow r.ctx = true →
    g.moving = false → (g.place = .forked ∨ g.place = .preempted) → (g.place = .forked → s.childRuns gid = false) → s.phaseFit core = none → s1.placeSaved core g (s1.occ core) = some (ps, base) →
    s.bringRoom gid core = true →
    (s.core core).mq.length + (g.saveQ ++ g.follows).length ≤ 32 →
    ∃ t : State, exec (.groupRestore core) s = .next t ∧ (t.group? gid).map (fun u => (u.place, u.core, u.moving)) = some (.seated, core, true) ∧
      (∀ (i : Nat) (b : Band), t.band? gid i = some b → b.cls = r.cls) ∧
      (t.core core).mq = (s.core core).mq ++ g.saveQ ++ g.follows ∧ (t.core core).slots = (s.core core).slots.drop 1 ∧
      (t.part (partOf core)).tag = (s.part (partOf core)).tag + 1

/-- ROLEQ takes a ticket and gives its slot once the slot's state matches, and publishes or frees a slot; a waiting ticket completes when
its slot matches; DRAIN waits, and its pennant, white at an idle core it started from, lets it go on. -/
def Obligations.StageQueues : Prop :=
  (∀ (s u : State) (c : Slot) (g : Group) (b : Band) (h : Hdr) (d x y : Opd) (q : StageQ) (e : Env), Issuing s c g b → Whole h c b →
    e = bandEnv s c g b → s.eccBad = [] → u = s.landLanes c → u.stageQ g.cid (e.read32 x).toNat = .ok q → Canonical s → DeviceWrites s → (q.off + 16 ≤ q.ring ∨ q.ring + q.slots * q.size ≤ q.off) →
    (s.posted = [] →
      TicketForm s c b (.roleqRes h d x) q false (e.read32 x).toNat d ∧ TicketForm s c b (.roleqTake h d x) q true (e.read32 x).toNat d) ∧
    (u.slotState q (e.read32 y) = e.read32 y → ∃ t : State, exec (.roleqPub h x y) s = .next t ∧ WritesNoB t c b ∧
      t.slotState q (e.read32 y) = e.read32 y + 1) ∧
    (u.slotState q (e.read32 y) = e.read32 y + 1 → ∃ t : State, exec (.roleqFree h x y) s = .next t ∧ WritesNoB t c b ∧
      t.slotState q (e.read32 y) = e.read32 y + BitVec.ofNat 32 q.slots)) ∧
  (∀ (s : State) (gid band q0 : Nat) (g : Group) (b : Band) (k : Word) (tk : Bool) (d : BitVec 6) (q : StageQ), s.group? gid = some g →
    s.frozen gid = false → s.eccBad = [] → g.bands[band]? = some b → b.roleqWait = some (q0, k, tk, d) → s.stageQ g.cid q0 = .ok q →
    s.slotState q k = (if tk then k + 1 else k) →
    ∃ (t : State) (b' : Band), exec (.roleqWake gid band) s = .next t ∧ t.band? gid band = some b' ∧ b'.getBPair d.toNat = q.result k ∧
      ∀ (l : Nat) (th : Thread), b.threads[l]? = some th → b'.threads[l]? = some (if th.here then th.release else th)) ∧
  (∀ (s : State) (c : Slot) (g : Group) (b : Band) (h : Hdr) (x : Opd) (n : Nat) (cx : Context), Issuing s c g b → Whole h c b →
    n = ((bandEnv s c g b).read32 x).toNat → n ≤ 255 → g.graph ≠ some n → s.ctx? g.ctx = some cx → (∀ p ∈ cx.pennants, p.graph ≠ n) →
    (∀ q ∈ s.shadows, q.2.partition.owner = some g.ctx → ∀ p ∈ q.2.pennants, p.graph ≠ n) →
    ∃ t : State, exec (.drain h x) s = .next t ∧
      (t.ctx? g.ctx).map (·.pennants) = some (cx.pennants ++ [⟨n, c.gid, c.band, g.core, g.core, false, false⟩]) ∧
      ∀ (l : Nat) (th : Thread), c.active.getLsbD l = true → b.threads[l]? = some th → ∃ th' : Thread,
        t.thread? c.gid c.band l = some th' ∧ th'.wait = .queue (.drain n) ∧ th'.next = c.next ∧ th'.v = th.v) ∧
  ∀ (s : State) (ctx graph : Nat) (cx : Context) (p : Pennant) (g : Group) (b : Band), s.ctx? ctx = some cx →
    cx.pennants.find? (fun q => q.graph == graph) = some p → s.group? p.gid = some g → g.place = .seated → g.moving = false →
    s.frozen p.gid = false → g.bands[p.band]? = some b → s.memberIdle ctx graph p.at_ = true →
    (p.moved = true → p.at_ = p.start → p.black = false →
      ∃ t, exec (.pennantPass ctx graph) s = .next t ∧ ∀ (l : Nat) (th : Thread), b.threads[l]? = some th →
        th.wait = .queue (.drain graph) → t.thread? p.gid p.band l = some th.release) ∧
    (p.moved = false → (∀ q ∈ s.shadows, q.2.partition.owner = some ctx → (graph, p.at_) ∉ q.2.blacks) → ∃ (t : State) (cx' : Context) (p' : Pennant), exec (.pennantPass ctx graph) s = .next t ∧ t.ctx? ctx = some cx' ∧
      cx'.pennants.find? (fun q => q.graph == graph) = some p' ∧ p'.at_ = afterIn (s.ring ctx graph p.start) p.at_ ∧ p'.moved = true ∧
      p'.black = (p.black || cx.blacks.contains (graph, p.at_)) ∧ (graph, p.at_) ∉ cx'.blacks)

/-! ### Links and segments (R255 to R282) -/

/-- LBIND binds an UNBOUND entry and says whether it did; LUNB gives up a BOUND or FAILED one, waits while it resolves, and says false
otherwise; LQRY reports an entry; a search that ends binds or fails it; a finished unbind lets its band go on and is answered, whatever
has become of the entry since; a host's UNBIND does as LUNB. The value of a response for which R345 states none is free, log entry 45. -/
def Obligations.LinkTable : Prop :=
  (∀ (s : State) (c : Slot) (g : Group) (b : Band) (h : Hdr) (slot : BitVec 12) (q : BitVec 3) (d y : Opd) (a : Option Opd) (sel : BitVec 16)
    (x : Binding) (cx : Context), Issuing s c g b → (bandEnv s c g b).codeSel a = some sel → slot.toNat < s.slotCount g.ctx sel →
    s.binding? g.ctx sel slot = some x → s.ctx? g.ctx = some cx →
    (Whole h c b → selFixed (hsel (b.getBPair (pairB y))) = false → (cx.desc (hsel (b.getBPair (pairB y)))).kind ≠ 0 →
      ∃ (t : State) (b' : Band), exec (.lbind h slot (.q q) a y) s = .next t ∧ t.band? c.gid c.band = some b' ∧ b'.b = b.b ∧
        (∀ k, b'.getQ k = if isPred (.q q) k then decide (x.state = .unbound) else b.getQ k) ∧
        t.binding? g.ctx sel slot = some (if x.state = .unbound
          then { x with state := .bound, target := b.getBPair (pairB y), position := 0xFF } else x)) ∧
    (Whole h c b →
      (x.state = .resolving → SplitResult s c b (.lunb h slot (.q q) a) fun _ => Waits (.unbind sel slot q false) c.next) ∧
      (x.state = .bound ∨ x.state = .failed → ∃ t : State, exec (.lunb h slot (.q q) a) s = .next t ∧
        t.binding? g.ctx sel slot = some (if x.state = .bound ∧ x.inflight ≠ 0 then { x with state := .revoked, gen := x.gen + 1 }
          else if x.state = .bound then { x with state := .unbound, gen := x.gen + 1, target := 0, position := 0xFF }
          else { x with state := .unbound, gen := x.gen + 1 }) ∧
        ∀ (l : Nat) (th : Thread), c.active.getLsbD l = true → b.threads[l]? = some th →
          t.thread? c.gid c.band l = some (th.hold (.unbind sel slot q true) c.next)) ∧
      (x.state = .unbound ∨ x.state = .revoked → ∃ (t : State) (b' : Band), exec (.lunb h slot (.q q) a) s = .next t ∧
        t.band? c.gid c.band = some b' ∧ b'.b = b.b ∧ (∀ k, b'.getQ k = if isPred (.q q) k then false else b.getQ k) ∧
        t.binding? g.ctx sel slot = some x)) ∧
    (bandGuard h b = true → ∃ t : State, exec (.lqry h slot d a) s = .next t ∧ WritesPair t c b d (x.words.2 ++ x.words.1))) ∧
  (∀ (s : State) (ctx sel slot : Nat) (x : Context) (e : Binding), s.ctx? ctx = some x →
    s.binding? ctx (BitVec.ofNat 16 sel) (BitVec.ofNat 12 slot) = some e → e.state = .resolving →
    (∀ k pos target r, e.event = none → s.ensignRuns = true →
      s.search x ((((tabGet x.codes sel).map (·.imports)).getD []).getD slot ⟨0, 0, []⟩) e.order 0 0 = (k, some (pos, target, r)) →
      ∃ t : State, exec (.nameResolution ctx sel slot) s = .next t ∧ t.binding? ctx (BitVec.ofNat 16 sel) (BitVec.ofNat 12 slot) =
        some { e with state := .bound, target := target, position := pos, parked := 0, event := none, rights := r }) ∧
    (e.event = some 0 ∨ (e.event = none ∧ s.ensignRuns = true ∧
        ∃ k, s.search x ((((tabGet x.codes sel).map (·.imports)).getD []).getD slot ⟨0, 0, []⟩) e.order 0 0 = (k, none)) →
      ∃ t : State, exec (.nameResolution ctx sel slot) s = .next t ∧ t.binding? ctx (BitVec.ofNat 16 sel) (BitVec.ofNat 12 slot) =
        some { e with state := .failed, parked := 0, event := none })) ∧
  (∀ (s : State) (ctx sel slot gid band : Nat) (g : Group) (b : Band) (q : BitVec 3) (th : Thread), (gid, g) ∈ s.groups →
    s.group? gid = some g → g.ctx = ctx → s.frozen gid = false → g.bands[band]? = some b →
    b.threads.find? (fun t => match t.wait with
      | .unbind a k _ _ => a == BitVec.ofNat 16 sel && k == BitVec.ofNat 12 slot
      | _ => false) = some th → th.wait = .unbind (BitVec.ofNat 16 sel) (BitVec.ofNat 12 slot) q true →
    ∃ (t : State) (b' : Band), exec (.unbindComplete ctx sel slot) s = .next t ∧ t.band? gid band = some b' ∧
      (∀ k, b'.getQ k = if isPred (.q q) k then true else b.getQ k) ∧
      ∀ l : Nat, b.threads[l]? = some th → b'.threads[l]? = some th.release) ∧
  (∀ (s : State) (ctx sel slot : Nat) (e : Binding) (r : Req),
    s.binding? ctx (BitVec.ofNat 16 sel) (BitVec.ofNat 12 slot) = some e → e.pendingUnbind = [(true, r)] →
    ∃ (t : State) (e' : Binding), exec (.unbindComplete ctx sel slot) s = .next t ∧
      t.binding? ctx (BitVec.ofNat 16 sel) (BitVec.ofNat 12 slot) = some e' ∧ e'.pendingUnbind = [] ∧
      t.resps = s.resps ++ [⟨r.party, r.tag, 0, e'.words.2 ++ e'.words.1⟩]) ∧
  ∀ (s : State) (r : Req) (args : List Byte) (x : Context) (e : Binding) (sel : BitVec 16) (slot : BitVec 12), Served s r →
    s.leads r.party = true → s.ctx? r.ctx = some x → sel = BitVec.ofNat 16 (leAt args 0 2) → slot = BitVec.ofNat 12 (leAt args 2 2) →
    s.binding? r.ctx sel slot = some e → args.length = 48 → zeroAt args 4 44 = true → leAt args 2 2 < 4096 →
    (e.state = .bound ∨ e.state = .failed ∨ e.state = .resolving → ∃ (t : State) (e' : Binding), exec (.unbind r args) s = .next t ∧
      t.binding? r.ctx sel slot = some e' ∧ e'.pendingUnbind = e.pendingUnbind ++ [(decide (e.state ≠ .resolving), r)] ∧
      e'.gen = (if e.state = .resolving then e.gen else e.gen + 1)) ∧
    (e.state = .unbound ∨ e.state = .revoked → ∃ t : State, exec (.unbind r args) s = .next t ∧
      t.resps = s.resps ++ [⟨r.party, r.tag, 0, e.words.2 ++ e.words.1⟩])

/-- SEGA and SEG_CREATE give the handle of a new segment whose descriptor is the template's, or a null handle where there is no room; SEGF
and SEG_FREE free one and raise its generation; SEGQ reads a word of a descriptor; SEGRT takes rights away. What the template holds and a
failure gives is read as log entries 18 and 46 read it. -/
def Obligations.SegmentTable : Prop :=
  (∀ (s : State) (c : Slot) (g : Group) (b : Band) (h : Hdr) (d x y : Opd) (wd : BitVec 4) (cx : Context) (o : Nat) (sel : BitVec 16)
    (hd : W64), Issuing s c g b → s.ctx? g.ctx = some cx → o = ((bandEnv s c g b).read32 x).toNat →
    sel = ((bandEnv s c g b).read32 x).extractLsb' 0 16 → hd = b.getBPair (pairB x) →
    (∀ tm, Whole h c b → g.inScratch o 64 = true → o % 64 = 0 → s.eccBad = [] →
      cx.template (((List.range 64).map fun i => scratchKey c.gid (o + i)).map (s.scratchByte c)) = some tm → tm.kind = 1 ∨ tm.kind = 6 →
      (∀ sl s', s.makeSeg g.ctx tm = some (sl, s') → ∃ t : State, exec (.sega h d x) s = .next t ∧ WritesPair t c b d (handleOf sl 0) ∧
        (t.ctx? g.ctx).map (·.desc sl) = some { tm with gen := (cx.desc sl).gen }) ∧
      (s.makeSeg g.ctx tm = none → ∃ t : State, exec (.sega h d x) s = .next t ∧ WritesPair t c b d 0 ∧ t.ctxs = s.ctxs)) ∧
    (Whole h c b → selFixed (hsel hd) = false → (cx.desc (hsel hd)).kind = 1 ∨ (cx.desc (hsel hd)).kind = 6 →
      ∃ t : State, exec (.segf h x) s = .next t ∧ WritesNoB t c b ∧
        (t.ctx? g.ctx).map (·.desc (hsel hd)) = some { Desc.zero with gen := (cx.desc (hsel hd)).gen + 1 }) ∧
    (selFixed sel = false → ∀ i, BandResult s c g b h (.segq h wd (.b i) x)
      (fun e b' => ResultB (.b i) (BitVec.ofNat 32 (leAt (cx.desc sel).bytes (4 * wd.toNat) 4)) e.b b')) ∧
    (Whole h c b → selFixed sel = false → (cx.desc sel).kind ≠ 0 →
      ∃ t : State, exec (.segrt h x y) s = .next t ∧ WritesNoB t c b ∧ (t.ctx? g.ctx).map (·.desc sel) =
        some { cx.desc sel with rights := (cx.desc sel).rights &&& ((bandEnv s c g b).read32 y).extractLsb' 0 5 })) ∧
  ∀ (s : State) (r : Req) (bs : List Byte) (cx : Context) (sel : BitVec 16), Served s r → s.leads r.party = true → s.ctx? r.ctx = some cx →
    (∀ tm, cx.template bs = some tm → (tm.kind = 7 → s.conf = true) →
      (∀ sl s', s.makeSeg r.ctx { tm with port := (partyPort r.party).getD 0 } = some (sl, s') →
        ∃ t : State, exec (.segCreate r bs) s = .next t ∧ t.resps = s.resps ++ [⟨r.party, r.tag, 0, handleOf sl 0⟩] ∧
          (t.ctx? r.ctx).map (·.desc sl) = some { tm with port := (partyPort r.party).getD 0, gen := (cx.desc sl).gen }) ∧
      (s.makeSeg r.ctx { tm with port := (partyPort r.party).getD 0 } = none →
        ∃ t : State, exec (.segCreate r bs) s = .next t ∧ t.resps = s.resps ++ [⟨r.party, r.tag, 0, 0⟩] ∧ t.ctxs = s.ctxs)) ∧
    (selFixed sel = false → (cx.desc sel).kind ≠ 0 → (cx.desc sel).kind ≠ 4 →
      Answered s r 0 (.segFree r sel) fun t => (t.ctx? r.ctx).map (·.desc sel) = some { Desc.zero with gen := (cx.desc sel).gen + 1 }) ∧
    (selFixed sel = false → (cx.desc sel).kind = 4 → cx.number = r.ctx → (∀ p ∈ cx.bindings, hsel p.2.target = sel → p.2.inflight = 0) →
      Answered s r 0 (.segFree r sel) fun t => (t.ctx? r.ctx).map (fun y => (y.desc sel).kind) = some 0)

/-! ### Batches, barriers and counters (R283 to R298) -/

/-- SEAL closes a lane's batch, or waits while 16 are not complete; WAITB waits until at most its count are not; BAR and CBAR hold the
whole group, and the releases let go what their conditions say, CBAR's when every group of the cluster has arrived: what happens before the
CBAR of a group whose guard is true then happens before what each such group does next. -/
def Obligations.BatchesAndBarriers : Prop :=
  (∀ (s : State) (c : Slot) (g : Group) (b : Band) (h : Hdr) (x : Opd) (v : Bool) (cl : Cluster), Issuing s c g b →
    SplitResult s c b (.seal h) (fun _ th th' => if laneGuard h th then
      (16 ≤ th.sealed.length → Waits .seal c.next th th') ∧ (th.sealed.length < 16 → th'.batch = th.batch + 1 ∧ th'.openOps = 0 ∧
        th'.sealed.length + (th'.bdone - th.bdone).toNat = th.sealed.length + 1 ∧ Kept c.next th th') else WentOn c.next th th') ∧
    (InAllotment g b [(x, 1)] → SplitResult s c b (.waitb h x) fun l th th' =>
      if laneGuard h th = true ∧ (Env.read32 ⟨s, c, g, b, th, l⟩ x).toNat < (th.batch - th.bdone).toNat
      then Waits (.waitb (Env.read32 ⟨s, c, g, b, th, l⟩ x)) c.next th th' else WentOn c.next th th') ∧
    (c.active = b.live → (∀ i b', i ≠ c.band → g.bands[i]? = some b' → gatheredAt b' c.pc = true) → g.agree (bandGuard h) = some v →
      (∃ t : State, exec (.bar h) s = .next t ∧ (s.writes = [] → s.posted = [] → t.mem = s.mem ∧ t.writes = []) ∧ (v = true → ∀ r ∈ t.loads, r.gid = c.gid → r.frozen = true) ∧
        ∀ (i l : Nat) (b' : Band) (th : Thread), g.bands[i]? = some b' → b'.threads[l]? = some th →
          t.thread? c.gid i l = some (if th.here then th.hold (.bar v) c.next else th)) ∧
      (tabGet s.clusters g.cid = some cl → ∃ t : State, exec (.cbar h) s = .next t ∧
        (s.writes = [] → s.posted = [] → t.mem = s.mem ∧ t.writes = []) ∧
        tabGet t.clusters g.cid = some { cl with arrivals := cl.arrivals + 1 } ∧
        ∀ (i l : Nat) (b' : Band) (th : Thread), g.bands[i]? = some b' → b'.threads[l]? = some th →
          t.thread? c.gid i l = some (if th.here then th.hold (.cbar v true) c.next else th)))) ∧
  (∀ (s : State) (gid band lane : Nat) (g : Group) (b : Band) (th : Thread), s.group? gid = some g → s.frozen gid = false →
    g.bands[band]? = some b → b.threads[lane]? = some th →
    (th.wait = .seal → th.sealed.length < 16 → ∃ (t : State) (th' : Thread), exec (.sealRelease gid band lane) s = .next t ∧
      t.thread? gid band lane = some th' ∧ th'.batch = th.batch + 1 ∧ Kept th.next th th') ∧
    (∀ n, th.wait = .waitb n → (th.batch - th.bdone).toNat ≤ n.toNat → ∃ t, exec (.waitbRelease gid band lane) s = .next t ∧
      t.thread? gid band lane = some th.release) ∧
    (∀ v, th.wait = .bar v → ∃ t, exec (.barRelease gid) s = .next t ∧ t.thread? gid band lane = some th.release)) ∧
  ∀ (s : State) (cid : Nat) (cl : Cluster), tabGet s.clusters cid = some cl → cl.arrivals ≠ 0 → (s.clusterGroups cid).Nodup →
    cl.arrivals = (s.clusterGroups cid).length → (∀ gid ∈ s.clusterGroups cid, s.frozen gid = false) →
    ∃ t : State, exec (.cbarRelease cid) s = .next t ∧
      tabGet t.clusters cid = some { cl with arrivals := 0, generation := cl.generation + 1 } ∧
      (∀ (a d : Nat) (ga gd : Group), a ∈ s.clusterGroups cid → d ∈ s.clusterGroups cid → s.group? a = some ga → s.group? d = some gd →
        ga.cbarOrdered = true → gd.cbarOrdered = true → ∀ w ∈ t.writes, w.id ∈ s.before d → w.id ∈ t.before a) ∧
      ∀ (gid i l : Nat) (g : Group) (b : Band) (th : Thread), gid ∈ s.clusterGroups cid → s.group? gid = some g → g.arrived = true →
        g.bands[i]? = some b → b.threads[l]? = some th → t.thread? gid i l = some th.leaveCbar

/-- ARRIVE sends an arrival, which adds its count to its group's counter; AWAIT goes on when the counter has reached its target, or waits
until it has; SREAD gives a system register or a counter, and SWRITE sets S.FFLAGS of each guarded lane, or S.INLMAX. The class of a
counter's index operand is log entry 11, the count of cycles log entry 3. -/
def Obligations.CountersAndSpecialRegisters : Prop :=
  (∀ (s : State) (c : Slot) (g : Group) (b : Band) (h : Hdr) (rm : Bool) (d x y z : Opd) (i k : Nat) (n : Word) (e : Env), Issuing s c g b →
    e = bandEnv s c g b → i = (e.read32 x).toNat → n = e.read32 y → i ≤ 7 →
    (k = (e.read32 z).toNat → bandGuard h b = true → 1 ≤ n.toNat → n.toNat ≤ 65535 → (rm = true → k ≤ 191) →
      ∀ p, (if rm then s.inCluster g.cid k else some (c.gid, g)) = some p →
        ∃ t : State, exec (.arrive h rm x y z) s = .next t ∧ WritesNoB t c b ∧
          (s.writes = [] → s.posted = [] → t.mem = s.mem ∧ t.writes = []) ∧
          ∃ id, t.arrivals = s.arrivals ++ [⟨id, c.gid, c.band, c.active, p.1, i, n⟩]) ∧
    (bandGuard h b = true → (tabGetD g.arrive i 0 - n).toNat < 2 ^ 31 → ∃ (t : State) (b' : Band), exec (.await h x y) s = .next t ∧
      t.band? c.gid c.band = some b' ∧ Lanes b b' c.active (fun _ => WentOn c.next) ∧ (s.writes = [] → t.mem = s.mem ∧ t.writes = [])) ∧
    (bandGuard h b = true → 2 ^ 31 ≤ (tabGetD g.arrive i 0 - n).toNat →
      SplitResult s c b (.await h x y) fun _ => Waits (.await i n) c.next) ∧
    (∀ r : SReg, InAllotment g b [(d, width (r == .cyc))] →
      LaneResult s c g b h (.sread h false d (.s r)) fun u t' => Result (r == .cyc) d (u.sreg r) 0 u.t t') ∧
    (InAllotment g b [(d, 1)] → (∀ u ∈ participants s c g b h, (u.read32 y).toNat ≤ 7) →
      LaneResult s c g b h (.sread h true d y) fun u t' => Result32 d (tabGetD g.arrive (u.read32 y).toNat 0) 0 u.t t') ∧
    (InAllotment g b [(y, 1)] →
      LaneResult s c g b h (.swrite h (.s .fflags) y) (fun u t' =>
        t' = { u.t with
          fflags := u.read32 y &&& fflagsMask, lq := ⟨⟨u.read32 y &&& fflagsMask, none, false⟩, u.t.lq.l0, u.t.lq.l1, u.t.lq.l2⟩,
          pc := t'.pc, wait := t'.wait, pcChanged := t'.pcChanged }) ∧
      ((∀ u ∈ participants s c g b h, (u.read32 y).toNat ≤ 8) → ∃ t : State, exec (.swrite h (.s .inlmax) y) s = .next t ∧ WritesNoB t c b ∧
        (t.group? c.gid).map (·.inlmax) = some (((participants s c g b h).getLast?.map fun u => u.read32 y).getD g.inlmax)))) ∧
  (∀ (s : State) (a : Arrival) (g : Group), s.arrivals.find? (fun q => q.id == a.id) = some a → s.group? a.gid = some g → g.moving = false →
    ∃ t : State, exec (.arriveApply a.id) s = .next t ∧ (∀ q ∈ t.arrivals, q.id ≠ a.id) ∧ t.group? a.gid =
      some (if g.place = .ended then g else { g with arrive := tabSet g.arrive a.index (tabGetD g.arrive a.index 0 + a.n) })) ∧
  ∀ (s : State) (gid band l i : Nat) (n : Word) (g : Group) (b : Band) (th : Thread), s.group? gid = some g → s.frozen gid = false →
    g.bands[band]? = some b → b.threads[l]? = some th → th.wait = .await i n →
    ∃ t, exec (.awaitRelease gid band) s = .next t ∧
      t.thread? gid band l = some (if (tabGetD g.arrive i 0 - n).toNat < 2 ^ 31 then th.release else th)

/-! ### Schedule, placement and memory events (R17 to R30, R171 to R173, R188 to R204) -/

/-- The hardware's choices: a join release lets go the lanes whose JOIN is free; a gathered collective issues; a cycle raises the counters of
the cores named and issues the band chosen on each slice, after the ACQ.TRYs of the cycle before have been served; records are reserved with
the seats they are given, committed together, and launches take their records, the placement of one that is begun before another. Which event
comes next, how cycles count, where work is placed, and that a placement that is begun is finished first, are the model's choices, log entries
1, 3, 14, 15 and 72. -/
def Obligations.ScheduleAndPlacement : Prop :=
  (∀ (s : State) (gid band : Nat) (g : Group) (b : Band), s.group? gid = some g → g.bands[band]? = some b →
    (s.frozen gid = false → ∃ t, exec (.joinRelease gid band) s = .next t ∧ ∀ (l : Nat) (th : Thread), b.threads[l]? = some th →
      t.thread? gid band l = some (if joinFree b.threads th then th.release else th)) ∧
    (∀ p, b.gatheredAny = some p → s.canRun g.core g = true → b.fault = none →
      exec (.collectiveExecute gid band) s = .next { s with issueQ := s.issueQ ++ [slotOf gid band (p, b.live) false] })) ∧
  (∀ (s s1 : State) (core slice : Nat), s.partRuns (partOf core) = true → s1 = ({ s.endTries with cycle := s.cycle + 1, cycleId := s.nextId } : State).tick core →
    ∃ t : State, exec (.bandSelect [(core, slice)]) s = .next t ∧ t.cycle = s.cycle + 1 ∧ (t.core core).cyc = (s.core core).cyc + 1 ∧
      t.mem = s.mem ∧ t.issueQ = s.issueQ ++
        ((chooseBand (fun cls => tabGetD (s1.core core).rr (slice * 4 + cls) 0) (s1.readyBands core slice)).map (·.slots)).getD []) ∧
  (∀ (s : State) (core lid : Nat) (r : BindRec) (rest : List BindRec) (l : Launch) (ps : List (List (Nat × Nat × Nat) × Nat)) (o : Occ),
    (s.core core).slots = r :: rest →
    r.reserved = false → r.rsv = false → r.kind = 1 → (s.part (partOf core)).owner = some r.ctx → r.tag = (s.part (partOf core)).tag →
    s.partRuns (partOf core) = true → s.lineLow r.ctx = true → s.phaseFit core = none → r.lid = some lid → s.launch? lid = some l →
    Occ.gang lid (((s.ctx? l.ctx).map (·.pool)).getD 0) l.block.bands l.block.twin l.block.gang1 (s.reservedOcc core) = some (ps, o) →
    ∃ t : State, exec (.seating core) s = .next t ∧ (t.core core).slots =
      { r with reserved := true, hold := .zero, places := ps.map fun q => q.1.map fun p => (p.1, p.2.1) } :: rest) ∧
  (∀ (s s' : State) (part lid : Nat) (cs : List (Nat × Nat × List (Nat × BindRec))), s.admission part = some (lid, cs) →
    s.lineLow (((s.launch? lid).map (·.ctx)).getD 0) = true →
    (∀ p ∈ cs.map (·.1), s.tablesUsed p + (cs.filter fun k => k.1 == p).length ≤ 64 ∧ s.partRuns p = true) →
    (∀ k ∈ cs, ∀ q ∈ k.2.2, s.phaseFit q.1 = none) →
    cs.foldl (fun (a : Option State) k => a.bind fun s => s.seatCluster lid k.1 k.2.1 k.2.2) (some s) = some s' →
    ∃ t : State, exec (.admissionCommit part) s = .next t ∧ t.groups = s'.groups ∧ t.clusters = s'.clusters ∧
      ∀ p ∈ cs.map (·.1), (t.part p).tag = (s'.part p).tag + 1) ∧
  (∀ (s s2 : State) (ctx m lid : Nat) (pol : Policy) (mb : Mailbox) (x : Context), s.mbx? ctx m = some mb → s.ctx? ctx = some x →
    s.ensignRuns = true → s.mode.getLsbD 1 = true →
    s.unfinished (fun _ l => l.ctx == ctx && l.mbx.map (·.1) == some m) = some lid → s.writeBinds lid pol = some s2 →
    exec (.launchRecord ctx m pol) s = .next s2 ∧
      ∀ l, s.launch? lid = some l → (s2.launch? lid).map (·.bound) = some (l.bound ++ l.unbound.take pol.parts.length)) ∧
  ∀ (s s0 s1 : State) (ctx m q lid : Nat) (pol : Policy) (mb : Mailbox) (x : Context) (rec_ : List Byte) (hd arg : W64) (sp : Space)
    (ks : List Key) (blk : Block), s.mbx? ctx m = some mb → s.ctx? ctx = some x → mb.launcher = true → mb.enabled = true →
    s.ensignRuns = true → (s.mode.getLsbD 1 = true → s.unfinished (fun _ l => l.ctx == ctx && l.mbx.map (·.1) == some m) = none) →
    s0 = s.hostSync mb.port [0, 1, 2, 3] →
    q = mb.nextTake → q ≤ mb.accepted → rec_ = (tabGet mb.recs q).getD [] → hd = BitVec.ofNat 64 (numAt rec_ 0 8) →
    arg = BitVec.ofNat 64 (numAt rec_ 8 8) → (rec_.drop 16).any (· != 0) = false → selFixed (hsel hd) = false →
    s0.descSeg x (hsel hd) (hoff hd) 128 .load = .ok sp ks → s0.ecc ks = false →
    x.block (ks.map fun k => s0.readByte (s.ensign.getD 0) s.nextId 0 32 sp k) 1 = some blk →
    (lid, s1) = (s0.modMbx ctx m fun b => { b with taken := (q + 1) % 2 ^ 64 }).newLaunch ctx blk hd arg none (some (m, q)) none [] →
    (((s1.launch? lid).map (·.toCommit)).getD 0 = 0 → exec (.launchRecord ctx m pol) s = .next (s1.completeRec ctx m q 0)) ∧
    (((s1.launch? lid).map (·.toCommit)).getD 0 ≠ 0 → s.mode.getLsbD 1 = false → exec (.launchRecord ctx m pol) s = .next s1) ∧
    (∀ s2, ((s1.launch? lid).map (·.toCommit)).getD 0 ≠ 0 → s.mode.getLsbD 1 = true → s1.writeBinds lid pol = some s2 →
      exec (.launchRecord ctx m pol) s = .next s2 ∧
        ∀ l, s1.launch? lid = some l → (s2.launch? lid).map (·.bound) = some (l.bound ++ l.unbound.take pol.parts.length))

/-- The memory's events: an atomic's old value arrives, at whatever destination; a write enters the view of its own die, is applied on
another die after what precedes it, or reaches the host or the scratchpad; a fence that waited is complete; a page moves, is served, or
private memory grows, and the lanes that waited retry; errors are counted and stand. When a load samples, which pages are resident, a page's
home and its moves, when a write leaves its die, and when a fence is complete, are the model's choices or readings, log entries 4, 7, 8, 20,
13 and 26. -/
def Obligations.MemoryEvents : Prop :=
  (∀ (s : State) (r : LoadRec), s.loads.find? (fun q => q.id == r.id && q.atomic) = some r → Completes s r (.atomicReturn r.id)) ∧
  (∀ (s : State) (wid die : Nat), (∀ p, s.posted.find? (fun q => q.id == wid) = some p → s.heldBack p = false →
      ∃ t : State, exec (.remoteWriteApply wid 4) s = .next t ∧ t.mem = memPut s.mem p.bytes ∧ ∀ q ∈ t.posted, q.id ≠ wid) ∧
    (∀ w, s.write? wid = some w → w.die < 4 → exec (.remoteWriteApply wid w.die) s = .next (s.showOwn w)) ∧
    ∀ w w1, die < 4 → s.write? wid = some w → die ≠ w.die → (s.leave w).write? wid = some w1 → die ∉ w1.applied →
      (∀ u ∈ (s.leave w).writes, u.precedes w1 = true → die ∈ u.applied) →
      ∃ t : State, exec (.remoteWriteApply wid die) s = .next t ∧ t = ((s.leave w).markApplied die w1).settle ∧
        (w1.stamp.isSome = true → ∀ u, t.write? wid = some u → die ∈ u.applied)) ∧
  (∀ (s : State) (gid band l : Nat) (g : Group) (th : Thread) (sc : Scope) (n : Nat), s.frozen gid = false → s.group? gid = some g →
    s.thread? gid band l = some th → th.wait = .fence sc n → s.unacked g.die gid band l (if sc = .sy then .dm else sc) n = false →
    ∃ t, exec (.fenceComplete gid band l) s = .next t ∧ t.thread? gid band l = some th.release) ∧
  (∀ (s : State) (ctx sel page die : Nat), die ≤ 3 → ∃ t : State, exec (.pageMigration ctx sel page die) s = .next t ∧
    t.homeDie ctx (BitVec.ofNat 16 sel) (page * Config.pageBytes) = die ∧
    ∀ p ∈ t.cores, pageKey ctx (BitVec.ofNat 16 sel) page ∉ p.2.pages) ∧
  (∀ (s : State) (die kind : Nat) (k : Key), s.serviceRuns die 4 = true →
    (∃ t : State, exec (.patrolScrub die kind none) s = .next t ∧
      tabGetD (t.die die).corrected kind 0 = tabGetD (s.die die).corrected kind 0 + 1 ∧ t.mem = s.mem) ∧
    ∃ t : State, exec (.patrolScrub die kind (some k)) s = .next t ∧
      tabGetD (t.die die).uncorrected kind 0 = tabGetD (s.die die).uncorrected kind 0 + 1 ∧
      (¬(k % 8 = 6 ∧ 272 ≤ k / 8 % 2 ^ 64 / 4 % 512 ∧ k / 8 % 2 ^ 64 / 4 % 512 < 276) → t.ecc [k] = true) ∧ t.mem = s.mem) ∧
  (∀ (s : State) (gid band l : Nat) (b : Band) (th : Thread) (hd : W64), s.growthAsked gid band = false → s.ensignRuns = true →
    s.frozen gid = false → s.band? gid band = some b →
    b.threads[l]? = some th → l < 32 → th.wait = .growth hd →
    ∃ t b', exec (.privateGrowthService gid band true) s = .next t ∧ t.band? gid band = some b' ∧ b.hwm + 65536 ≤ b'.hwm ∧
      hoff hd < b'.hwm ∧ b'.threads[l]? = some th.retry) ∧
  ∀ (s : State) (ctx sel page gid band l : Nat) (x : Context) (g : Group) (b : Band) (th : Thread), s.ctx? ctx = some x →
    s.pageAsked ctx (BitVec.ofNat 16 sel) page = false → s.ensignRuns = true → s.frozen gid = false → (x.desc (BitVec.ofNat 16 sel)).kind ≠ 7 →
    s.absent.contains (pageKey ctx (BitVec.ofNat 16 sel) page) = true → (gid, g) ∈ s.groups → s.group? gid = some g → g.ctx = ctx →
    g.bands[band]? = some b → b.threads[l]? = some th → l < 32 → s.waitsPage ctx (BitVec.ofNat 16 sel) page th.wait = true →
    ∃ t : State, exec (.demandPageService ctx sel page true) s = .next t ∧ pageKey ctx (BitVec.ofNat 16 sel) page ∉ t.absent ∧
      t.thread? gid band l = some th.retry

/-! ### Halts (R320 to R340) -/

/-- The halt protocol: STOP raises the line of a running context, which reaches each core and stops its groups; when all has settled the
stop records stand in the halt area; RESUME_CTX lowers the line; TEARDOWN ends every group, and CTX_DESTROY the context. What a halt does
to waits, and when stop records are written, is read as log entries 16 and 50 read it. -/
def Obligations.HaltProtocol : Prop :=
  (∀ (s : State) (ctx : Nat) (x : Context), s.ctx? ctx = some x →
    (∀ core, x.line = true → core ∉ x.arrived → core < Config.cores → ∃ t : State, exec (.haltLineArrival ctx core) s = .next t ∧
      t.ctx? ctx = some { x with arrived := x.arrived ++ [core] } ∧ t.lineAt ctx core = true ∧ t.mem = s.mem ∧
      ∀ gid g, s.group? gid = some g → g.ctx = ctx → g.core = core → g.place = .seated → t.group? gid = some { g with halted := true }) ∧
    (x.halt = .halting → s.settledCtx x = true → x.heldTeardown = [] → ∃ (t : State) (x' : Context), exec (.haltSettled ctx) s = .next t ∧
      t.ctx? ctx = some x' ∧ x'.halt = .halted ∧ x'.area = s.stopRecords x ∧ x'.eventSeq = x.eventSeq + 1 ∧ t.mem = s.mem)) ∧
  (∀ (s : State) (r : Req) (x : Context) (addr : W64), Served s r → s.ctx? r.ctx = some x → s.mayClass x clHalt r.party = true →
    x.number = r.ctx →
    (x.halt = .running → x.line = false → Answered s r 0 (.stop r) fun t => t.ctx? r.ctx = some { x with
      line := true, arrived := [], halt := .halting, haltSeq := x.haltSeq + 1, haltReason := rStopped, haltPc := 0, haltBy := none,
      area := [] }) ∧
    (x.halt ≠ .running → Answered s r 0 (.stop r) fun t => t.ctxs = s.ctxs) ∧
    (x.halt = .halted → (∀ p ∈ s.bandsOf r.ctx, ∀ g b, s.group? p.1 = some g → s.band? p.1 p.2 = some b → (s.badPcs g b).1 = 0) →
      Answered s r 0 (.resumeCtx r) fun t => t.ctx? r.ctx = some { x with line := false, arrived := [], halt := .running } ∧
      ∀ gid i l th, (s.group? gid).map (·.ctx) = some r.ctx → s.thread? gid i l = some th → t.thread? gid i l = some th.resume) ∧
    (x.halt = .halted → Answered s r 0 (.teardown r) fun t => ((t.ctx? r.ctx).map fun y => (y.line, y.halt)) = some (false, .running) ∧
      ∀ gid g, t.group? gid = some g → g.ctx = r.ctx → g.place = .ended) ∧
    (x.halt = .halting ∨ x.halt = .running ∧ x.line = false →
      (∃ (t : State) (y : Context), exec (.teardown r) s = .next t ∧ t.ctx? r.ctx = some y ∧
        y.heldTeardown = x.heldTeardown ++ [(false, r)] ∧ y.halt = .halting) ∧
      ∃ (t : State) (y : Context), exec (.ctxDestroy r) s = .next t ∧ t.ctx? r.ctx = some y ∧
        y.heldTeardown = x.heldTeardown ++ [(true, r)] ∧ y.halt = .halting) ∧
    (x.halt = .halted → Answered s r 0 (.ctxDestroy r) fun t => t.ctx? r.ctx = none) ∧
    (∀ p, partyPort r.party = some p → exec (.readHalt r addr) s = .next (({ s with
      mem := memPut s.mem (mapIdx (fun i b => (hostKey p (addr.toNat + i), b))
        (if s.conf then x.area.map redact else x.area).flatten 0) } : State).answer r 0))) ∧
  ∀ (s : State) (addr part k core off : Nat) (w : W64), part = addr / 0x100000000 → k = addr / 0x1000000 % 256 →
    core = part * Config.coresPerCluster + k → off = addr % 0x1000000 → part < Config.partitions → k < Config.coresPerCluster → addr % 4 = 0 →
    (s.winOpen part = true → s.conf = false →
      exec (.serviceWindowAccess addr 4 none) s = .next { (s.winRead core (s.winPlace core off)).2 with
        svcData := (0 : Word) ++ (s.winRead core (s.winPlace core off)).1 } ∧
      exec (.serviceWindowAccess addr 4 (some w)) s = .next (s.winWrite core (s.winPlace core off) (w.extractLsb' 0 32))) ∧
    (s.winOpen part = false → exec (.serviceWindowAccess addr 4 none) s = .next { s with svcData := 0xFFFFFFFF } ∧
      exec (.serviceWindowAccess addr 4 (some w)) s = .next s)

/-! ### Requests and the device (R341 to R363) -/

/-- The hosts' requests, each from a party that may make it and with arguments in range: it is answered OK and does what its rule says; a
write to BAR0 outside its registers does nothing; an access through BAR2 reads, writes or computes, and one that meets an uncorrectable error
reads nothing and writes nothing, as log entry 99 reads R189. Arguments, image numbers, the parties, unstated values, and the launch or image
that a BIND names with its partition's owner, follow log entries 10, 37, 44, 45, 47, 24 and 15. -/
def Obligations.HostRequests : Prop :=
  (∀ (s : State) (r : Req), Served s r → s.leads r.party = true →
    (∀ image x, s.scrubOwed = false → leAt image 0 2 ≠ 0 → contextOf image (leAt image 0 2) ((partyPort r.party).getD 0) = some x → s.ctx? (leAt image 0 2) = none →
      x.confidential = false → Answered s r 0 (.ctxCreate r image) fun t => t.ctx? (leAt image 0 2) = some x) ∧
    (∀ mode, s.conf = false → Answered s r 0 (.setMode r mode) fun t => t.mode = mode) ∧
    (∀ w, 1200 ≤ w → w ≤ 2400 → Answered s r 0 (.powerCap r w) fun t => t.powerCap = w) ∧
    (∀ args core s', s.mode.getLsbD 1 = false → args.length = 48 → zeroAt args 2 14 = true → core = leAt args 0 2 → core < Config.cores →
      s.writeSlot core (s.bindOf (args.drop 16)) = some s' →
      Answered s r 0 (.bind r args) fun t =>
        (s.saving (partOf core) = none → (t.core core).slots = (s.core core).slots ++ [s.bindOf (args.drop 16)]) ∧
        ∀ slot sh, s.saving (partOf core) = some (slot, sh) → sh.partition.owner = some (s.bindOf (args.drop 16)).ctx → ∃ sh',
          tabGet t.shadows slot = some sh' ∧ (tabGetD sh'.cores core .zero).slots =
            (tabGetD sh.cores core .zero).slots ++ [s.bindOf (args.drop 16)]) ∧
    ∀ x, s.ctx? r.ctx = some x →
      (∀ (image : List Byte) (code data launch : BitVec 16) (x1 x2 : Context), imageOk image = true →
        x.bindings.length + leAt image 0x10 2 ≤ 65536 → x.freeSel = some code →
        x1 = { x with segs := tabSet x.segs code.toNat { x.desc code with kind := 1 } } →
        (if section_ image 3 = [] then some 0 else x1.freeSel) = some data →
        x2 = (if section_ image 3 = [] then x1 else { x1 with segs := tabSet x1.segs data.toNat { x1.desc data with kind := 1 } }) →
        (if leAt image 0x12 2 = 0 then some 0 else x2.topFree) = some launch →
        Answered s r 0 (.codeInstall r image) fun t => t.ctxs = (s.installCode r.ctx image code data launch).ctxs) ∧
      (∀ sel, selFixed sel = false → (x.desc sel).kind = 4 → x.number = r.ctx →
        (∀ p ∈ x.bindings, hsel p.2.target = sel → p.2.inflight = 0) →
        Answered s r 0 (.codeRemove r sel) fun t => (t.ctx? r.ctx).map (fun y => (y.desc sel).kind) = some 0) ∧
      (∀ slot sel key tags, s.conf = true → slot < Config.pageKeySlots → (x.desc sel).kind = 7 → (x.desc sel).keySlot = slot →
        Answered s r 0 (.sealKey r slot sel key tags) fun t => ∃ k, tabGet t.keys slot = some k ∧ k.ctx = r.ctx ∧ k.sel = sel ∧ k.key = key ∧
          k.tags = tags ∧ k.status = 0) ∧
      (∀ sel p, partyPort r.party = some p → (s.conf = true → (s.port p).tdi = .run) → selFixed sel = false →
        (x.desc sel).kind = 1 ∨ (x.desc sel).kind = 5 →
        Answered s r 0 (.aperture r sel) fun t => (t.port p).aperture = some (r.ctx, sel, (x.desc sel).gen)) ∧
      (∀ ring produced k p, partyPort r.party = some p → 4 ≤ k → k ≤ 16 →
        Answered s r 0 (.eventRing r ring produced k) fun t => (t.port p).ringHandle = ring ∧ (t.port p).ringIndex = produced ∧
          (t.port p).ringCtx = r.ctx ∧ (t.port p).ringSize = 2 ^ k ∧
          ((s.port p).held = [] → (s.port p).delivered = [] → (t.port p).produced = 0))) ∧
  (∀ (s : State) (r : Req) (seq : Word) (v : ReplyVal) (c : Claim) (g : Group) (b : Band) (l : Nat) (th : Thread) (d : Opd) (code : BitVec 15)
    (o : Option Word), Served s r → s.claims.reverse.find? (fun q => q.ctx == r.ctx && q.seq == seq) = some c → s.handles c.owner r.party = true →
    c.reply = true → c.answered = false → c.cls = clSoftware → s.frozen c.gid = false → s.group? c.gid = some g → g.bands[c.band]? = some b →
    b.threads[l]? = some th → th.wait = .trap c.seq d code o →
    Answered s r 0 (.reply r seq v) fun t => t.thread? c.gid c.band l = some (th.put32 d (v.value.extractLsb' 0 32)).release) ∧
  (∀ (s : State) (r : Req) (n : Word), Served s r →
    (n ≠ 0 → s.holds r.party = true → Answered s r 0 (.leaseRenew r n) fun t => t.leaseCounter = n ∧ t.leaseHolder = s.leaseHolder) ∧
    (∀ p, partyPort r.party = some p →
      (s.leaseHolder = 0 ∨ s.leaseCounter = 0 →
        Answered s r 0 (.leaseTake r n) fun t => t.leaseHolder = BitVec.ofNat 2 (p + 1) ∧ t.leaseCounter = n) ∧
      (s.leaseHolder ≠ 0 → s.leaseCounter ≠ 0 → ∃ t : State, exec (.leaseTake r n) s = .next t ∧ t.leaseHolder = s.leaseHolder ∧
        t.leaseCounter = s.leaseCounter ∧ t.resps = s.resps ++ [⟨r.party, r.tag, 8, s.leaseCounter.setWidth 64⟩]))) ∧
  ∀ (s : State) (port off n : Nat) (bs : List Byte) (ide : Bool) (ks : List Key) (idx : Word), port ≤ 1 →
    (exec .leaseCountdown s = .next { s with leaseCounter := if s.leaseCounter = 0 then 0 else s.leaseCounter - 1 }) ∧
    exec (.bar0WriteOther port (.discard off)) s = .next s ∧
    exec (.bar0WriteOther port (.read off n)) s = .next (s.modPort port fun q => { q with
      readData := (List.range n).map fun i => s.bar0Byte port (off + i), unsupported := false }) ∧
    (∀ r, Served s r → Answered s r 10 (.bar0WriteOther port (.unlisted r)) fun t => t.ctxs = s.ctxs) ∧
    (s.bar2Keys port off n ide = some ks → s.ecc ks = false → ∃ t : State, exec (.bar2Access port off n .read ide) s = .next t ∧
      (t.port port).readData = ks.map (s.viewByte (portDie port)) ∧ (t.port port).unsupported = false ∧ t.mem = s.mem) ∧
    (s.bar2Keys port off n ide = none ∨ s.bar2Keys port off n ide = some ks ∧ s.ecc ks = true →
      ∃ t : State, exec (.bar2Access port off n .read ide) s = .next t ∧
        (t.port port).readData = [] ∧ (t.port port).unsupported = true ∧ t.mem = s.mem) ∧
    (s.bar2Keys port off n ide = some ks → s.eccStore ks ks = true →
      ∃ t : State, exec (.bar2Access port off n (.write bs) ide) s = .next t ∧ t.mem = s.mem ∧ t.writes = s.writes) ∧
    (s.bar2Keys port off n ide = some ks → s.eccStore ks ks = false → (∀ w ∈ s.writes, w.id < s.nextId) →
      ∃ (t : State) (w : WriteRec), exec (.bar2Access port off n (.write bs) ide) s = .next t ∧ t.mem = s.mem ∧
        t.eccBad = (s.clearErrors ks).eccBad ∧ w ∈ t.writes ∧ w.bytes = bytesAt ks bs ∧ w.die = portDie port ∧ w.stamp.isSome = true ∧ w.applied = [portDie port] ∧
        (s.writes = [] → (∀ k x, tabGet (bytesAt ks bs) k = some x → t.viewByte (portDie port) k = x) ∧
          ∀ d k, tabGet (bytesAt ks bs) k = none ∨ d ≠ portDie port → t.viewByte d k = s.viewByte d k)) ∧
    (∀ (op : Bar2Op) (v e : W64) (f : Nat → Option Nat), n = 4 ∨ n = 8 → off % n = 0 → s.bar2Keys port off n ide = some ks → s.ecc ks = false →
      (op = .fetchAdd v ∧ f = fun o => some ((o + v.toNat) % 2 ^ (8 * n))) ∨ (op = .swap v ∧ f = fun _ => some (v.toNat % 2 ^ (8 * n))) ∨
        (op = .cas e v ∧ f = fun o => if o == e.toNat % 2 ^ (8 * n) then some (v.toNat % 2 ^ (8 * n)) else none) →
      ∃ t : State, exec (.bar2Access port off n op ide) s = .next t ∧ (t.port port).unsupported = false ∧
        (t.port port).readData = bytesOfNat n (s.rmw (portDie port) s.nextId port hostLane none .device ks f).1) ∧
    (∀ m, m ≤ (s.port port).produced - (s.port port).acked → idx = BitVec.ofNat 32 ((s.port port).acked + m) → m < 2 ^ 32 →
      (s.port port).held = [] → (s.port port).tdi ≠ .error → ∃ t : State, exec (.eventRingConsumed port idx) s = .next t ∧ (t.port port).consumed = idx ∧
        (t.port port).acked = (s.port port).acked + m ∧ (t.port port).delivered = (s.port port).delivered.drop m)

/-- What happens to the device from outside: peers and fabric ports, service pairs and their takeover, resets and bring-up, attestation and
the device interface, sealing and scrubbing, the shadow layer, and power. That an attestation by SPDM is what makes a device attested is the
model's choice, log entry 32; that an access to a peer fails only while no port is up is its reading, log entry 95; what a peer's access does
that meets an uncorrectable error is log entry 99; requests, resets, sealing and shadow slots follow log entries 9, 10, 29, 48 and 49. -/
def Obligations.DeviceEvents : Prop :=
  (∀ (s : State) (id port dev pc ctx : Nat) (out : Bool), port < Config.fabricPorts →
    (s.fabricUp ≠ 0 → exec (.peerTimeout id) s = .next s) ∧
    (∀ l, s.fabricUp = 0 → s.loads.find? (fun q => q.id == id && q.peer) = some l → ∃ t : State, exec (.peerTimeout id) s = .next t ∧
      t = ({ s with loads := s.loads.filter fun q => q.id != id } : State).memErr l.gid l.band l.active l.lane l.pc l.handle 0
        (if l.dst == .imm 0 then 1 else if l.atomic then 2 else 0) ∧ (∀ q ∈ t.loads, q.id ≠ id) ∧
      ∀ g x, s.group? l.gid = some g → s.ctx? g.ctx = some x → x.escalate = false →
        (t.ctx? g.ctx).map (·.eventSeq) = some (x.eventSeq + 1) ∧ (t.group? l.gid).map (·.place) = some .ended) ∧
    (∀ cp e dir, s.fabricUp = 0 → s.loads.find? (fun q => q.id == id && q.peer) = none → s.copies.find? (fun q => q.id == id) = some cp →
      s.peerEnd cp = some (e, dir) → ∃ t : State, exec (.peerTimeout id) s = .next t ∧ t = s.failCopy cp e dir ∧ ∀ q ∈ t.copies, q.id ≠ id) ∧
    (∃ t : State, exec (.fabricPortFail port) s = .next t ∧ t = { s with fabricUp := t.fabricUp } ∧
      ∀ i < 24, t.fabricUp.getLsbD i = (s.fabricUp.getLsbD i && i != port)) ∧
    (∃ t : State, exec (.fabricPortRetrained port) s = .next t ∧ t = { s with fabricUp := t.fabricUp } ∧
      ∀ i < 24, t.fabricUp.getLsbD i = (s.fabricUp.getLsbD i || i == port)) ∧
    (s.ctx? ctx ≠ none → dev ≤ 255 → ∃ t : State, exec (.peerGrant ctx dev pc out) s = .next t ∧ t = { s with grants := t.grants } ∧
      ∀ g, g ∈ t.grants ↔ g = ⟨ctx, dev, pc, out⟩ ∨ g ∈ s.grants)) ∧
  (∀ (s s1 : State) (p : PeerAccess) (x : Context) (ks : List Key) (n home : Nat) (shown : State → State), s.ctx? p.ctx = some x →
    (∃ g ∈ s.grants, g.outgoing = false ∧ g.ctx = p.ctx ∧ g.dev = p.dev ∧ g.peerCtx = p.peerCtx) → p.dev ≠ s.device.toNat →
    s.shut = false → selFixed p.sel = false → home = s.homeOfKey (ks.headD 0) → s1 = s.peerRelease p →
    (shown = fun t => { t with writes := modWrite t.writes s1.nextId fun w => { w with rels := s1.peerRels p s1.nextId home ++ w.rels } }) →
    (p.op = .load n → s.descSeg x p.sel p.off n .load = .ok .device ks → exec (.peerRequest p) s =
      .next (if s.ecc ks then { s.farErr ks with peerAns := none } else { s1 with peerAns := some (ks.map (s1.viewByte home)) })) ∧
    (∀ bs, p.op = .store bs → s.descSeg x p.sel p.off bs.length .store = .ok .device ks → exec (.peerRequest p) s =
      .next (if s.eccStore ks ks then { s.farErr ks with peerAns := none } else
        { ((shown (s1.writeBytes home s1.nextId p.dev peerLane .device (bytesAt ks bs))).clearErrors ks) with peerAns := some [] })) ∧
    (∀ (op : AtomOp) (ty : Ty) (v : W64) (q : Nat × State), p.op = .atomic op ty v → peerFits p.op p.off = true → n = atomBytes op ty →
      s.descSeg x p.sel p.off n ⟨rtA, true, false⟩ = .ok .device ks → s.ecc ks = false →
      q = s1.rmw home s1.nextId p.dev peerLane none .device ks (fun o => some (atomFn op ty (v.toNat % 2 ^ (8 * n)) o % 2 ^ (8 * n))) →
      exec (.peerRequest p) s = .next { shown q.2 with peerAns := some (bytesOfNat n q.1) }) ∧
    (∀ (ty : Ty) (v e : W64) (q : Nat × State), p.op = .cas ty e v → peerFits p.op p.off = true → n = tyBytes ty →
      s.descSeg x p.sel p.off n ⟨rtR ||| rtA, true, false⟩ = .ok .device ks → s.ecc ks = false →
      q = s1.rmw home s1.nextId p.dev peerLane none .device ks
        (fun o => if o == e.toNat % 2 ^ (8 * n) then some (v.toNat % 2 ^ (8 * n)) else none) →
      exec (.peerRequest p) s = .next { shown q.2 with peerAns := some (bytesOfNat n q.1) })) ∧
  (∀ (s : State) (die d n port : Nat), die < Config.dies → port ≤ 1 →
    (∃ t, exec (.lockstepMismatch die) s = .next t ∧ t.die die = { s.die die with pairLive := false } ∧ t.groups = s.groups) ∧
    (s.ensign = some d → (s.die d).pairLive = true → ∃ t : State, exec .heartbeat s = .next t ∧
      (t.die d).heartbeat = (s.die d).heartbeat + 1 ∧ (t.die d).lapsed = false ∧ t.mem = s.mem) ∧
    (s.ensign = some d → s.livePair d = some n → ∃ t : State, exec .ensignTakeover s = .next t ∧
      t.ensign = some n ∧ (t.die d).pairLive = false ∧ (t.port 0).notices = (s.port 0).notices + 1 ∧ (t.port 1).notices = (s.port 1).notices + 1 ∧ t.level = s.level) ∧
    (s.ensign ≠ none → s.level < 3 → (s.conf = true → s.scrubOwed = true → s.level ≠ 0) →
      exec .levelRaise s = .next { s with level := s.level + 1, clockSteps := if s.level + 1 < 3 then 10 else 20 }) ∧
    ((s.mode.getLsbD 5 = true → s.livePair Config.dies ≠ none) → ∃ t : State, exec (.dieReset die) s = .next t ∧
      (t.die die).pairLive = true ∧ t.level = 0 ∧ t.clockSteps = 20 ∧ t.scrubbing = false ∧ (∀ core, dieOf core = die → t.core core = Core.zero) ∧
      ∀ gid g, s.group? gid = some g → dieOf g.core = die → g.place = .seated ∨ g.place = .phase →
        (t.group? gid).map (·.place) = some .ended) ∧
    (s.mode.getLsbD 5 = true → s.livePair Config.dies = none → exec (.dieReset die) s = .next s) ∧
    (∀ reg, reg ≤ 7 → ∃ t : State, exec (.spdmRequest port (.measurement reg)) s = .next t ∧ t.meas = s.meas ∧
      (t.port port).readData = tabGetD s.meas reg (List.replicate 48 0)) ∧
    (∀ (reg : Nat) (m : List Byte), ∃ t : State, exec (.spdmRequest port (.extend reg m)) s = .next t ∧
      (reg ≤ 6 → reg ∉ s.measDone → reg ∈ t.measDone ∧
        t.measured reg = sha384 (s.measured reg ++ m) ∧ ∀ k, k ≠ reg → t.measured k = s.measured k) ∧
      (6 < reg ∨ reg ∈ s.measDone → t.meas = s.meas ∧ t.measDone = s.measDone)) ∧
    (∀ dev ok, ∃ t : State, exec (.spdmRequest port (.attest dev ok)) s = .next t ∧ t = { s with attested := t.attested } ∧
      ∀ k, k ∈ t.attested ↔ if k = dev then ok = true else k ∈ s.attested) ∧
    (s.lms.toNat < 2 ^ 20 → ∃ t : State, exec (.spdmRequest port .challenge) s = .next t ∧ t.lms = s.lms + 1) ∧
    (∃ t : State, exec (.tdispRequest port .stop) s = .next t ∧ (t.port port).tdi = .unlocked) ∧
    ((s.port port).tdi = .unlocked → ∃ t : State, exec (.tdispRequest port .lock) s = .next t ∧ (t.port port).tdi = .locked) ∧
    ((s.port port).tdi = .locked → ∃ t : State, exec (.tdispRequest port .start) s = .next t ∧ (t.port port).tdi = .run) ∧
    ((s.port port).tdi = .locked ∨ (s.port port).tdi = .run → ∃ t : State, exec (.tdiConfigChange port) s = .next t ∧
      (t.port port).tdi = .error ∧ ∀ k x, t.ctx? k = some x → x.line = true)) ∧
  (∀ (s : State) (boot : BootConfig) (pass : List Nat),
    (∃ t : State, exec (.coldBoot boot) s = .next t ∧ t.groups = [] ∧ t.ctxs = [] ∧ t.lms = s.lms ∧ t.level = 0 ∧
      (∀ k, memGet t.mem k = if k % 8 = 3 ∨ k % 8 = 4 then memGet s.mem k else 0) ∧
      t.conf = boot.confidential ∧ t.device = boot.device ∧ t.ensign = elect boot.pass ∧
      t.scrubOwed = (s.scrubOwed || boot.confidential || s.conf) ∧ t.scrubbing = t.scrubOwed ∧ t.shut = t.scrubOwed) ∧
    ∃ t : State, exec (.warmReset pass) s = .next t ∧ t.groups = [] ∧ t.level = 0 ∧ t.conf = s.conf ∧ t.lms = s.lms ∧ t.meas = s.meas ∧
      t.device = s.device ∧ t.ensign = elect pass ∧ t.scrubOwed = s.scrubOwed ∧ t.scrubbing = s.scrubOwed ∧ t.shut = s.scrubOwed ∧ t.versions = s.versions ∧
      t.leaseHolder = 0 ∧ t.mode = 0b111111) ∧
  (∀ (s : State) (ctx sel page : Nat) (x : Context) (k : KeySlot), s.ctx? ctx = some x →
    tabGet s.keys (x.desc (BitVec.ofNat 16 sel)).keySlot = some k → (x.desc (BitVec.ofNat 16 sel)).kind = 7 → k.ctx = ctx →
    k.sel = BitVec.ofNat 16 sel → k.key ≠ [] → s.ensignRuns = true →
    s.version ctx (BitVec.ofNat 16 sel) page < 2 ^ 64 - 1 →
    page * Config.pageBytes < (x.desc (BitVec.ofNat 16 sel)).limit →
    s.ecc (residentKeys ctx (BitVec.ofNat 16 sel) page ((x.desc (BitVec.ofNat 16 sel)).pageLen page)) = false → pageKey ctx (BitVec.ofNat 16 sel) page ∉ s.absent →
    ∃ t : State, exec (.pageSeal ctx sel page) s = .next t ∧ pageKey ctx (BitVec.ofNat 16 sel) page ∈ t.absent ∧
      t.version ctx (BitVec.ofNat 16 sel) page = s.version ctx (BitVec.ofNat 16 sel) page + 1 ∧ t.keys = s.keys) ∧
  (∀ (s : State), Canonical s → s.scrubbing = true → ∃ t : State, exec .scrubComplete s = .next t ∧ t.scrubOwed = false ∧
    t.scrubbing = false ∧ t.shut = false ∧ t.writes = [] ∧ t.keys = [] ∧ ∀ k, k % 8 ≠ 3 → k % 8 ≠ 4 → memGet t.mem k = 0) ∧
  (∀ (s : State) (part slot w : Nat) (hot : Bool) (sh : Shadow), s.eccBad = [] →
    (s.canSave part = true → s.slotFits part slot = true → tabGet s.shadows slot = none →
      ∃ (t : State) (im : Shadow), exec (.partitionSave part slot) s = .next t ∧ t = s.savePart part slot ∧ tabGet t.shadows slot = some im ∧
        im.part = part ∧ im.partition = s.part part ∧ im.gids = (s.groupsOf part).map (·.1) ∧ t.part part = .zero ∧
        ∀ gid g, s.group? gid = some g → gid ∈ im.gids → g.place = .seated ∨ g.place = .phase →
          (t.group? gid).map (fun g => (g.place, g.moving)) = some (.shadow slot (g.place == .seated), true)) ∧
    (tabGet s.shadows slot = some sh → sh.part = part → s.partIdle part = true → s.partRuns part = true → s.imageFits sh = true →
      ∃ t : State, exec (.partitionRestore part slot) s = .next t ∧
        t = ({ s with shadows := tabDel s.shadows slot } : State).restorePart part sh [] ∧ t.shadows = tabDel s.shadows slot ∧
        t.part part = sh.partition ∧ ∀ gid g n seated, s.group? gid = some g → gid ∈ sh.gids → g.place = .shadow n seated →
          (t.group? gid).map (fun g => (g.place, g.moving)) = some (if seated then .seated else .phase, true)) ∧
    (tabGet s.shadows slot = some sh → sh.part = part → s.canSave part = true → (s.savePart part slot).imageFits sh = true →
      ∃ (t : State) (im : Shadow), exec (.partitionExchange part slot) s = .next t ∧
        t = (s.savePart part slot).restorePart part sh [] ∧
        tabGet t.shadows slot = some im ∧ im.part = part ∧ im.partition = s.part part ∧ t.part part = sh.partition) ∧
    (s.powerCap < w ∨ hot = true → exec (.powerThrottle w hot) s = .next { s with clockSteps := max 10 (s.clockSteps - 1) }) ∧
    (100 * w ≤ 95 * s.powerCap → exec (.powerRestore w) s = .next { s with
      clockSteps := min (if s.level = 1 ∨ s.level = 2 then 10 else 20) (s.clockSteps + 1) }))

/-! ### Reset, the step, and the encodings -/

/-- After reset nothing issues, no context exists and no byte is listed, S.LEVEL is 0, MODE has every bit set, the lease has no holder and
its counter is 0, no halt line is high, no die has lost its pair, and the memory is canonical. That unwritten memory reads as 0, and the
reset values the spec leaves open, each die's live pair among them, are the model's choices, log entries 6 and 9. -/
def Obligations.ResetState : Prop :=
  State.reset.cur = none ∧ State.reset.issueQ = [] ∧ (∀ n, State.reset.ctx? n = none) ∧ (∀ g, State.reset.group? g = none) ∧
    Canonical State.reset ∧ (∀ k, memGet State.reset.mem k = 0) ∧ State.reset.level = 0 ∧ State.reset.mode = 0b111111 ∧
    State.reset.leaseHolder = 0 ∧ State.reset.leaseCounter = 0 ∧ State.reset.ensign = none ∧ State.reset.lms = 0 ∧
    (∀ p, State.reset.port p = Port.zero) ∧ (∀ k, State.reset.core k = Core.zero) ∧ ∀ d, (State.reset.die d).clock = [0, 0, 0, 0] ∧ (State.reset.die d).pairLive = true

/-- A step runs the decoded instruction: where the first split of the issue queue can issue and its fetch gives an instruction, step is
exec of that instruction with the split issuing; with the queue empty it is exec of the event at the head of the schedule. That the step
reads the issue queue and the schedule is the model's form, log entry 1. -/
def Obligations.StepRunsDecoded : Prop :=
  (∀ (s s1 s2 : State) (c : Slot) (rest : List Slot) (g : Group) (b : Band) (w : W96) (len : Nat) (i : Instr), s.issueQ = c :: rest →
    s.slotOk c = true → s.group? c.gid = some g → s.band? c.gid c.band = some b →
    (s.unchecked c && s.targetFault g.die g.ctx c.pc.sel c.pc.off.toNat == some rMisaligned) = false →
    s.fetch g.die g.ctx c.pc = .ok w len i → s1 = { s with issueQ := rest } → (s1.allotted g b i = true → s1.regErr c b i = none) →
    s2 = (s1.regClear c b i).issuing (c.fetched w len) (hintOf i == .y) →
    step s = exec i s2 ∧ s2.cur = some (c.fetched w len) ∧ (s.eccBad = [] → (∀ th ∈ b.threads, th.lBad = false) → s1.regErr c b i = none ∧ s1.regClear c b i = s1) ∧
      decode (s.codeBytes g.die g.ctx c.pc.sel c.pc.off.toNat len) = .ok (i, len, [])) ∧
  ∀ (s : State) (i : Instr) (rest : List Instr), s.issueQ = [] → s.schedule = i :: rest → i.isProgram = false → s.behind i = false →
    step s = exec i { s with schedule := rest }

/-- Packed words written out from the encoding decode to the instructions they stand for; a code no entry names, mask bits that are reserved,
and bytes that end inside the instruction are refused. -/
def Obligations.DecodingWords : Prop :=
  decode [0xD7, 0x08, 0x10, 0xA8, 0x50, 0x0C, 0xF9, 0x3F, 0x02] =
    .ok (.iadd ⟨2, true, 2, .none⟩ .i32 false (.v 5) (.v 3) (.imm (-7)), 9, []) ∧
  decode [0x03, 0x01, 0x80, 0x1D, 0x07] = .ok (.bra ⟨7, false, 0, .none⟩ 7, 5, []) ∧
  decode [0x03, 0x00, 0x87, 0x1D] = .ok (.exit ⟨7, false, 0, .none⟩, 4, []) ∧
  decode [0x03, 0x00, 0x40, 0x1F] = .ok (.seal ⟨7, false, 0, .none⟩, 4, []) ∧
  decode [0x33, 0x00, 0x41, 0x1F, 0x04, 0xE0] = .ok (.waitb ⟨7, false, 0, .none⟩ (.imm 1), 6, []) ∧
  decode [0xFF, 0x0F, 0x80, 0x1E, 0x30, 0x80, 0x2A, 0x60, 0x0B, 0x18, 0x0C, 0xD8, 0x88, 0x08] =
    .ok (.mma ⟨7, false, 0, .none⟩ .e2m1 .e2m1 true (.acc 3) (.b 10) (.b 11) (.b 12), 14, []) ∧
  decode [0xD7, 0x0D, 0xC0, 0x1D, 0x40, 0x20, 0x10, 0x38, 0x01, 0x40, 0x02] =
    .ok (.ld ⟨7, false, 0, .none⟩ .i32 .dv .acq false 0 (.v 4) (.v 8) (.imm 16), 11, []) ∧
  decode [0x03, 0x00, 0xFF, 0x1F] = .error .unassignedOpcode ∧ decode [0x00, 0x10] = .error .packedCode ∧
  decode [0x03, 0x00, 0x87] = .error .truncated

/-- Decoding undoes encoding: the canonical packed bytes of a well-formed program instruction, whatever follows them, decode to it, and the
decoder takes exactly those bytes. -/
def Obligations.EncodeDecode : Prop :=
  ∀ (i : Instr) (rest : List Byte), i.isProgram = true → i.wf = true → decode (encode i ++ rest) = .ok (i, (encode i).length, rest)

/-- Every step keeps the canonical form of memory. -/
def Obligations.StepKeepsCanonicalMemory : Prop :=
  ∀ s t : State, Canonical s → step s = .next t → Canonical t
end

