-- ==== Sys2Proof/Laws/Dispatch.lean ====
section
/-! SUPPORT. One equation for each arm of exec. -/

namespace Sys2Proof.Machine

theorem exec_nop {s} {h} : exec (.nop h) s = execNop h s := rfl
theorem exec_mov {s} {h ty d b} : exec (.mov h ty d b) s = execMov h ty d b s := rfl
theorem exec_movLong {s} {h d imm} : exec (.movLong h d imm) s = execMovLong h d imm s := rfl
theorem exec_sel {s} {h ty d a b c} : exec (.sel h ty d a b c) s = execSel h ty d a b c s := rfl
theorem exec_plog {s} {h op d a b} : exec (.plog h op d a b) s = execPlog h op d a b s := rfl
theorem exec_iadd {s} {h ty sat d a b} : exec (.iadd h ty sat d a b) s = execIadd h ty sat d a b s := rfl
theorem exec_iaddLong {s} {h d a imm} : exec (.iaddLong h d a imm) s = execIaddLong h d a imm s := rfl
theorem exec_isub {s} {h ty sat d a b} : exec (.isub h ty sat d a b) s = execIsub h ty sat d a b s := rfl
theorem exec_isubLong {s} {h d a imm} : exec (.isubLong h d a imm) s = execIsubLong h d a imm s := rfl
theorem exec_imul {s} {h ty sat d a b} : exec (.imul h ty sat d a b) s = execImul h ty sat d a b s := rfl
theorem exec_imulLong {s} {h d a imm} : exec (.imulLong h d a imm) s = execImulLong h d a imm s := rfl
theorem exec_imulh {s} {h ty d a b} : exec (.imulh h ty d a b) s = execImulh h ty d a b s := rfl
theorem exec_imad {s} {h ty sat d a b c} : exec (.imad h ty sat d a b c) s = execImad h ty sat d a b c s := rfl
theorem exec_idiv {s} {h ty sat d a b} : exec (.idiv h ty sat d a b) s = execIdiv h ty sat d a b s := rfl
theorem exec_irem {s} {h ty d a b} : exec (.irem h ty d a b) s = execIrem h ty d a b s := rfl
theorem exec_imin {s} {h ty d a b} : exec (.imin h ty d a b) s = execImin h ty d a b s := rfl
theorem exec_imax {s} {h ty d a b} : exec (.imax h ty d a b) s = execImax h ty d a b s := rfl
theorem exec_iabs {s} {h ty sat d a} : exec (.iabs h ty sat d a) s = execIabs h ty sat d a s := rfl
theorem exec_ineg {s} {h ty sat d a} : exec (.ineg h ty sat d a) s = execIneg h ty sat d a s := rfl
theorem exec_icmp {s} {h ty cc d a b} : exec (.icmp h ty cc d a b) s = execIcmp h ty cc d a b s := rfl
theorem exec_and {s} {h ty d a b} : exec (.and h ty d a b) s = execAnd h ty d a b s := rfl
theorem exec_andLong {s} {h d a imm} : exec (.andLong h d a imm) s = execAndLong h d a imm s := rfl
theorem exec_or {s} {h ty d a b} : exec (.or h ty d a b) s = execOr h ty d a b s := rfl
theorem exec_orLong {s} {h d a imm} : exec (.orLong h d a imm) s = execOrLong h d a imm s := rfl
theorem exec_xor {s} {h ty d a b} : exec (.xor h ty d a b) s = execXor h ty d a b s := rfl
theorem exec_xorLong {s} {h d a imm} : exec (.xorLong h d a imm) s = execXorLong h d a imm s := rfl
theorem exec_andn {s} {h ty d a b} : exec (.andn h ty d a b) s = execAndn h ty d a b s := rfl
theorem exec_not {s} {h ty d a} : exec (.not h ty d a) s = execNot h ty d a s := rfl
theorem exec_shl {s} {h ty d a b} : exec (.shl h ty d a b) s = execShl h ty d a b s := rfl
theorem exec_shr {s} {h ty d a b} : exec (.shr h ty d a b) s = execShr h ty d a b s := rfl
theorem exec_sar {s} {h ty d a b} : exec (.sar h ty d a b) s = execSar h ty d a b s := rfl
theorem exec_rol {s} {h ty d a b} : exec (.rol h ty d a b) s = execRol h ty d a b s := rfl
theorem exec_popc {s} {h ty d a} : exec (.popc h ty d a) s = execPopc h ty d a s := rfl
theorem exec_clz {s} {h ty d a} : exec (.clz h ty d a) s = execClz h ty d a s := rfl
theorem exec_ctz {s} {h ty d a} : exec (.ctz h ty d a) s = execCtz h ty d a s := rfl
theorem exec_brev {s} {h ty d a} : exec (.brev h ty d a) s = execBrev h ty d a s := rfl
theorem exec_bfx {s} {h ty d a b} : exec (.bfx h ty d a b) s = execBfx h ty d a b s := rfl
theorem exec_bfxLong {s} {h d a imm} : exec (.bfxLong h d a imm) s = execBfxLong h d a imm s := rfl
theorem exec_bfi {s} {h ty d a b c} : exec (.bfi h ty d a b c) s = execBfi h ty d a b c s := rfl
theorem exec_hadd {s} {h ty scl d a b} : exec (.hadd h ty scl d a b) s = execHadd h ty scl d a b s := rfl
theorem exec_haddLong {s} {h d a imm} : exec (.haddLong h d a imm) s = execHaddLong h d a imm s := rfl
theorem exec_hsub {s} {h d a b} : exec (.hsub h d a b) s = execHsub h d a b s := rfl
theorem exec_hsel {s} {h d a} : exec (.hsel h d a) s = execHsel h d a s := rfl
theorem exec_hoff {s} {h d a} : exec (.hoff h d a) s = execHoff h d a s := rfl
theorem exec_hmake {s} {h d a b} : exec (.hmake h d a b) s = execHmake h d a b s := rfl
theorem exec_hcmp {s} {h cc d a b} : exec (.hcmp h cc d a b) s = execHcmp h cc d a b s := rfl
theorem exec_badd {s} {h ty sat d a b} : exec (.badd h ty sat d a b) s = execBadd h ty sat d a b s := rfl
theorem exec_baddLong {s} {h d a imm} : exec (.baddLong h d a imm) s = execBaddLong h d a imm s := rfl
theorem exec_bsub {s} {h ty sat d a b} : exec (.bsub h ty sat d a b) s = execBsub h ty sat d a b s := rfl
theorem exec_bmul {s} {h ty sat d a b} : exec (.bmul h ty sat d a b) s = execBmul h ty sat d a b s := rfl
theorem exec_band {s} {h ty d a b} : exec (.band h ty d a b) s = execBand h ty d a b s := rfl
theorem exec_bor {s} {h ty d a b} : exec (.bor h ty d a b) s = execBor h ty d a b s := rfl
theorem exec_bxor {s} {h ty d a b} : exec (.bxor h ty d a b) s = execBxor h ty d a b s := rfl
theorem exec_bshl {s} {h ty d a b} : exec (.bshl h ty d a b) s = execBshl h ty d a b s := rfl
theorem exec_bshr {s} {h ty d a b} : exec (.bshr h ty d a b) s = execBshr h ty d a b s := rfl
theorem exec_bsar {s} {h ty d a b} : exec (.bsar h ty d a b) s = execBsar h ty d a b s := rfl
theorem exec_bmin {s} {h ty d a b} : exec (.bmin h ty d a b) s = execBmin h ty d a b s := rfl
theorem exec_bmax {s} {h ty d a b} : exec (.bmax h ty d a b) s = execBmax h ty d a b s := rfl
theorem exec_bmov {s} {h ty d b} : exec (.bmov h ty d b) s = execBmov h ty d b s := rfl
theorem exec_bmovLong {s} {h d imm} : exec (.bmovLong h d imm) s = execBmovLong h d imm s := rfl
theorem exec_bcmp {s} {h ty cc d a b} : exec (.bcmp h ty cc d a b) s = execBcmp h ty cc d a b s := rfl
theorem exec_bsel {s} {h ty d a b c} : exec (.bsel h ty d a b c) s = execBsel h ty d a b c s := rfl
theorem exec_qlog {s} {h op d a b} : exec (.qlog h op d a b) s = execQlog h op d a b s := rfl
theorem exec_bget {s} {h ty d a} : exec (.bget h ty d a) s = execBget h ty d a s := rfl
theorem exec_bred {s} {h ty sat red d a} : exec (.bred h ty sat red d a) s = execBred h ty sat red d a s := rfl
theorem exec_acq {s} {h tr d a} : exec (.acq h tr d a) s = execAcq h tr d a s := rfl
theorem exec_rel {s} {h a} : exec (.rel h a) s = execRel h a s := rfl
theorem exec_fadd {s} {h ty rnd ftz d a b} : exec (.fadd h ty rnd ftz d a b) s = execFadd h ty rnd ftz d a b s := rfl
theorem exec_faddLong {s} {h d a imm} : exec (.faddLong h d a imm) s = execFaddLong h d a imm s := rfl
theorem exec_fsub {s} {h ty rnd ftz d a b} : exec (.fsub h ty rnd ftz d a b) s = execFsub h ty rnd ftz d a b s := rfl
theorem exec_fmul {s} {h ty rnd ftz d a b} : exec (.fmul h ty rnd ftz d a b) s = execFmul h ty rnd ftz d a b s := rfl
theorem exec_fmulLong {s} {h d a imm} : exec (.fmulLong h d a imm) s = execFmulLong h d a imm s := rfl
theorem exec_ffma {s} {h ty rnd ftz d a b c} : exec (.ffma h ty rnd ftz d a b c) s = execFfma h ty rnd ftz d a b c s := rfl
theorem exec_fmin {s} {h ty ftz d a b} : exec (.fmin h ty ftz d a b) s = execFmin h ty ftz d a b s := rfl
theorem exec_fmax {s} {h ty ftz d a b} : exec (.fmax h ty ftz d a b) s = execFmax h ty ftz d a b s := rfl
theorem exec_fabs {s} {h ty d a} : exec (.fabs h ty d a) s = execFabs h ty d a s := rfl
theorem exec_fneg {s} {h ty d a} : exec (.fneg h ty d a) s = execFneg h ty d a s := rfl
theorem exec_fcmp {s} {h ty ftz cc d a b} : exec (.fcmp h ty ftz cc d a b) s = execFcmp h ty ftz cc d a b s := rfl
theorem exec_fclass {s} {h ty d a} : exec (.fclass h ty d a) s = execFclass h ty d a s := rfl
theorem exec_frnd {s} {h ty rnd d a} : exec (.frnd h ty rnd d a) s = execFrnd h ty rnd d a s := rfl
theorem exec_fscl {s} {h ty rnd ftz d a b} : exec (.fscl h ty rnd ftz d a b) s = execFscl h ty rnd ftz d a b s := rfl
theorem exec_fadd2 {s} {h ty rnd ftz d a b} : exec (.fadd2 h ty rnd ftz d a b) s = execFadd2 h ty rnd ftz d a b s := rfl
theorem exec_fsub2 {s} {h ty rnd ftz d a b} : exec (.fsub2 h ty rnd ftz d a b) s = execFsub2 h ty rnd ftz d a b s := rfl
theorem exec_fmul2 {s} {h ty rnd ftz d a b} : exec (.fmul2 h ty rnd ftz d a b) s = execFmul2 h ty rnd ftz d a b s := rfl
theorem exec_ffma2 {s} {h ty rnd ftz d a b c} : exec (.ffma2 h ty rnd ftz d a b c) s = execFfma2 h ty rnd ftz d a b c s := rfl
theorem exec_fmin2 {s} {h ty ftz d a b} : exec (.fmin2 h ty ftz d a b) s = execFmin2 h ty ftz d a b s := rfl
theorem exec_fmax2 {s} {h ty ftz d a b} : exec (.fmax2 h ty ftz d a b) s = execFmax2 h ty ftz d a b s := rfl
theorem exec_fcmp2 {s} {h ty ftz cc d a b} : exec (.fcmp2 h ty ftz cc d a b) s = execFcmp2 h ty ftz cc d a b s := rfl
theorem exec_fdot2 {s} {h ty rnd ftz d a b c} : exec (.fdot2 h ty rnd ftz d a b c) s = execFdot2 h ty rnd ftz d a b c s := rfl
theorem exec_cvt {s} {h ty ty2 rnd ftz ovf rx d a} : exec (.cvt h ty ty2 rnd ftz ovf rx d a) s = execCvt h ty ty2 rnd ftz ovf rx d a s := rfl
theorem exec_pack {s} {h ty rnd ftz ovf pos d a b} : exec (.pack h ty rnd ftz ovf pos d a b) s = execPack h ty rnd ftz ovf pos d a b s := rfl
theorem exec_unpk {s} {h ty pos scl d a b} : exec (.unpk h ty pos scl d a b) s = execUnpk h ty pos scl d a b s := rfl
theorem exec_fdiv {s} {h ty rnd ftz d a b} : exec (.fdiv h ty rnd ftz d a b) s = execFdiv h ty rnd ftz d a b s := rfl
theorem exec_fsqrt {s} {h ty rnd ftz d a} : exec (.fsqrt h ty rnd ftz d a) s = execFsqrt h ty rnd ftz d a s := rfl
theorem exec_rcp {s} {h ty ftz d a} : exec (.rcp h ty ftz d a) s = execRcp h ty ftz d a s := rfl
theorem exec_rsq {s} {h ty ftz d a} : exec (.rsq h ty ftz d a) s = execRsq h ty ftz d a s := rfl
theorem exec_ex2 {s} {h ty ftz d a} : exec (.ex2 h ty ftz d a) s = execEx2 h ty ftz d a s := rfl
theorem exec_lg2 {s} {h ty ftz d a} : exec (.lg2 h ty ftz d a) s = execLg2 h ty ftz d a s := rfl
theorem exec_sinpi {s} {h ty ftz d a} : exec (.sinpi h ty ftz d a) s = execSinpi h ty ftz d a s := rfl
theorem exec_cospi {s} {h ty ftz d a} : exec (.cospi h ty ftz d a) s = execCospi h ty ftz d a s := rfl
theorem exec_tanh {s} {h ty ftz d a} : exec (.tanh h ty ftz d a) s = execTanh h ty ftz d a s := rfl
theorem exec_shfl {s} {h ty mode seg d a b} : exec (.shfl h ty mode seg d a b) s = execShfl h ty mode seg d a b s := rfl
theorem exec_vote {s} {h vm d a} : exec (.vote h vm d a) s = execVote h vm d a s := rfl
theorem exec_lred {s} {h ty rnd ftz sat red d a} : exec (.lred h ty rnd ftz sat red d a) s = execLred h ty rnd ftz sat red d a s := rfl
theorem exec_scan {s} {h ty rnd ftz sat red exc d a} : exec (.scan h ty rnd ftz sat red exc d a) s = execScan h ty rnd ftz sat red exc d a s := rfl
theorem exec_bra {s} {h off} : exec (.bra h off) s = execBra h off s := rfl
theorem exec_braq {s} {h off} : exec (.braq h off) s = execBraq h off s := rfl
theorem exec_jmpi {s} {h a} : exec (.jmpi h a) s = execJmpi h a s := rfl
theorem exec_call {s} {h d off} : exec (.call h d off) s = execCall h d off s := rfl
theorem exec_callx {s} {h slot d} : exec (.callx h slot d) s = execCallx h slot d s := rfl
theorem exec_ret {s} {h a} : exec (.ret h a) s = execRet h a s := rfl
theorem exec_join {s} {h a} : exec (.join h a) s = execJoin h a s := rfl
theorem exec_exit {s} {h} : exec (.exit h) s = execExit h s := rfl
theorem exec_nap {s} {h a} : exec (.nap h a) s = execNap h a s := rfl
theorem exec_brk {s} {h code} : exec (.brk h code) s = execBrk h code s := rfl
theorem exec_trapi {s} {h code d} : exec (.trapi h code d) s = execTrapi h code d s := rfl
theorem exec_ld {s} {h ty sc ord lk slot d a b} : exec (.ld h ty sc ord lk slot d a b) s = execLd h ty sc ord lk slot d a b s := rfl
theorem exec_ldLong {s} {h d a imm} : exec (.ldLong h d a imm) s = execLdLong h d a imm s := rfl
theorem exec_st {s} {h ty sc ord lk slot d a b} : exec (.st h ty sc ord lk slot d a b) s = execSt h ty sc ord lk slot d a b s := rfl
theorem exec_stLong {s} {h d a imm} : exec (.stLong h d a imm) s = execStLong h d a imm s := rfl
theorem exec_aadd {s} {h ty sc ord d a b} : exec (.aadd h ty sc ord d a b) s = execAadd h ty sc ord d a b s := rfl
theorem exec_amin {s} {h ty sc ord d a b} : exec (.amin h ty sc ord d a b) s = execAmin h ty sc ord d a b s := rfl
theorem exec_amax {s} {h ty sc ord d a b} : exec (.amax h ty sc ord d a b) s = execAmax h ty sc ord d a b s := rfl
theorem exec_aand {s} {h ty sc ord d a b} : exec (.aand h ty sc ord d a b) s = execAand h ty sc ord d a b s := rfl
theorem exec_aor {s} {h ty sc ord d a b} : exec (.aor h ty sc ord d a b) s = execAor h ty sc ord d a b s := rfl
theorem exec_axor {s} {h ty sc ord d a b} : exec (.axor h ty sc ord d a b) s = execAxor h ty sc ord d a b s := rfl
theorem exec_axch {s} {h ty sc ord d a b} : exec (.axch h ty sc ord d a b) s = execAxch h ty sc ord d a b s := rfl
theorem exec_acas {s} {h ty sc ar d a b c} : exec (.acas h ty sc ar d a b c) s = execAcas h ty sc ar d a b c s := rfl
theorem exec_afadd {s} {h ty sc ord d a b} : exec (.afadd h ty sc ord d a b) s = execAfadd h ty sc ord d a b s := rfl
theorem exec_ldsp {s} {h ty sc ord d a b} : exec (.ldsp h ty sc ord d a b) s = execLdsp h ty sc ord d a b s := rfl
theorem exec_ldspLong {s} {h d a imm} : exec (.ldspLong h d a imm) s = execLdspLong h d a imm s := rfl
theorem exec_stsp {s} {h ty sc ord d a b} : exec (.stsp h ty sc ord d a b) s = execStsp h ty sc ord d a b s := rfl
theorem exec_stspLong {s} {h d a imm} : exec (.stspLong h d a imm) s = execStspLong h d a imm s := rfl
theorem exec_ldsg {s} {h ty sc ord d a b} : exec (.ldsg h ty sc ord d a b) s = execLdsg h ty sc ord d a b s := rfl
theorem exec_stsg {s} {h ty sc ord d a b} : exec (.stsg h ty sc ord d a b) s = execStsg h ty sc ord d a b s := rfl
theorem exec_symst {s} {h ty cpx d a b} : exec (.symst h ty cpx d a b) s = execSymst h ty cpx d a b s := rfl
theorem exec_push {s} {h cnt d a} : exec (.push h cnt d a) s = execPush h cnt d a s := rfl
theorem exec_pop {s} {h cnt d a} : exec (.pop h cnt d a) s = execPop h cnt d a s := rfl
theorem exec_pfet {s} {h tr a b} : exec (.pfet h tr a b) s = execPfet h tr a b s := rfl
theorem exec_fence {s} {h sc fk} : exec (.fence h sc fk) s = execFence h sc fk s := rfl
theorem exec_copyl {s} {h sz d a} : exec (.copyl h sz d a) s = execCopyl h sz d a s := rfl
theorem exec_copyt {s} {h a} : exec (.copyt h a) s = execCopyt h a s := rfl
theorem exec_copyg {s} {h a} : exec (.copyg h a) s = execCopyg h a s := rfl
theorem exec_mma {s} {h ty ty2 scl d a b c} : exec (.mma h ty ty2 scl d a b c) s = execMma h ty ty2 scl d a b c s := rfl
theorem exec_mchb {s} {h d a} : exec (.mchb h d a) s = execMchb h d a s := rfl
theorem exec_mche {s} {h d} : exec (.mche h d) s = execMche h d s := rfl
theorem exec_accz {s} {h d} : exec (.accz h d) s = execAccz h d s := rfl
theorem exec_accsc {s} {h d a} : exec (.accsc h d a) s = execAccsc h d a s := rfl
theorem exec_acccvt {s} {h ty scl a b c} : exec (.acccvt h ty scl a b c) s = execAcccvt h ty scl a b c s := rfl
theorem exec_lda {s} {h d a b} : exec (.lda h d a b) s = execLda h d a b s := rfl
theorem exec_sta {s} {h d a b} : exec (.sta h d a b) s = execSta h d a b s := rfl
theorem exec_guide {s} {h d a b} : exec (.guide h d a b) s = execGuide h d a b s := rfl
theorem exec_pairx {s} {h rj} : exec (.pairx h rj) s = execPairx h rj s := rfl
theorem exec_mbxtake {s} {h tr d a b} : exec (.mbxtake h tr d a b) s = execMbxtake h tr d a b s := rfl
theorem exec_mbxpost {s} {h tr d a b} : exec (.mbxpost h tr d a b) s = execMbxpost h tr d a b s := rfl
theorem exec_mbxdone {s} {h d a b} : exec (.mbxdone h d a b) s = execMbxdone h d a b s := rfl
theorem exec_recEmit {s} {h gr d a} : exec (.recEmit h gr d a) s = execRecEmit h gr d a s := rfl
theorem exec_recget {s} {h d a} : exec (.recget h d a) s = execRecget h d a s := rfl
theorem exec_fork {s} {h d a b} : exec (.fork h d a b) s = execFork h d a b s := rfl
theorem exec_phase {s} {h} : exec (.phase h) s = execPhase h s := rfl
theorem exec_roleqRes {s} {h d a} : exec (.roleqRes h d a) s = execRoleqRes h d a s := rfl
theorem exec_roleqPub {s} {h a b} : exec (.roleqPub h a b) s = execRoleqPub h a b s := rfl
theorem exec_roleqTake {s} {h d a} : exec (.roleqTake h d a) s = execRoleqTake h d a s := rfl
theorem exec_roleqFree {s} {h a b} : exec (.roleqFree h a b) s = execRoleqFree h a b s := rfl
theorem exec_drain {s} {h a} : exec (.drain h a) s = execDrain h a s := rfl
theorem exec_lref {s} {h slot d} : exec (.lref h slot d) s = execLref h slot d s := rfl
theorem exec_lbind {s} {h slot d a b} : exec (.lbind h slot d a b) s = execLbind h slot d a b s := rfl
theorem exec_lunb {s} {h slot d a} : exec (.lunb h slot d a) s = execLunb h slot d a s := rfl
theorem exec_lqry {s} {h slot d a} : exec (.lqry h slot d a) s = execLqry h slot d a s := rfl
theorem exec_sega {s} {h d a} : exec (.sega h d a) s = execSega h d a s := rfl
theorem exec_segf {s} {h a} : exec (.segf h a) s = execSegf h a s := rfl
theorem exec_segq {s} {h wd d a} : exec (.segq h wd d a) s = execSegq h wd d a s := rfl
theorem exec_segrt {s} {h a b} : exec (.segrt h a b) s = execSegrt h a b s := rfl
theorem exec_seal {s} {h} : exec (.seal h) s = execSeal h s := rfl
theorem exec_waitb {s} {h a} : exec (.waitb h a) s = execWaitb h a s := rfl
theorem exec_bar {s} {h} : exec (.bar h) s = execBar h s := rfl
theorem exec_cbar {s} {h} : exec (.cbar h) s = execCbar h s := rfl
theorem exec_arrive {s} {h rm a b c} : exec (.arrive h rm a b c) s = execArrive h rm a b c s := rfl
theorem exec_await {s} {h a b} : exec (.await h a b) s = execAwait h a b s := rfl
theorem exec_sread {s} {h ac d a} : exec (.sread h ac d a) s = execSread h ac d a s := rfl
theorem exec_swrite {s} {h d b} : exec (.swrite h d b) s = execSwrite h d b s := rfl
theorem exec_acqGrant {s} {core slice lid} : exec (.acqGrant core slice lid) s = execAcqGrant core slice lid s := rfl
theorem exec_acqDenial {s} {core slice lid} : exec (.acqDenial core slice lid) s = execAcqDenial core slice lid s := rfl
theorem exec_joinRelease {s} {gid band} : exec (.joinRelease gid band) s = execJoinRelease gid band s := rfl
theorem exec_collectiveExecute {s} {gid band} : exec (.collectiveExecute gid band) s = execCollectiveExecute gid band s := rfl
theorem exec_napExpiry {s} {gid band lane} : exec (.napExpiry gid band lane) s = execNapExpiry gid band lane s := rfl
theorem exec_loadReturn {s} {id late ecc} : exec (.loadReturn id late ecc) s = execLoadReturn id late ecc s := rfl
theorem exec_atomicReturn {s} {id} : exec (.atomicReturn id) s = execAtomicReturn id s := rfl
theorem exec_remoteWriteApply {s} {wid die} : exec (.remoteWriteApply wid die) s = execRemoteWriteApply wid die s := rfl
theorem exec_fenceComplete {s} {gid band lane} : exec (.fenceComplete gid band lane) s = execFenceComplete gid band lane s := rfl
theorem exec_pageMigration {s} {ctx sel page die} : exec (.pageMigration ctx sel page die) s = execPageMigration ctx sel page die s := rfl
theorem exec_patrolScrub {s} {die kind bad} : exec (.patrolScrub die kind bad) s = execPatrolScrub die kind bad s := rfl
theorem exec_demandPageService {s} {ctx sel page grant} : exec (.demandPageService ctx sel page grant) s = execDemandPageService ctx sel page grant s := rfl
theorem exec_privateGrowthService {s} {gid band grant} : exec (.privateGrowthService gid band grant) s = execPrivateGrowthService gid band grant s := rfl
theorem exec_twinWaitResolve {s} {gid band} : exec (.twinWaitResolve gid band) s = execTwinWaitResolve gid band s := rfl
theorem exec_copyLanding {s} {id how} : exec (.copyLanding id how) s = execCopyLanding id how s := rfl
theorem exec_copyFault {s} {id piece} : exec (.copyFault id piece) s = execCopyFault id piece s := rfl
theorem exec_mmaStep {s} {core how} : exec (.mmaStep core how) s = execMmaStep core how s := rfl
theorem exec_mchbApply {s} {core cmd} : exec (.mchbApply core cmd) s = execMchbApply core cmd s := rfl
theorem exec_mcheApply {s} {core cmd} : exec (.mcheApply core cmd) s = execMcheApply core cmd s := rfl
theorem exec_acczApply {s} {core cmd} : exec (.acczApply core cmd) s = execAcczApply core cmd s := rfl
theorem exec_accscApply {s} {core how} : exec (.accscApply core how) s = execAccscApply core how s := rfl
theorem exec_acccvtApply {s} {core cmd} : exec (.acccvtApply core cmd) s = execAcccvtApply core cmd s := rfl
theorem exec_staApply {s} {core cmd} : exec (.staApply core cmd) s = execStaApply core cmd s := rfl
theorem exec_guideApply {s} {core cmd} : exec (.guideApply core cmd) s = execGuideApply core cmd s := rfl
theorem exec_mbxtakeWake {s} {gid band} : exec (.mbxtakeWake gid band) s = execMbxtakeWake gid band s := rfl
theorem exec_mbxpostWake {s} {gid band} : exec (.mbxpostWake gid band) s = execMbxpostWake gid band s := rfl
theorem exec_nodeCountdownExpiry {s} {part gather pol} : exec (.nodeCountdownExpiry part gather pol) s = execNodeCountdownExpiry part gather pol s := rfl
theorem exec_childAdmit {s} {part pol} : exec (.childAdmit part pol) s = execChildAdmit part pol s := rfl
theorem exec_spillRefill {s} {ctx part} : exec (.spillRefill ctx part) s = execSpillRefill ctx part s := rfl
theorem exec_forkResume {s} {gid core cls} : exec (.forkResume gid core cls) s = execForkResume gid core cls s := rfl
theorem exec_inlineChildEnd {s} {gid} : exec (.inlineChildEnd gid) s = execInlineChildEnd gid s := rfl
theorem exec_phaseReseat {s} {core} : exec (.phaseReseat core) s = execPhaseReseat core s := rfl
theorem exec_roleqWake {s} {gid band} : exec (.roleqWake gid band) s = execRoleqWake gid band s := rfl
theorem exec_pennantPass {s} {ctx graph} : exec (.pennantPass ctx graph) s = execPennantPass ctx graph s := rfl
theorem exec_nameResolution {s} {ctx sel slot} : exec (.nameResolution ctx sel slot) s = execNameResolution ctx sel slot s := rfl
theorem exec_sealRelease {s} {gid band lane} : exec (.sealRelease gid band lane) s = execSealRelease gid band lane s := rfl
theorem exec_waitbRelease {s} {gid band lane} : exec (.waitbRelease gid band lane) s = execWaitbRelease gid band lane s := rfl
theorem exec_barRelease {s} {gid} : exec (.barRelease gid) s = execBarRelease gid s := rfl
theorem exec_cbarRelease {s} {cid} : exec (.cbarRelease cid) s = execCbarRelease cid s := rfl
theorem exec_arriveApply {s} {id} : exec (.arriveApply id) s = execArriveApply id s := rfl
theorem exec_awaitRelease {s} {gid band} : exec (.awaitRelease gid band) s = execAwaitRelease gid band s := rfl
theorem exec_bandSelect {s} {picks} : exec (.bandSelect picks) s = execBandSelect picks s := rfl
theorem exec_admissionCommit {s} {part} : exec (.admissionCommit part) s = execAdmissionCommit part s := rfl
theorem exec_seating {s} {core} : exec (.seating core) s = execSeating core s := rfl
theorem exec_groupRestore {s} {core} : exec (.groupRestore core) s = execGroupRestore core s := rfl
theorem exec_groupPreempt {s} {gid} : exec (.groupPreempt gid) s = execGroupPreempt gid s := rfl
theorem exec_partitionSave {s} {part slot} : exec (.partitionSave part slot) s = execPartitionSave part slot s := rfl
theorem exec_partitionRestore {s} {part slot} : exec (.partitionRestore part slot) s = execPartitionRestore part slot s := rfl
theorem exec_partitionExchange {s} {part slot} : exec (.partitionExchange part slot) s = execPartitionExchange part slot s := rfl
theorem exec_haltLineArrival {s} {ctx core} : exec (.haltLineArrival ctx core) s = execHaltLineArrival ctx core s := rfl
theorem exec_haltSettled {s} {ctx} : exec (.haltSettled ctx) s = execHaltSettled ctx s := rfl
theorem exec_unbindComplete {s} {ctx sel slot} : exec (.unbindComplete ctx sel slot) s = execUnbindComplete ctx sel slot s := rfl
theorem exec_moveComplete {s} {gid} : exec (.moveComplete gid) s = execMoveComplete gid s := rfl
theorem exec_scrubComplete {s} : exec .scrubComplete s = execScrubComplete s := rfl
theorem exec_serviceWindowAccess {s} {addr size wr} : exec (.serviceWindowAccess addr size wr) s = execServiceWindowAccess addr size wr s := rfl
theorem exec_mailboxSubmit {s} {ctx mbx store} : exec (.mailboxSubmit ctx mbx store) s = execMailboxSubmit ctx mbx store s := rfl
theorem exec_recordAccept {s} {ctx mbx} : exec (.recordAccept ctx mbx) s = execRecordAccept ctx mbx s := rfl
theorem exec_launchRecord {s} {ctx mbx pol} : exec (.launchRecord ctx mbx pol) s = execLaunchRecord ctx mbx pol s := rfl
theorem exec_ctxCreate {s} {r image} : exec (.ctxCreate r image) s = execCtxCreate r image s := rfl
theorem exec_ctxDestroy {s} {r} : exec (.ctxDestroy r) s = execCtxDestroy r s := rfl
theorem exec_segCreate {s} {r desc} : exec (.segCreate r desc) s = execSegCreate r desc s := rfl
theorem exec_segFree {s} {r sel} : exec (.segFree r sel) s = execSegFree r sel s := rfl
theorem exec_codeInstall {s} {r image} : exec (.codeInstall r image) s = execCodeInstall r image s := rfl
theorem exec_codeRemove {s} {r sel} : exec (.codeRemove r sel) s = execCodeRemove r sel s := rfl
theorem exec_mailboxSet {s} {r mbx desc} : exec (.mailboxSet r mbx desc) s = execMailboxSet r mbx desc s := rfl
theorem exec_unbind {s} {r args} : exec (.unbind r args) s = execUnbind r args s := rfl
theorem exec_stop {s} {r} : exec (.stop r) s = execStop r s := rfl
theorem exec_resumeCtx {s} {r} : exec (.resumeCtx r) s = execResumeCtx r s := rfl
theorem exec_teardown {s} {r} : exec (.teardown r) s = execTeardown r s := rfl
theorem exec_readHalt {s} {r addr} : exec (.readHalt r addr) s = execReadHalt r addr s := rfl
theorem exec_reply {s} {r seq value} : exec (.reply r seq value) s = execReply r seq value s := rfl
theorem exec_eventRing {s} {r ring produced k} : exec (.eventRing r ring produced k) s = execEventRing r ring produced k s := rfl
theorem exec_eventRingConsumed {s} {port index} : exec (.eventRingConsumed port index) s = execEventRingConsumed port index s := rfl
theorem exec_leaseRenew {s} {r n} : exec (.leaseRenew r n) s = execLeaseRenew r n s := rfl
theorem exec_leaseTake {s} {r n} : exec (.leaseTake r n) s = execLeaseTake r n s := rfl
theorem exec_leaseCountdown {s} : exec .leaseCountdown s = execLeaseCountdown s := rfl
theorem exec_setMode {s} {r mode} : exec (.setMode r mode) s = execSetMode r mode s := rfl
theorem exec_powerCap {s} {r watts} : exec (.powerCap r watts) s = execPowerCap r watts s := rfl
theorem exec_sealKey {s} {r slot sel key tags} : exec (.sealKey r slot sel key tags) s = execSealKey r slot sel key tags s := rfl
theorem exec_aperture {s} {r sel} : exec (.aperture r sel) s = execAperture r sel s := rfl
theorem exec_bind {s} {r args} : exec (.bind r args) s = execBind r args s := rfl
theorem exec_bar2Access {s} {port off n op ide} : exec (.bar2Access port off n op ide) s = execBar2Access port off n op ide s := rfl
theorem exec_bar0WriteOther {s} {port op} : exec (.bar0WriteOther port op) s = execBar0WriteOther port op s := rfl
theorem exec_peerTimeout {s} {id} : exec (.peerTimeout id) s = execPeerTimeout id s := rfl
theorem exec_fabricPortFail {s} {port} : exec (.fabricPortFail port) s = execFabricPortFail port s := rfl
theorem exec_lockstepMismatch {s} {die} : exec (.lockstepMismatch die) s = execLockstepMismatch die s := rfl
theorem exec_heartbeat {s} : exec .heartbeat s = execHeartbeat s := rfl
theorem exec_ensignTakeover {s} : exec .ensignTakeover s = execEnsignTakeover s := rfl
theorem exec_coldBoot {s} {boot} : exec (.coldBoot boot) s = execColdBoot boot s := rfl
theorem exec_warmReset {s} {pass} : exec (.warmReset pass) s = execWarmReset pass s := rfl
theorem exec_dieReset {s} {die} : exec (.dieReset die) s = execDieReset die s := rfl
theorem exec_levelRaise {s} : exec .levelRaise s = execLevelRaise s := rfl
theorem exec_spdmRequest {s} {port m} : exec (.spdmRequest port m) s = execSpdmRequest port m s := rfl
theorem exec_tdiConfigChange {s} {port} : exec (.tdiConfigChange port) s = execTdiConfigChange port s := rfl
theorem exec_pageSeal {s} {ctx sel page} : exec (.pageSeal ctx sel page) s = execPageSeal ctx sel page s := rfl
theorem exec_powerThrottle {s} {watts hot} : exec (.powerThrottle watts hot) s = execPowerThrottle watts hot s := rfl
theorem exec_powerRestore {s} {watts} : exec (.powerRestore watts) s = execPowerRestore watts s := rfl
theorem exec_peerRequest {s} {p} : exec (.peerRequest p) s = execPeerRequest p s := rfl
theorem exec_peerGrant {s} {ctx dev peerCtx outgoing} : exec (.peerGrant ctx dev peerCtx outgoing) s = execPeerGrant ctx dev peerCtx outgoing s := rfl
theorem exec_tdispRequest {s} {port m} : exec (.tdispRequest port m) s = execTdispRequest port m s := rfl
theorem exec_fabricPortRetrained {s} {port} : exec (.fabricPortRetrained port) s = execFabricPortRetrained port s := rfl

end Sys2Proof.Machine
end

