-- ==== Sys2Proof/Laws/Encoding.lean ====
section
/-! SUPPORT. The encodings field by field: a word's fields are what they were put together from, and each code and operand field decodes to what
it encodes. -/

namespace Sys2Proof

/-! ### Parts of concatenated fields -/

theorem extract_append_high {w v : Nat} (x : BitVec w) (y : BitVec v) (s n : Nat) : (x ++ y).extractLsb' (s + v) n = x.extractLsb' s n := by
  ext i hi
  simp [BitVec.getLsbD_append, show ¬ s + v + i < v by omega, show s + v + i - v = s + i by omega]
theorem extract_append_low {w v : Nat} (x : BitVec w) (y : BitVec v) : (x ++ y).extractLsb' 0 v = y := by
  ext i hi
  simp [BitVec.getLsbD_append, hi]
theorem extract_all {w : Nat} (x : BitVec w) : x.extractLsb' 0 w = x := by simp
theorem bit_append_high {w v : Nat} (x : BitVec w) (y : BitVec v) (s : Nat) : (x ++ y).getLsbD (s + v) = x.getLsbD s := by
  simp [BitVec.getLsbD_append, show ¬ s + v < v by omega]
theorem bit_append_low {w : Nat} (x : BitVec w) (b : Bool) : (x ++ BitVec.ofBool b).getLsbD 0 = b := by
  rw [BitVec.getLsbD_append]; simp


/-! ### The layouts -/

theorem Xm.ofBits_bits (m : Xm) : Xm.ofBits m.bits = m := by
  obtain ⟨a, b, c, d, e, f, g⟩ := m
  simp only [Xm.ofBits, Xm.bits, Xm.mk.injEq]
  exact ⟨((extract_append_high (w := 17) (v := 15) _ _ 15 2).trans ((extract_append_high (w := 12) (v := 5) _ _ 10 2).trans ((extract_append_high (w := 9) (v := 3) _ _ 7 2).trans ((extract_append_high (w := 4) (v := 5) _ _ 2 2).trans ((extract_append_high (w := 3) (v := 1) _ _ 1 2).trans ((extract_append_high (w := 2) (v := 1) _ _ 0 2).trans (extract_all _))))))),
    ((bit_append_high (w := 17) (v := 15) _ _ 14).trans ((bit_append_high (w := 12) (v := 5) _ _ 9).trans ((bit_append_high (w := 9) (v := 3) _ _ 6).trans ((bit_append_high (w := 4) (v := 5) _ _ 1).trans ((bit_append_high (w := 3) (v := 1) _ _ 0).trans (bit_append_low (w := 2) _ _)))))),
    ((bit_append_high (w := 17) (v := 15) _ _ 13).trans ((bit_append_high (w := 12) (v := 5) _ _ 8).trans ((bit_append_high (w := 9) (v := 3) _ _ 5).trans ((bit_append_high (w := 4) (v := 5) _ _ 0).trans (bit_append_low (w := 3) _ _))))),
    ((extract_append_high (w := 17) (v := 15) _ _ 8 5).trans ((extract_append_high (w := 12) (v := 5) _ _ 3 5).trans ((extract_append_high (w := 9) (v := 3) _ _ 0 5).trans (extract_append_low (w := 4) (v := 5) _ _)))),
    ((extract_append_high (w := 17) (v := 15) _ _ 5 3).trans ((extract_append_high (w := 12) (v := 5) _ _ 0 3).trans (extract_append_low (w := 9) (v := 3) _ _))),
    ((extract_append_high (w := 17) (v := 15) _ _ 0 5).trans (extract_append_low (w := 12) (v := 5) _ _)),
    (extract_append_low (w := 17) (v := 15) _ _)⟩
theorem Xc.ofBits_bits (m : Xc) : Xc.ofBits m.bits = m := by
  obtain ⟨a, b, c, d, e, f, g, h⟩ := m
  simp only [Xc.ofBits, Xc.bits, Xc.mk.injEq]
  exact ⟨((extract_append_high (w := 18) (v := 14) _ _ 16 2).trans ((extract_append_high (w := 17) (v := 1) _ _ 15 2).trans ((extract_append_high (w := 12) (v := 5) _ _ 10 2).trans ((extract_append_high (w := 9) (v := 3) _ _ 7 2).trans ((extract_append_high (w := 4) (v := 5) _ _ 2 2).trans ((extract_append_high (w := 3) (v := 1) _ _ 1 2).trans ((extract_append_high (w := 2) (v := 1) _ _ 0 2).trans (extract_all _)))))))),
    ((bit_append_high (w := 18) (v := 14) _ _ 15).trans ((bit_append_high (w := 17) (v := 1) _ _ 14).trans ((bit_append_high (w := 12) (v := 5) _ _ 9).trans ((bit_append_high (w := 9) (v := 3) _ _ 6).trans ((bit_append_high (w := 4) (v := 5) _ _ 1).trans ((bit_append_high (w := 3) (v := 1) _ _ 0).trans (bit_append_low (w := 2) _ _))))))),
    ((bit_append_high (w := 18) (v := 14) _ _ 14).trans ((bit_append_high (w := 17) (v := 1) _ _ 13).trans ((bit_append_high (w := 12) (v := 5) _ _ 8).trans ((bit_append_high (w := 9) (v := 3) _ _ 5).trans ((bit_append_high (w := 4) (v := 5) _ _ 0).trans (bit_append_low (w := 3) _ _)))))),
    ((extract_append_high (w := 18) (v := 14) _ _ 9 5).trans ((extract_append_high (w := 17) (v := 1) _ _ 8 5).trans ((extract_append_high (w := 12) (v := 5) _ _ 3 5).trans ((extract_append_high (w := 9) (v := 3) _ _ 0 5).trans (extract_append_low (w := 4) (v := 5) _ _))))),
    ((extract_append_high (w := 18) (v := 14) _ _ 6 3).trans ((extract_append_high (w := 17) (v := 1) _ _ 5 3).trans ((extract_append_high (w := 12) (v := 5) _ _ 0 3).trans (extract_append_low (w := 9) (v := 3) _ _)))),
    ((extract_append_high (w := 18) (v := 14) _ _ 1 5).trans ((extract_append_high (w := 17) (v := 1) _ _ 0 5).trans (extract_append_low (w := 12) (v := 5) _ _))),
    ((bit_append_high (w := 18) (v := 14) _ _ 0).trans (bit_append_low (w := 17) _ _)),
    (extract_append_low (w := 18) (v := 14) _ _)⟩
theorem Raw.ofWord_toWord (m : Raw) : Raw.ofWord m.toWord = m := by
  obtain ⟨a, b, c, d, e, f, g, h, j, k⟩ := m
  simp only [Raw.ofWord, Raw.toWord, Raw.mk.injEq]
  exact ⟨((extract_append_high (w := 86) (v := 10) _ _ 54 32).trans ((extract_append_high (w := 83) (v := 3) _ _ 51 32).trans ((extract_append_high (w := 82) (v := 1) _ _ 50 32).trans ((extract_append_high (w := 78) (v := 4) _ _ 46 32).trans ((extract_append_high (w := 76) (v := 2) _ _ 44 32).trans ((extract_append_high (w := 62) (v := 14) _ _ 30 32).trans ((extract_append_high (w := 48) (v := 14) _ _ 16 32).trans ((extract_append_high (w := 34) (v := 14) _ _ 2 32).trans ((extract_append_high (w := 32) (v := 2) _ _ 0 32).trans (extract_all _)))))))))),
    ((extract_append_high (w := 86) (v := 10) _ _ 52 2).trans ((extract_append_high (w := 83) (v := 3) _ _ 49 2).trans ((extract_append_high (w := 82) (v := 1) _ _ 48 2).trans ((extract_append_high (w := 78) (v := 4) _ _ 44 2).trans ((extract_append_high (w := 76) (v := 2) _ _ 42 2).trans ((extract_append_high (w := 62) (v := 14) _ _ 28 2).trans ((extract_append_high (w := 48) (v := 14) _ _ 14 2).trans ((extract_append_high (w := 34) (v := 14) _ _ 0 2).trans (extract_append_low (w := 32) (v := 2) _ _))))))))),
    ((extract_append_high (w := 86) (v := 10) _ _ 38 14).trans ((extract_append_high (w := 83) (v := 3) _ _ 35 14).trans ((extract_append_high (w := 82) (v := 1) _ _ 34 14).trans ((extract_append_high (w := 78) (v := 4) _ _ 30 14).trans ((extract_append_high (w := 76) (v := 2) _ _ 28 14).trans ((extract_append_high (w := 62) (v := 14) _ _ 14 14).trans ((extract_append_high (w := 48) (v := 14) _ _ 0 14).trans (extract_append_low (w := 34) (v := 14) _ _)))))))),
    ((extract_append_high (w := 86) (v := 10) _ _ 24 14).trans ((extract_append_high (w := 83) (v := 3) _ _ 21 14).trans ((extract_append_high (w := 82) (v := 1) _ _ 20 14).trans ((extract_append_high (w := 78) (v := 4) _ _ 16 14).trans ((extract_append_high (w := 76) (v := 2) _ _ 14 14).trans ((extract_append_high (w := 62) (v := 14) _ _ 0 14).trans (extract_append_low (w := 48) (v := 14) _ _))))))),
    ((extract_append_high (w := 86) (v := 10) _ _ 10 14).trans ((extract_append_high (w := 83) (v := 3) _ _ 7 14).trans ((extract_append_high (w := 82) (v := 1) _ _ 6 14).trans ((extract_append_high (w := 78) (v := 4) _ _ 2 14).trans ((extract_append_high (w := 76) (v := 2) _ _ 0 14).trans (extract_append_low (w := 62) (v := 14) _ _)))))),
    ((extract_append_high (w := 86) (v := 10) _ _ 8 2).trans ((extract_append_high (w := 83) (v := 3) _ _ 5 2).trans ((extract_append_high (w := 82) (v := 1) _ _ 4 2).trans ((extract_append_high (w := 78) (v := 4) _ _ 0 2).trans (extract_append_low (w := 76) (v := 2) _ _))))),
    ((extract_append_high (w := 86) (v := 10) _ _ 4 4).trans ((extract_append_high (w := 83) (v := 3) _ _ 1 4).trans ((extract_append_high (w := 82) (v := 1) _ _ 0 4).trans (extract_append_low (w := 78) (v := 4) _ _)))),
    ((bit_append_high (w := 86) (v := 10) _ _ 3).trans ((bit_append_high (w := 83) (v := 3) _ _ 0).trans (bit_append_low (w := 82) _ _))),
    ((extract_append_high (w := 86) (v := 10) _ _ 0 3).trans (extract_append_low (w := 83) (v := 3) _ _)),
    (extract_append_low (w := 86) (v := 10) _ _)⟩

/-! ### Codes and operands -/

@[simp] theorem Ty.ofCode_code (t : Ty) : Ty.ofCode t.code = some t := by cases t <;> rfl
@[simp] theorem Rnd.ofCode_code (t : Rnd) : Rnd.ofCode t.code = some t := by cases t <;> rfl
@[simp] theorem Scope.ofCode_code (t : Scope) : Scope.ofCode t.code = some t := by cases t <;> rfl
@[simp] theorem Cc.ofCode_code (t : Cc) : Cc.ofCode t.code = some t := by cases t <;> rfl
@[simp] theorem Fcc.ofCode_code (t : Fcc) : Fcc.ofCode t.code = some t := by cases t <;> rfl
@[simp] theorem Opl.ofCode_code (t : Opl) : Opl.ofCode t.code = some t := by cases t <;> rfl
@[simp] theorem Red.ofCode_code (t : Red) : Red.ofCode t.code = some t := by cases t <;> rfl
@[simp] theorem ShMode.ofCode_code (t : ShMode) : ShMode.ofCode t.code = some t := by cases t <;> rfl
@[simp] theorem ShSeg.ofCode_code (t : ShSeg) : ShSeg.ofCode t.code = some t := by cases t <;> rfl
@[simp] theorem VoteMode.ofCode_code (t : VoteMode) : VoteMode.ofCode t.code = some t := by cases t <;> rfl
@[simp] theorem Ord.ofCode_code (t : Ord) : Ord.ofCode t.code = some t := by cases t <;> rfl
@[simp] theorem FenceKind.ofCode_code (t : FenceKind) : FenceKind.ofCode t.code = some t := by cases t <;> rfl
@[simp] theorem CopySz.ofCode_code (t : CopySz) : CopySz.ofCode t.code = some t := by cases t <;> rfl
@[simp] theorem SReg.ofCode_code (t : SReg) : SReg.ofCode t.code = some t := by cases t <;> rfl
@[simp] theorem Opd.dec_enc (x : Opd) : Opd.dec x.enc = some x := by
  cases x with
  | v i => revert i; decide +kernel
  | o i => revert i; decide +kernel
  | l i => revert i; decide +kernel
  | b i => revert i; decide +kernel
  | p i => revert i; decide +kernel
  | q i => revert i; decide +kernel
  | acc i => revert i; decide +kernel
  | s r => cases r <;> rfl
  | imm i => revert i; decide +kernel
theorem Opd.enc_ne_zero (x : Opd) (h : x.isUni = true) : x.enc ≠ 0#14 := by
  cases x with
  | v i => simp [Opd.isUni, Opd.isBSrc] at h
  | o i => revert i; decide +kernel
  | l i => revert i; decide +kernel
  | b i => revert i; decide +kernel
  | p i => revert i; decide +kernel
  | q i => revert i; decide +kernel
  | acc i => revert i; decide +kernel
  | s r => cases r <;> decide
  | imm i => revert i; decide +kernel
theorem Opd.decOpt_encOpt (x : Option Opd) (h : Opd.uniOrNone x = true) : Opd.decOpt (Opd.encOpt x) = some x := by
  cases x with
  | none => rfl
  | some x => simp [Opd.encOpt, Opd.decOpt, Opd.enc_ne_zero x (by simpa [Opd.uniOrNone] using h)]

@[simp] theorem Raw.hdr_of (h : Hdr) (op : BitVec 10) (d a b : BitVec 14) (x : Word) : (Raw.of h op d a b x).hdr = h := by
  obtain ⟨gp, gn, la, hy⟩ := h
  cases hy <;> rfl
@[simp] theorem Raw.plain_of (h : Hdr) (op : BitVec 10) (d a b : BitVec 14) (x : Word) : (Raw.of h op d a b x).plain = true := by
  obtain ⟨gp, gn, la, hy⟩ := h
  cases hy <;> rfl
@[simp] theorem Raw.op_of (h : Hdr) (op : BitVec 10) (d a b : BitVec 14) (x : Word) : (Raw.of h op d a b x).op = op := rfl
@[simp] theorem Raw.d_of (h : Hdr) (op : BitVec 10) (d a b : BitVec 14) (x : Word) : (Raw.of h op d a b x).d = d := rfl
@[simp] theorem Raw.a_of (h : Hdr) (op : BitVec 10) (d a b : BitVec 14) (x : Word) : (Raw.of h op d a b x).a = a := rfl
@[simp] theorem Raw.b_of (h : Hdr) (op : BitVec 10) (d a b : BitVec 14) (x : Word) : (Raw.of h op d a b x).b = b := rfl
@[simp] theorem Raw.x_of (h : Hdr) (op : BitVec 10) (d a b : BitVec 14) (x : Word) : (Raw.of h op d a b x).x = x := rfl
theorem check_true {α : Type} (e : DecErr) (c : Bool) (k : Except DecErr α) (h : c = true) : check e c k = k := by simp [check, h]
@[simp] theorem need_some {α β : Type} (e : DecErr) (x : α) (k : α → Except DecErr β) : need e (some x) k = k x := rfl
theorem finish_wf (i : Instr) (h : i.wf = true) : finish i = .ok i := by simp [finish, h]

/-! ### The per-opcode bits by their layout -/

@[simp] theorem per_10_3_2_5 (x : BitVec 3) (y : BitVec 2) : (0#10 ++ x ++ y : BitVec 15).extractLsb' 5 10 = 0#10 :=
  ((extract_append_high (w := 13) (v := 2) _ _ 3 10).trans ((extract_append_high (w := 10) (v := 3) _ _ 0 10).trans (extract_all _)))
@[simp] theorem per_10_3_2_2 (x : BitVec 3) (y : BitVec 2) : (0#10 ++ x ++ y : BitVec 15).extractLsb' 2 3 = x :=
  ((extract_append_high (w := 13) (v := 2) _ _ 0 3).trans (extract_append_low (w := 10) (v := 3) _ _))
@[simp] theorem per_10_3_2_0 (x : BitVec 3) (y : BitVec 2) : (0#10 ++ x ++ y : BitVec 15).extractLsb' 0 2 = y :=
  (extract_append_low (w := 13) (v := 2) _ _)
@[simp] theorem per_11_b_3_4 (b : Bool) (x : BitVec 3) : (0#11 ++ BitVec.ofBool b ++ x : BitVec 15).extractLsb' 4 11 = 0#11 :=
  ((extract_append_high (w := 12) (v := 3) _ _ 1 11).trans ((extract_append_high (w := 11) (v := 1) _ _ 0 11).trans (extract_all _)))
@[simp] theorem per_11_b_3_3 (b : Bool) (x : BitVec 3) : (0#11 ++ BitVec.ofBool b ++ x : BitVec 15)[3] = b :=
  ((bit_append_high (w := 12) (v := 3) _ _ 0).trans (bit_append_low (w := 11) _ _))
@[simp] theorem per_11_b_3_0 (b : Bool) (x : BitVec 3) : (0#11 ++ BitVec.ofBool b ++ x : BitVec 15).extractLsb' 0 3 = x :=
  (extract_append_low (w := 12) (v := 3) _ _)
@[simp] theorem per_11_4_4 (x : BitVec 4) : (0#11 ++ x : BitVec 15).extractLsb' 4 11 = 0#11 :=
  ((extract_append_high (w := 11) (v := 4) _ _ 0 11).trans (extract_all _))
@[simp] theorem per_11_4_0 (x : BitVec 4) : (0#11 ++ x : BitVec 15).extractLsb' 0 4 = x :=
  (extract_append_low (w := 11) (v := 4) _ _)
@[simp] theorem per_12_3_3 (x : BitVec 3) : (0#12 ++ x : BitVec 15).extractLsb' 3 12 = 0#12 :=
  ((extract_append_high (w := 12) (v := 3) _ _ 0 12).trans (extract_all _))
@[simp] theorem per_12_3_0 (x : BitVec 3) : (0#12 ++ x : BitVec 15).extractLsb' 0 3 = x :=
  (extract_append_low (w := 12) (v := 3) _ _)
@[simp] theorem per_13_2_2 (x : BitVec 2) : (0#13 ++ x : BitVec 15).extractLsb' 2 13 = 0#13 :=
  ((extract_append_high (w := 13) (v := 2) _ _ 0 13).trans (extract_all _))
@[simp] theorem per_13_2_0 (x : BitVec 2) : (0#13 ++ x : BitVec 15).extractLsb' 0 2 = x :=
  (extract_append_low (w := 13) (v := 2) _ _)
@[simp] theorem per_14_b_1 (b : Bool) : (0#14 ++ BitVec.ofBool b : BitVec 15).extractLsb' 1 14 = 0#14 :=
  ((extract_append_high (w := 14) (v := 1) _ _ 0 14).trans (extract_all _))
@[simp] theorem per_14_b_0 (b : Bool) : (0#14 ++ BitVec.ofBool b : BitVec 15)[0] = b :=
  (bit_append_low (w := 14) _ _)
@[simp] theorem per_3_12_12 (x : BitVec 12) : (0#3 ++ x : BitVec 15).extractLsb' 12 3 = 0#3 :=
  ((extract_append_high (w := 3) (v := 12) _ _ 0 3).trans (extract_all _))
@[simp] theorem per_3_12_0 (x : BitVec 12) : (0#3 ++ x : BitVec 15).extractLsb' 0 12 = x :=
  (extract_append_low (w := 3) (v := 12) _ _)
@[simp] theorem per_7_8_8 (x : BitVec 8) : (0#7 ++ x : BitVec 15).extractLsb' 8 7 = 0#7 :=
  ((extract_append_high (w := 7) (v := 8) _ _ 0 7).trans (extract_all _))
@[simp] theorem per_7_8_0 (x : BitVec 8) : (0#7 ++ x : BitVec 15).extractLsb' 0 8 = x :=
  (extract_append_low (w := 7) (v := 8) _ _)
@[simp] theorem per_12_b_2_3 (x : BitVec 12) (b : Bool) (y : BitVec 2) : (x ++ BitVec.ofBool b ++ y : BitVec 15).extractLsb' 3 12 = x :=
  ((extract_append_high (w := 13) (v := 2) _ _ 1 12).trans ((extract_append_high (w := 12) (v := 1) _ _ 0 12).trans (extract_all _)))
@[simp] theorem per_12_b_2_2 (x : BitVec 12) (b : Bool) (y : BitVec 2) : (x ++ BitVec.ofBool b ++ y : BitVec 15)[2] = b :=
  ((bit_append_high (w := 13) (v := 2) _ _ 0).trans (bit_append_low (w := 12) _ _))
@[simp] theorem per_12_b_2_0 (x : BitVec 12) (b : Bool) (y : BitVec 2) : (x ++ BitVec.ofBool b ++ y : BitVec 15).extractLsb' 0 2 = y :=
  (extract_append_low (w := 13) (v := 2) _ _)
@[simp] theorem enc_v_zero : (Opd.v 0#8).enc = 0#14 := rfl

end Sys2Proof
end

