-- ==== Sys2Proof/Laws/Tab.lean ====
section
/-! SUPPORT. Tables, lists by place, and what a read after a write gives. -/

namespace Sys2Proof.Machine

theorem tabGet_tabSet {α : Type} (t : Tab α) (i j : Nat) (x : α) :
    tabGet (tabSet t i x) j = if i = j then some x else tabGet t j := by
  induction t with
  | nil => simp [tabSet, tabGet]
  | cons p t ih =>
    obtain ⟨k, v⟩ := p
    simp only [tabSet]
    by_cases hk : k = i
    · subst hk; by_cases hj : k = j <;> simp [tabGet, hj]
    · simp only [beq_iff_eq, hk, if_false]
      by_cases hl : i < k
      · simp only [hl, if_true, tabGet, beq_iff_eq]
      · simp only [hl, if_false, tabGet, beq_iff_eq, ih]
        by_cases hj : i = j
        · subst hj; simp [hk]
        · simp [hj]

@[simp] theorem tabGetD_tabSet {α : Type} (t : Tab α) (i j : Nat) (x d : α) :
    tabGetD (tabSet t i x) j d = if i = j then x else tabGetD t j d := by
  simp only [tabGetD, tabGet_tabSet]; split <;> rfl

theorem tabGet_tabMod {α : Type} (t : Tab α) (i j : Nat) (f : α → α) :
    tabGet (tabMod t i f) j = if i = j then (tabGet t j).map f else tabGet t j := by
  induction t with
  | nil => simp [tabMod, tabGet]
  | cons p t ih =>
    obtain ⟨k, v⟩ := p
    by_cases hk : k = i
    · subst hk; by_cases hj : k = j <;> simp [tabMod, tabGet, hj]
    · by_cases hkj : k = j
      · subst hkj; simp [tabMod, tabGet, hk, Ne.symm hk]
      · simp [tabMod, tabGet, hk, hkj, ih]

theorem listMod_eq_set {α : Type} (l : List α) (i : Nat) (f : α → α) (x : α) (h : l[i]? = some x) :
    listMod l i f = l.set i (f x) := by
  induction l generalizing i with
  | nil => simp at h
  | cons y t ih =>
    cases i with
    | zero => simp at h; simp [listMod, h]
    | succ i => simp at h; simp [listMod, ih i h]

@[simp] theorem length_listMod {α : Type} (l : List α) (i : Nat) (f : α → α) : (listMod l i f).length = l.length := by
  induction l generalizing i with
  | nil => rfl
  | cons y t ih => cases i <;> simp [listMod, ih]

@[simp] theorem length_mapIdx' {α β : Type} (f : Nat → α → β) (l : List α) (i : Nat) : (mapIdx f l i).length = l.length := by
  induction l generalizing i with
  | nil => rfl
  | cons y t ih => simp [mapIdx, ih]

@[simp] theorem getElem?_mapIdx' {α β : Type} (f : Nat → α → β) (l : List α) (i j : Nat) :
    (mapIdx f l i)[j]? = (l[j]?).map (f (i + j)) := by
  induction l generalizing i j with
  | nil => simp [mapIdx]
  | cons y t ih =>
    cases j with
    | zero => simp [mapIdx]
    | succ j => simp [mapIdx, ih, Nat.add_assoc, Nat.add_comm 1 j]

end Sys2Proof.Machine
end

