-- ==== Sys2Proof/Laws/Registers.lean ====
section
/-! SUPPORT. What a read of a register gives after a result is written: the results of Safety's words, each for the operation of the model
that writes it. -/

namespace Sys2Proof.Machine

open Sys2Proof.Safety

@[simp] theorem getV_setV (t : Thread) (i k : Nat) (x : Word) : (t.setV i x).getV k = if i = k then x else t.getV k := by
  simp [Thread.setV, Thread.getV]
@[simp] theorem getO_setV (t : Thread) (i k : Nat) (x : Word) : (t.setV i x).getO k = t.getO k := rfl
@[simp] theorem getV_setO (t : Thread) (i k : Nat) (x : Word) : (t.setO i x).getV k = t.getV k := rfl
@[simp] theorem getO_setO (t : Thread) (i k : Nat) (x : Word) : (t.setO i x).getO k = if i = k then x else t.getO k := by
  simp [Thread.setO, Thread.getO]
@[simp] theorem getV_push (t : Thread) (k : Nat) (x : Word) : (t.push x).getV k = t.getV k := rfl
@[simp] theorem getO_push (t : Thread) (k : Nat) (x : Word) : (t.push x).getO k = t.getO k := rfl
@[simp] theorem getB_setB (b : Band) (i k : Nat) (x : Word) : (b.setB i x).getB k = if i = k then x else b.getB k := by
  simp [Band.setB, Band.getB]

theorem getLsbD_setBit7 (m : BitVec 7) (i : BitVec 3) (x : Bool) (k : BitVec 3) (hi : i ≠ 7#3) (hk : k ≠ 7#3) :
    (setBit7 m i x).getLsbD k.toNat = if i = k then x else m.getLsbD k.toNat := by
  revert m i x k; decide

/-- put32 gives the 32-bit result. -/
theorem put32_result (t : Thread) (d : Opd) (x : Word) (to_ : PC) : Result32 d x 0 t ((t.put32 d x).advance to_) := by
  cases d <;> constructor <;> intros <;> simp [Thread.put32, Thread.advance, isV, isO, ResultRest, Thread.setV, Thread.setO, Thread.push,
    LQueue.push, Thread.getV, Thread.getO]
/-- put64 gives the 64-bit result. -/
theorem put64_result (t : Thread) (d : Opd) (x : W64) (to_ : PC) : Result64 d x 0 t ((t.put64 d x).advance to_) := by
  cases d <;> constructor <;> intros <;> simp [Thread.put64, Thread.advance, isV, isVHigh, ResultRest, Thread.setV,
    Thread.push, LQueue.push, Thread.getV, Thread.getO]
/-- put gives the result of either width. -/
theorem put_result (t : Thread) (wide : Bool) (d : Opd) (x : W64) (to_ : PC) : Result wide d x 0 t ((t.put wide d x).advance to_) := by
  cases wide
  · simpa [Result, Thread.put] using put32_result t d (x.extractLsb' 0 32) to_
  · simpa [Result, Thread.put] using put64_result t d x to_
/-- A result with flags. -/
theorem put_flags_result (t : Thread) (wide : Bool) (d : Opd) (x : W64) (f : Word) (to_ : PC) :
    Result wide d x f t (((t.setFlags f).put wide d x).advance to_) := by
  cases wide
  · cases d <;> constructor <;> intros <;> simp [Thread.put, Thread.put32, Thread.advance, isV, isO, ResultRest, Thread.setV, Thread.setO,
      Thread.push, LQueue.push, Thread.getV, Thread.getO, Thread.setFlags]
  · cases d <;> constructor <;> intros <;> simp [Thread.put, Thread.put64, Thread.advance, isV, isVHigh, ResultRest, Thread.setV,
      Thread.push, LQueue.push, Thread.getV, Thread.getO, Thread.setFlags]

end Sys2Proof.Machine
end

