-- ==== Sys2Proof/Laws/Splits.lean ====
section
/-! SUPPORT. What the forms of Operands.lean do (R58, R59, R106, R173): one lemma each, for a split that issues with its registers in the
allotment. -/

namespace Sys2Proof.Machine

open Sys2Proof.Safety

/-! ### Parts of the state after a change -/

theorem group?_modGroup (s : State) (gid k : Nat) (f : Group → Group) :
    (s.modGroup gid f).group? k = if gid = k then (s.group? k).map f else s.group? k := tabGet_tabMod ..

theorem band?_eq {s : State} {gid band : Nat} {g : Group} (hg : s.group? gid = some g) : s.band? gid band = g.bands[band]? := by
  simp [State.band?, hg]

/-- Replacing the issuing band changes only that band. -/
theorem onlyBand_modBand {s : State} {gid band : Nat} {g : Group} {b : Band} (hg : s.group? gid = some g)
    (hb : s.band? gid band = some b) (f : Band → Band) : OnlyBand s (s.modBand gid band f) gid band (f b) where
  rest := rfl
  others k hk := by simp [State.modBand, group?_modGroup, Ne.symm hk]
  group := by
    have hb' : g.bands[band]? = some b := by simpa [band?_eq hg] using hb
    simp [State.modBand, group?_modGroup, hg, Group.modBand, listMod_eq_set _ _ _ _ hb']
  views _ _ := rfl
  bytes _ := rfl

/-- Changing the lanes of a mask changes only those. -/
theorem lanes_onLanes (b : Band) (m : Word) (f : Nat → Thread → Thread) {rel : Nat → Thread → Thread → Prop}
    (h : ∀ i t, b.threads[i]? = some t → rel i t (f i t)) : Lanes b (b.onLanes m f) m rel where
  rest := rfl
  count := by simp [Band.onLanes]
  idle i hi := by
    simp only [Band.onLanes, getElem?_mapIdx', Nat.zero_add]
    cases b.threads[i]? <;> simp [hi]
  lanes i t t' hi ht ht' := by
    simp only [Band.onLanes, getElem?_mapIdx', Nat.zero_add, ht, Option.map_some, hi, if_true, Option.some.injEq] at ht'
    exact ht' ▸ h i t ht

/-! ### The forms -/

theorem withSplit_issuing {s : State} {c : Slot} {g : Group} {b : Band} (hs : Issuing s c g b) (f : Slot → Group → Band → State) :
    withSplit s f = .next (f c g b) := by
  simp [withSplit, hs.cur, hs.group, hs.band]

theorem withRegs_issuing {s : State} {c : Slot} {g : Group} {b : Band} {uses : List (Opd × Nat)} (hs : Issuing s c g b)
    (hu : InAllotment g b uses) (f : Slot → Group → Band → State) : withRegs s uses f = .next (f c g b) := by
  have : (uses.all fun u => fits (allotment g b) u.1 u.2) = true := by simpa [List.all_eq_true, InAllotment] using hu
  simp [withRegs, withSplit_issuing hs, this]

/-- A lane-guarded instruction on registers (R58, R59). -/
theorem laneOp_result {s : State} {c : Slot} {g : Group} {b : Band} {h : Hdr} {i : Instr} {uses : List (Opd × Nat)} {f : Env → Thread}
    {res : Env → Thread → Prop} (he : exec i s = laneOp s h uses f) (hs : Issuing s c g b) (hu : InAllotment g b uses)
    (hr : ∀ e : Env, res e ((f e).advance c.next)) : LaneResult s c g b h i res := by
  have hx := withRegs_issuing hs hu fun c g b =>
    s.modBand c.gid c.band fun _ =>
      b.onLanes c.active fun i t => (if laneGuard h t then f ⟨s, c, g, b, t, i⟩ else t).advance c.next
  refine ⟨_, _, he.trans hx, onlyBand_modBand hs.group hs.band _, ?_⟩
  · refine lanes_onLanes _ _ _ ?_
    intro l t _
    by_cases hl : laneGuard h t
    · simp only [hl, if_true]; exact ⟨hr _, rfl, rfl, rfl⟩
    · simp only [hl]; exact rfl

/-- A band-scalar instruction (R58, R132). -/
theorem bandOp_result {s : State} {c : Slot} {g : Group} {b : Band} {h : Hdr} {i : Instr} {uses : List (Opd × Nat)} {f : Env → Band}
    {res : Env → Band → Prop} (he : exec i s = bandOp s h uses f) (hs : Issuing s c g b) (hu : InAllotment g b uses)
    (hr : ∀ e : Env, e.b = b → res e (f e)) : BandResult s c g b h i res := by
  have hx := withRegs_issuing hs hu fun c g b =>
    s.modBand c.gid c.band fun _ =>
      (if bandGuard h b then f (bandEnv s c g b) else b).onLanes c.active fun _ t => t.advance c.next
  refine ⟨_, if bandGuard h b then f (bandEnv s c g b) else b, _, he.trans hx, onlyBand_modBand hs.group hs.band _, ?_, ?_⟩
  · by_cases hb : bandGuard h b
    · simp only [hb, if_true]; exact hr _ rfl
    · simp only [hb]; rfl
  · exact lanes_onLanes _ _ _ fun _ _ _ => rfl

/-- A lane exchange (R155). -/
theorem exchOp_result {s : State} {c : Slot} {g : Group} {b : Band} {h : Hdr} {i : Instr} {uses : List (Opd × Nat)}
    {f : List Env → Env → Thread} {res : Env → Thread → Prop} (he : exec i s = exchOp s h uses f) (hs : Issuing s c g b)
    (hu : InAllotment g b uses)
    (hr : ∀ e : Env, res e ((f ((lanesOf (guarded h c b)).filterMap fun i => (b.threads[i]?).map fun t => ⟨s, c, g, b, t, i⟩) e).advance c.next)) :
    LaneResult s c g b h i res := by
  have hx := withRegs_issuing hs hu fun c g b =>
    let es : List Env := (lanesOf (guarded h c b)).filterMap fun i => (b.threads[i]?).map fun t => ⟨s, c, g, b, t, i⟩
    s.modBand c.gid c.band fun _ =>
      b.onLanes c.active fun i t => (if laneGuard h t then f es ⟨s, c, g, b, t, i⟩ else t).advance c.next
  refine ⟨_, _, he.trans hx, onlyBand_modBand hs.group hs.band _, ?_⟩
  · refine lanes_onLanes _ _ _ ?_
    intro l t _
    by_cases hl : laneGuard h t
    · simp only [hl, if_true]; exact ⟨hr _, rfl, rfl, rfl⟩
    · simp only [hl]; exact rfl

/-- An instruction executed once for the split, with a true guard. -/
theorem splitOp_issuing {s : State} {c : Slot} {g : Group} {b : Band} {h : Hdr} {uses : List (Opd × Nat)} (hs : Issuing s c g b)
    (hu : InAllotment g b uses) (hb : bandGuard h b = true) (f : Env → State) : splitOp s h uses f = .next (f (bandEnv s c g b)) := by
  rw [splitOp, withRegs_issuing hs hu]; simp [hb]

/-- A collective that its whole live band issues, with a true guard (R173). -/
theorem collOp_whole {s : State} {c : Slot} {g : Group} {b : Band} {h : Hdr} {uses : List (Opd × Nat)} (hs : Issuing s c g b)
    (hu : InAllotment g b uses) (hw : Whole h c b) (f : Env → State) : collOp s h uses f = .next (f (bandEnv s c g b)) := by
  rw [collOp, withRegs_issuing hs hu]; simp [hw.all, hw.guard]

end Sys2Proof.Machine
end

