-- ==== Sys2Proof/Laws/Integers.lean ====
section
/-! SUPPORT. Integer arithmetic (R115, R122): narrowing an exact result, and the elements of a packed one. -/

namespace Sys2Proof.Machine

open Sys2Proof.Safety

theorem two_pow_cast (w : Nat) : ((2 ^ w : Nat) : Int) = (2 : Int) ^ w := by simp

theorem intNarrow_lt (signed sat : Bool) (w : Nat) (x : Int) : intNarrow signed sat w x < 2 ^ w := by
  have hp : (0 : Int) < 2 ^ w := Int.pow_pos (by decide)
  have h0 := Int.emod_nonneg (if sat then min (max x (if signed then -(2 ^ (w - 1) : Int) else 0))
    (if signed then 2 ^ (w - 1) - 1 else 2 ^ w - 1) else x) (by omega : (2 ^ w : Int) ≠ 0)
  have h1 := Int.emod_lt_of_pos (if sat then min (max x (if signed then -(2 ^ (w - 1) : Int) else 0))
    (if signed then 2 ^ (w - 1) - 1 else 2 ^ w - 1) else x) hp
  have := two_pow_cast w
  simp only [intNarrow]
  omega

/-- A number of w bits read by a type lies in the type's range, and is congruent to the number. -/
theorem readInt_range (signed : Bool) (w : Nat) (hw : 0 < w) (n : Nat) :
    (if signed then -(2 ^ (w - 1) : Int) else 0) ≤ readInt signed w n ∧
      readInt signed w n ≤ (if signed then 2 ^ (w - 1) - 1 else 2 ^ w - 1) ∧ (2 ^ w : Int) ∣ (n : Int) - readInt signed w n := by
  obtain ⟨k, rfl⟩ : ∃ k, w = k + 1 := ⟨w - 1, by omega⟩
  have hk := two_pow_cast k
  have hk1 := two_pow_cast (k + 1)
  have h2 : (2 : Int) ^ (k + 1) = 2 * 2 ^ k := by rw [Int.pow_succ]; omega
  have hlt := Nat.mod_lt n (Nat.two_pow_pos (k + 1))
  have hdvd : ((2 ^ (k + 1) : Nat) : Int) ∣ (n : Int) - ((n % 2 ^ (k + 1) : Nat) : Int) := by
    rw [Int.natCast_emod]; exact Int.dvd_self_sub_emod
  rw [hk1] at hdvd
  generalize hm : n % 2 ^ (k + 1) = m at *
  simp only [readInt, Nat.add_sub_cancel, hm]
  have h3 : 2 ^ (k + 1) = 2 * 2 ^ k := by rw [Nat.pow_succ]; omega
  cases signed
  · simp; exact ⟨by omega, hdvd⟩
  · by_cases h : 2 ^ k ≤ m
    · simp only [h, Bool.true_and, decide_true, if_true]
      refine ⟨by omega, by omega, ?_⟩
      have : (n : Int) - (m - 2 ^ (k + 1)) = (n - m) + 2 ^ (k + 1) := by omega
      rw [this]; exact Int.dvd_add hdvd (Int.dvd_refl _)
    · simp only [h, Bool.true_and, decide_false, if_true]
      refine ⟨?_, ?_, hdvd⟩ <;> simp <;> omega

theorem eq_of_congruent {M a b : Int} (h : M ∣ a - b) (h1 : a - b < M) (h2 : b - a < M) : a = b := by
  have : a - b = 0 := by
    apply Int.eq_zero_of_dvd_of_natAbs_lt_natAbs h; omega
  omega

/-- An exact result narrowed, and read again as its type reads it (R122). -/
theorem narrowed_intNarrow (signed sat : Bool) (w : Nat) (hw : 0 < w) (x : Int) :
    Narrowed signed sat w x (readInt signed w (intNarrow signed sat w x)) := by
  obtain ⟨hlo, hhi, hdvd⟩ := readInt_range signed w hw (intNarrow signed sat w x)
  have hp : (0 : Int) < 2 ^ w := Int.pow_pos (by decide)
  have h2 : (2 : Int) ^ w = 2 * 2 ^ (w - 1) := by
    obtain ⟨k, rfl⟩ : ∃ k, w = k + 1 := ⟨w - 1, by omega⟩
    simp [Int.pow_succ]; omega
  have hp1 : (0 : Int) < 2 ^ (w - 1) := Int.pow_pos (by decide)
  generalize hr : readInt signed w (intNarrow signed sat w x) = r at *
  generalize hy : (if sat then min (max x (if signed then -(2 ^ (w - 1) : Int) else 0)) (if signed then 2 ^ (w - 1) - 1 else 2 ^ w - 1) else x) = y
  have hn : (intNarrow signed sat w x : Int) = y % 2 ^ w := by
    have h0 := Int.emod_nonneg y (by omega : (2 ^ w : Int) ≠ 0)
    simp only [intNarrow, hy]; omega
  have hyr : (2 ^ w : Int) ∣ y - r := by
    have h1 : (2 ^ w : Int) ∣ y - y % 2 ^ w := Int.dvd_self_sub_emod
    rw [hn] at hdvd
    have := Int.dvd_add h1 hdvd
    have e : y - y % 2 ^ w + (y % 2 ^ w - r) = y - r := by omega
    rwa [e] at this
  have key : (if signed then -(2 ^ (w - 1) : Int) else 0) ≤ y → y ≤ (if signed then 2 ^ (w - 1) - 1 else 2 ^ w - 1) → r = y := by
    intro a1 a2
    refine (eq_of_congruent hyr ?_ ?_).symm <;> (cases signed <;> simp at * <;> omega)
  refine ⟨hlo, hhi, ?_, ?_, ?_, ?_⟩
  · intro a1 a2
    have : y = x := by rw [← hy]; split <;> omega
    exact this ▸ key (this ▸ a1) (this ▸ a2)
  · intro hs; subst hs; simp at hy; exact hy ▸ hyr
  · intro hs hx; subst hs
    have : y = if signed then -(2 ^ (w - 1) : Int) else 0 := by rw [← hy]; cases signed <;> simp at * <;> omega
    rw [key (by omega) (by rw [this]; cases signed <;> simp <;> omega), this]
  · intro hs hx; subst hs
    have : y = if signed then 2 ^ (w - 1) - 1 else 2 ^ w - 1 := by rw [← hy]; cases signed <;> simp at * <;> omega
    rw [key (by rw [this]; cases signed <;> simp <;> omega) (by omega), this]

theorem joinElems_lt (w : Nat) (f : Nat → Nat) (k : Nat) (h : ∀ i < k, f i < 2 ^ w) : joinElems w f k < 2 ^ (w * k) := by
  induction k with
  | zero => simp [joinElems]
  | succ k ih =>
    have h1 := ih fun i hi => h i (by omega)
    have h2 := h k (by omega)
    have : f k * 2 ^ (w * k) + 2 ^ (w * k) ≤ 2 ^ w * 2 ^ (w * k) := by
      rw [← Nat.succ_mul]; exact Nat.mul_le_mul_right _ h2
    rw [joinElems, Nat.mul_succ, Nat.pow_add, Nat.mul_comm (2 ^ (w * k))]
    omega

/-- The elements of a packed value are the values put together. -/
theorem elemOf_joinElems (w : Nat) (f : Nat → Nat) (k i : Nat) (h : ∀ i < k, f i < 2 ^ w) (hi : i < k) :
    elemOf w i (joinElems w f k) = f i := by
  induction k with
  | zero => omega
  | succ k ih =>
    have hp := Nat.two_pow_pos (w * k)
    by_cases hk : i = k
    · subst hk
      have h1 := joinElems_lt w f i fun j hj => h j (by omega)
      rw [elemOf, joinElems, Nat.add_mul_div_right _ _ hp, Nat.div_eq_of_lt h1, Nat.zero_add, Nat.mod_eq_of_lt (h i (by omega))]
    · have := ih (fun j hj => h j (by omega)) (by omega)
      rw [← this, elemOf, elemOf, joinElems]
      obtain ⟨m, rfl⟩ : ∃ m, k = i + 1 + m := ⟨k - i - 1, by omega⟩
      have e : f (i + 1 + m) * 2 ^ (w * (i + 1 + m)) = f (i + 1 + m) * 2 ^ (w * m) * 2 ^ w * 2 ^ (w * i) := by
        rw [Nat.mul_assoc, Nat.mul_assoc, ← Nat.pow_add, ← Nat.pow_add]; congr 2
        rw [Nat.mul_add, Nat.mul_add, Nat.mul_one]; omega
      rw [e, Nat.add_mul_div_right _ _ (Nat.two_pow_pos _), Nat.add_mul_mod_self_right]

/-- An operation on elements is the exact operation, narrowed, on each (R115, R122). -/
theorem elementwise_intEval (ty : Ty) (ht : IntType ty) (sat : Bool) (f : Int → Int → Int → Int) (a b c : Nat) :
    Elementwise ty sat f a b c (intEval ty sat f a b c) := by
  have hw : 0 < ty.bits := by simp [IntType] at ht; rcases ht with rfl | rfl | rfl | rfl | rfl | rfl | rfl | rfl | rfl | rfl <;> decide
  have hs : ty.bits * elemCount ty.bits = max 32 ty.bits ∧ max 32 ty.bits ≤ 64 := by
    simp [IntType] at ht; rcases ht with rfl | rfl | rfl | rfl | rfl | rfl | rfl | rfl | rfl | rfl <;> decide
  have hlt := joinElems_lt ty.bits (fun i => intNarrow (tySigned ty) sat ty.bits
    (f (readInt (tySigned ty) ty.bits (elemOf ty.bits i a)) (readInt (tySigned ty) ty.bits (elemOf ty.bits i b))
      (readInt (tySigned ty) ty.bits (elemOf ty.bits i c)))) (elemCount ty.bits) fun i _ => intNarrow_lt ..
  rw [hs.1] at hlt
  have hn : (intEval ty sat f a b c).toNat = joinElems ty.bits (fun i => intNarrow (tySigned ty) sat ty.bits
    (f (readInt (tySigned ty) ty.bits (elemOf ty.bits i a)) (readInt (tySigned ty) ty.bits (elemOf ty.bits i b))
      (readInt (tySigned ty) ty.bits (elemOf ty.bits i c)))) (elemCount ty.bits) := by
    simp only [intEval, BitVec.toNat_ofNat]
    exact Nat.mod_eq_of_lt (Nat.lt_of_lt_of_le hlt (Nat.pow_le_pow_right (by decide) hs.2))
  refine ⟨fun i hi => ?_, hn ▸ hlt⟩
  rw [hn, elemOf_joinElems _ _ _ _ (fun i _ => intNarrow_lt ..) hi]
  exact narrowed_intNarrow _ _ _ hw _

end Sys2Proof.Machine
end

