-- ==== Sys2Proof/Laws/State.lean ====
section
/-! SUPPORT. What each update of the state, of a group, of a band and of a thread leaves in each field, so that no proof unfolds one. -/

namespace Sys2Proof.Machine


/-! ### State.modGroup -/

@[simp] theorem State.modGroup_cur (s : State) (i : Nat) (f : Group → Group) : (s.modGroup i f).cur = s.cur := rfl
@[simp] theorem State.modGroup_issueQ (s : State) (i : Nat) (f : Group → Group) : (s.modGroup i f).issueQ = s.issueQ := rfl
@[simp] theorem State.modGroup_schedule (s : State) (i : Nat) (f : Group → Group) : (s.modGroup i f).schedule = s.schedule := rfl
@[simp] theorem State.modGroup_turn (s : State) (i : Nat) (f : Group → Group) : (s.modGroup i f).turn = s.turn := rfl
@[simp] theorem State.modGroup_cycle (s : State) (i : Nat) (f : Group → Group) : (s.modGroup i f).cycle = s.cycle := rfl
@[simp] theorem State.modGroup_cycleId (s : State) (i : Nat) (f : Group → Group) : (s.modGroup i f).cycleId = s.cycleId := rfl
@[simp] theorem State.modGroup_nextId (s : State) (i : Nat) (f : Group → Group) : (s.modGroup i f).nextId = s.nextId := rfl
@[simp] theorem State.modGroup_free (s : State) (i : Nat) (f : Group → Group) : (s.modGroup i f).free = s.free := rfl
@[simp] theorem State.modGroup_groups (s : State) (i : Nat) (f : Group → Group) : (s.modGroup i f).groups = tabMod s.groups i f := rfl
@[simp] theorem State.modGroup_launches (s : State) (i : Nat) (f : Group → Group) : (s.modGroup i f).launches = s.launches := rfl
@[simp] theorem State.modGroup_clusters (s : State) (i : Nat) (f : Group → Group) : (s.modGroup i f).clusters = s.clusters := rfl
@[simp] theorem State.modGroup_cores (s : State) (i : Nat) (f : Group → Group) : (s.modGroup i f).cores = s.cores := rfl
@[simp] theorem State.modGroup_parts (s : State) (i : Nat) (f : Group → Group) : (s.modGroup i f).parts = s.parts := rfl
@[simp] theorem State.modGroup_shadows (s : State) (i : Nat) (f : Group → Group) : (s.modGroup i f).shadows = s.shadows := rfl
@[simp] theorem State.modGroup_dies (s : State) (i : Nat) (f : Group → Group) : (s.modGroup i f).dies = s.dies := rfl
@[simp] theorem State.modGroup_ctxs (s : State) (i : Nat) (f : Group → Group) : (s.modGroup i f).ctxs = s.ctxs := rfl
@[simp] theorem State.modGroup_mem (s : State) (i : Nat) (f : Group → Group) : (s.modGroup i f).mem = s.mem := rfl
@[simp] theorem State.modGroup_writes (s : State) (i : Nat) (f : Group → Group) : (s.modGroup i f).writes = s.writes := rfl
@[simp] theorem State.modGroup_posted (s : State) (i : Nat) (f : Group → Group) : (s.modGroup i f).posted = s.posted := rfl
@[simp] theorem State.modGroup_loads (s : State) (i : Nat) (f : Group → Group) : (s.modGroup i f).loads = s.loads := rfl
@[simp] theorem State.modGroup_copies (s : State) (i : Nat) (f : Group → Group) : (s.modGroup i f).copies = s.copies := rfl
@[simp] theorem State.modGroup_arrivals (s : State) (i : Nat) (f : Group → Group) : (s.modGroup i f).arrivals = s.arrivals := rfl
@[simp] theorem State.modGroup_claims (s : State) (i : Nat) (f : Group → Group) : (s.modGroup i f).claims = s.claims := rfl
@[simp] theorem State.modGroup_grants (s : State) (i : Nat) (f : Group → Group) : (s.modGroup i f).grants = s.grants := rfl
@[simp] theorem State.modGroup_absent (s : State) (i : Nat) (f : Group → Group) : (s.modGroup i f).absent = s.absent := rfl
@[simp] theorem State.modGroup_homes (s : State) (i : Nat) (f : Group → Group) : (s.modGroup i f).homes = s.homes := rfl
@[simp] theorem State.modGroup_eccBad (s : State) (i : Nat) (f : Group → Group) : (s.modGroup i f).eccBad = s.eccBad := rfl
@[simp] theorem State.modGroup_ports (s : State) (i : Nat) (f : Group → Group) : (s.modGroup i f).ports = s.ports := rfl
@[simp] theorem State.modGroup_resps (s : State) (i : Nat) (f : Group → Group) : (s.modGroup i f).resps = s.resps := rfl
@[simp] theorem State.modGroup_svcData (s : State) (i : Nat) (f : Group → Group) : (s.modGroup i f).svcData = s.svcData := rfl
@[simp] theorem State.modGroup_unheld (s : State) (i : Nat) (f : Group → Group) : (s.modGroup i f).unheld = s.unheld := rfl
@[simp] theorem State.modGroup_creates (s : State) (i : Nat) (f : Group → Group) : (s.modGroup i f).creates = s.creates := rfl
@[simp] theorem State.modGroup_peerAns (s : State) (i : Nat) (f : Group → Group) : (s.modGroup i f).peerAns = s.peerAns := rfl
@[simp] theorem State.modGroup_leaseHolder (s : State) (i : Nat) (f : Group → Group) : (s.modGroup i f).leaseHolder = s.leaseHolder := rfl
@[simp] theorem State.modGroup_leaseCounter (s : State) (i : Nat) (f : Group → Group) : (s.modGroup i f).leaseCounter = s.leaseCounter := rfl
@[simp] theorem State.modGroup_mode (s : State) (i : Nat) (f : Group → Group) : (s.modGroup i f).mode = s.mode := rfl
@[simp] theorem State.modGroup_ensign (s : State) (i : Nat) (f : Group → Group) : (s.modGroup i f).ensign = s.ensign := rfl
@[simp] theorem State.modGroup_level (s : State) (i : Nat) (f : Group → Group) : (s.modGroup i f).level = s.level := rfl
@[simp] theorem State.modGroup_conf (s : State) (i : Nat) (f : Group → Group) : (s.modGroup i f).conf = s.conf := rfl
@[simp] theorem State.modGroup_scrubOwed (s : State) (i : Nat) (f : Group → Group) : (s.modGroup i f).scrubOwed = s.scrubOwed := rfl
@[simp] theorem State.modGroup_scrubbing (s : State) (i : Nat) (f : Group → Group) : (s.modGroup i f).scrubbing = s.scrubbing := rfl
@[simp] theorem State.modGroup_entropyFails (s : State) (i : Nat) (f : Group → Group) : (s.modGroup i f).entropyFails = s.entropyFails := rfl
@[simp] theorem State.modGroup_meas (s : State) (i : Nat) (f : Group → Group) : (s.modGroup i f).meas = s.meas := rfl
@[simp] theorem State.modGroup_measDone (s : State) (i : Nat) (f : Group → Group) : (s.modGroup i f).measDone = s.measDone := rfl
@[simp] theorem State.modGroup_keys (s : State) (i : Nat) (f : Group → Group) : (s.modGroup i f).keys = s.keys := rfl
@[simp] theorem State.modGroup_powerCap (s : State) (i : Nat) (f : Group → Group) : (s.modGroup i f).powerCap = s.powerCap := rfl
@[simp] theorem State.modGroup_clockSteps (s : State) (i : Nat) (f : Group → Group) : (s.modGroup i f).clockSteps = s.clockSteps := rfl
@[simp] theorem State.modGroup_lms (s : State) (i : Nat) (f : Group → Group) : (s.modGroup i f).lms = s.lms := rfl
@[simp] theorem State.modGroup_fabricUp (s : State) (i : Nat) (f : Group → Group) : (s.modGroup i f).fabricUp = s.fabricUp := rfl
@[simp] theorem State.modGroup_device (s : State) (i : Nat) (f : Group → Group) : (s.modGroup i f).device = s.device := rfl
@[simp] theorem State.modGroup_late (s : State) (i : Nat) (f : Group → Group) : (s.modGroup i f).late = s.late := rfl
@[simp] theorem State.modGroup_attested (s : State) (i : Nat) (f : Group → Group) : (s.modGroup i f).attested = s.attested := rfl
@[simp] theorem State.modGroup_retired (s : State) (i : Nat) (f : Group → Group) : (s.modGroup i f).retired = s.retired := rfl
@[simp] theorem State.modGroup_versions (s : State) (i : Nat) (f : Group → Group) : (s.modGroup i f).versions = s.versions := rfl
@[simp] theorem State.modGroup_shut (s : State) (i : Nat) (f : Group → Group) : (s.modGroup i f).shut = s.shut := rfl

/-! ### State.modBand -/

@[simp] theorem State.modBand_cur (s : State) (i j : Nat) (f : Band → Band) : (s.modBand i j f).cur = s.cur := rfl
@[simp] theorem State.modBand_issueQ (s : State) (i j : Nat) (f : Band → Band) : (s.modBand i j f).issueQ = s.issueQ := rfl
@[simp] theorem State.modBand_schedule (s : State) (i j : Nat) (f : Band → Band) : (s.modBand i j f).schedule = s.schedule := rfl
@[simp] theorem State.modBand_turn (s : State) (i j : Nat) (f : Band → Band) : (s.modBand i j f).turn = s.turn := rfl
@[simp] theorem State.modBand_cycle (s : State) (i j : Nat) (f : Band → Band) : (s.modBand i j f).cycle = s.cycle := rfl
@[simp] theorem State.modBand_cycleId (s : State) (i j : Nat) (f : Band → Band) : (s.modBand i j f).cycleId = s.cycleId := rfl
@[simp] theorem State.modBand_nextId (s : State) (i j : Nat) (f : Band → Band) : (s.modBand i j f).nextId = s.nextId := rfl
@[simp] theorem State.modBand_free (s : State) (i j : Nat) (f : Band → Band) : (s.modBand i j f).free = s.free := rfl
@[simp] theorem State.modBand_groups (s : State) (i j : Nat) (f : Band → Band) : (s.modBand i j f).groups = tabMod s.groups i fun g => g.modBand j f := rfl
@[simp] theorem State.modBand_launches (s : State) (i j : Nat) (f : Band → Band) : (s.modBand i j f).launches = s.launches := rfl
@[simp] theorem State.modBand_clusters (s : State) (i j : Nat) (f : Band → Band) : (s.modBand i j f).clusters = s.clusters := rfl
@[simp] theorem State.modBand_cores (s : State) (i j : Nat) (f : Band → Band) : (s.modBand i j f).cores = s.cores := rfl
@[simp] theorem State.modBand_parts (s : State) (i j : Nat) (f : Band → Band) : (s.modBand i j f).parts = s.parts := rfl
@[simp] theorem State.modBand_shadows (s : State) (i j : Nat) (f : Band → Band) : (s.modBand i j f).shadows = s.shadows := rfl
@[simp] theorem State.modBand_dies (s : State) (i j : Nat) (f : Band → Band) : (s.modBand i j f).dies = s.dies := rfl
@[simp] theorem State.modBand_ctxs (s : State) (i j : Nat) (f : Band → Band) : (s.modBand i j f).ctxs = s.ctxs := rfl
@[simp] theorem State.modBand_mem (s : State) (i j : Nat) (f : Band → Band) : (s.modBand i j f).mem = s.mem := rfl
@[simp] theorem State.modBand_writes (s : State) (i j : Nat) (f : Band → Band) : (s.modBand i j f).writes = s.writes := rfl
@[simp] theorem State.modBand_posted (s : State) (i j : Nat) (f : Band → Band) : (s.modBand i j f).posted = s.posted := rfl
@[simp] theorem State.modBand_loads (s : State) (i j : Nat) (f : Band → Band) : (s.modBand i j f).loads = s.loads := rfl
@[simp] theorem State.modBand_copies (s : State) (i j : Nat) (f : Band → Band) : (s.modBand i j f).copies = s.copies := rfl
@[simp] theorem State.modBand_arrivals (s : State) (i j : Nat) (f : Band → Band) : (s.modBand i j f).arrivals = s.arrivals := rfl
@[simp] theorem State.modBand_claims (s : State) (i j : Nat) (f : Band → Band) : (s.modBand i j f).claims = s.claims := rfl
@[simp] theorem State.modBand_grants (s : State) (i j : Nat) (f : Band → Band) : (s.modBand i j f).grants = s.grants := rfl
@[simp] theorem State.modBand_absent (s : State) (i j : Nat) (f : Band → Band) : (s.modBand i j f).absent = s.absent := rfl
@[simp] theorem State.modBand_homes (s : State) (i j : Nat) (f : Band → Band) : (s.modBand i j f).homes = s.homes := rfl
@[simp] theorem State.modBand_eccBad (s : State) (i j : Nat) (f : Band → Band) : (s.modBand i j f).eccBad = s.eccBad := rfl
@[simp] theorem State.modBand_ports (s : State) (i j : Nat) (f : Band → Band) : (s.modBand i j f).ports = s.ports := rfl
@[simp] theorem State.modBand_resps (s : State) (i j : Nat) (f : Band → Band) : (s.modBand i j f).resps = s.resps := rfl
@[simp] theorem State.modBand_svcData (s : State) (i j : Nat) (f : Band → Band) : (s.modBand i j f).svcData = s.svcData := rfl
@[simp] theorem State.modBand_unheld (s : State) (i j : Nat) (f : Band → Band) : (s.modBand i j f).unheld = s.unheld := rfl
@[simp] theorem State.modBand_creates (s : State) (i j : Nat) (f : Band → Band) : (s.modBand i j f).creates = s.creates := rfl
@[simp] theorem State.modBand_peerAns (s : State) (i j : Nat) (f : Band → Band) : (s.modBand i j f).peerAns = s.peerAns := rfl
@[simp] theorem State.modBand_leaseHolder (s : State) (i j : Nat) (f : Band → Band) : (s.modBand i j f).leaseHolder = s.leaseHolder := rfl
@[simp] theorem State.modBand_leaseCounter (s : State) (i j : Nat) (f : Band → Band) : (s.modBand i j f).leaseCounter = s.leaseCounter := rfl
@[simp] theorem State.modBand_mode (s : State) (i j : Nat) (f : Band → Band) : (s.modBand i j f).mode = s.mode := rfl
@[simp] theorem State.modBand_ensign (s : State) (i j : Nat) (f : Band → Band) : (s.modBand i j f).ensign = s.ensign := rfl
@[simp] theorem State.modBand_level (s : State) (i j : Nat) (f : Band → Band) : (s.modBand i j f).level = s.level := rfl
@[simp] theorem State.modBand_conf (s : State) (i j : Nat) (f : Band → Band) : (s.modBand i j f).conf = s.conf := rfl
@[simp] theorem State.modBand_scrubOwed (s : State) (i j : Nat) (f : Band → Band) : (s.modBand i j f).scrubOwed = s.scrubOwed := rfl
@[simp] theorem State.modBand_scrubbing (s : State) (i j : Nat) (f : Band → Band) : (s.modBand i j f).scrubbing = s.scrubbing := rfl
@[simp] theorem State.modBand_entropyFails (s : State) (i j : Nat) (f : Band → Band) : (s.modBand i j f).entropyFails = s.entropyFails := rfl
@[simp] theorem State.modBand_meas (s : State) (i j : Nat) (f : Band → Band) : (s.modBand i j f).meas = s.meas := rfl
@[simp] theorem State.modBand_measDone (s : State) (i j : Nat) (f : Band → Band) : (s.modBand i j f).measDone = s.measDone := rfl
@[simp] theorem State.modBand_keys (s : State) (i j : Nat) (f : Band → Band) : (s.modBand i j f).keys = s.keys := rfl
@[simp] theorem State.modBand_powerCap (s : State) (i j : Nat) (f : Band → Band) : (s.modBand i j f).powerCap = s.powerCap := rfl
@[simp] theorem State.modBand_clockSteps (s : State) (i j : Nat) (f : Band → Band) : (s.modBand i j f).clockSteps = s.clockSteps := rfl
@[simp] theorem State.modBand_lms (s : State) (i j : Nat) (f : Band → Band) : (s.modBand i j f).lms = s.lms := rfl
@[simp] theorem State.modBand_fabricUp (s : State) (i j : Nat) (f : Band → Band) : (s.modBand i j f).fabricUp = s.fabricUp := rfl
@[simp] theorem State.modBand_device (s : State) (i j : Nat) (f : Band → Band) : (s.modBand i j f).device = s.device := rfl
@[simp] theorem State.modBand_late (s : State) (i j : Nat) (f : Band → Band) : (s.modBand i j f).late = s.late := rfl
@[simp] theorem State.modBand_attested (s : State) (i j : Nat) (f : Band → Band) : (s.modBand i j f).attested = s.attested := rfl
@[simp] theorem State.modBand_retired (s : State) (i j : Nat) (f : Band → Band) : (s.modBand i j f).retired = s.retired := rfl
@[simp] theorem State.modBand_versions (s : State) (i j : Nat) (f : Band → Band) : (s.modBand i j f).versions = s.versions := rfl
@[simp] theorem State.modBand_shut (s : State) (i j : Nat) (f : Band → Band) : (s.modBand i j f).shut = s.shut := rfl

/-! ### State.modThread -/

@[simp] theorem State.modThread_cur (s : State) (i j l : Nat) (f : Thread → Thread) : (s.modThread i j l f).cur = s.cur := rfl
@[simp] theorem State.modThread_issueQ (s : State) (i j l : Nat) (f : Thread → Thread) : (s.modThread i j l f).issueQ = s.issueQ := rfl
@[simp] theorem State.modThread_schedule (s : State) (i j l : Nat) (f : Thread → Thread) : (s.modThread i j l f).schedule = s.schedule := rfl
@[simp] theorem State.modThread_turn (s : State) (i j l : Nat) (f : Thread → Thread) : (s.modThread i j l f).turn = s.turn := rfl
@[simp] theorem State.modThread_cycle (s : State) (i j l : Nat) (f : Thread → Thread) : (s.modThread i j l f).cycle = s.cycle := rfl
@[simp] theorem State.modThread_cycleId (s : State) (i j l : Nat) (f : Thread → Thread) : (s.modThread i j l f).cycleId = s.cycleId := rfl
@[simp] theorem State.modThread_nextId (s : State) (i j l : Nat) (f : Thread → Thread) : (s.modThread i j l f).nextId = s.nextId := rfl
@[simp] theorem State.modThread_free (s : State) (i j l : Nat) (f : Thread → Thread) : (s.modThread i j l f).free = s.free := rfl
@[simp] theorem State.modThread_groups (s : State) (i j l : Nat) (f : Thread → Thread) : (s.modThread i j l f).groups = tabMod s.groups i fun g => g.modBand j fun b => b.modThread l f := rfl
@[simp] theorem State.modThread_launches (s : State) (i j l : Nat) (f : Thread → Thread) : (s.modThread i j l f).launches = s.launches := rfl
@[simp] theorem State.modThread_clusters (s : State) (i j l : Nat) (f : Thread → Thread) : (s.modThread i j l f).clusters = s.clusters := rfl
@[simp] theorem State.modThread_cores (s : State) (i j l : Nat) (f : Thread → Thread) : (s.modThread i j l f).cores = s.cores := rfl
@[simp] theorem State.modThread_parts (s : State) (i j l : Nat) (f : Thread → Thread) : (s.modThread i j l f).parts = s.parts := rfl
@[simp] theorem State.modThread_shadows (s : State) (i j l : Nat) (f : Thread → Thread) : (s.modThread i j l f).shadows = s.shadows := rfl
@[simp] theorem State.modThread_dies (s : State) (i j l : Nat) (f : Thread → Thread) : (s.modThread i j l f).dies = s.dies := rfl
@[simp] theorem State.modThread_ctxs (s : State) (i j l : Nat) (f : Thread → Thread) : (s.modThread i j l f).ctxs = s.ctxs := rfl
@[simp] theorem State.modThread_mem (s : State) (i j l : Nat) (f : Thread → Thread) : (s.modThread i j l f).mem = s.mem := rfl
@[simp] theorem State.modThread_writes (s : State) (i j l : Nat) (f : Thread → Thread) : (s.modThread i j l f).writes = s.writes := rfl
@[simp] theorem State.modThread_posted (s : State) (i j l : Nat) (f : Thread → Thread) : (s.modThread i j l f).posted = s.posted := rfl
@[simp] theorem State.modThread_loads (s : State) (i j l : Nat) (f : Thread → Thread) : (s.modThread i j l f).loads = s.loads := rfl
@[simp] theorem State.modThread_copies (s : State) (i j l : Nat) (f : Thread → Thread) : (s.modThread i j l f).copies = s.copies := rfl
@[simp] theorem State.modThread_arrivals (s : State) (i j l : Nat) (f : Thread → Thread) : (s.modThread i j l f).arrivals = s.arrivals := rfl
@[simp] theorem State.modThread_claims (s : State) (i j l : Nat) (f : Thread → Thread) : (s.modThread i j l f).claims = s.claims := rfl
@[simp] theorem State.modThread_grants (s : State) (i j l : Nat) (f : Thread → Thread) : (s.modThread i j l f).grants = s.grants := rfl
@[simp] theorem State.modThread_absent (s : State) (i j l : Nat) (f : Thread → Thread) : (s.modThread i j l f).absent = s.absent := rfl
@[simp] theorem State.modThread_homes (s : State) (i j l : Nat) (f : Thread → Thread) : (s.modThread i j l f).homes = s.homes := rfl
@[simp] theorem State.modThread_eccBad (s : State) (i j l : Nat) (f : Thread → Thread) : (s.modThread i j l f).eccBad = s.eccBad := rfl
@[simp] theorem State.modThread_ports (s : State) (i j l : Nat) (f : Thread → Thread) : (s.modThread i j l f).ports = s.ports := rfl
@[simp] theorem State.modThread_resps (s : State) (i j l : Nat) (f : Thread → Thread) : (s.modThread i j l f).resps = s.resps := rfl
@[simp] theorem State.modThread_svcData (s : State) (i j l : Nat) (f : Thread → Thread) : (s.modThread i j l f).svcData = s.svcData := rfl
@[simp] theorem State.modThread_unheld (s : State) (i j l : Nat) (f : Thread → Thread) : (s.modThread i j l f).unheld = s.unheld := rfl
@[simp] theorem State.modThread_creates (s : State) (i j l : Nat) (f : Thread → Thread) : (s.modThread i j l f).creates = s.creates := rfl
@[simp] theorem State.modThread_peerAns (s : State) (i j l : Nat) (f : Thread → Thread) : (s.modThread i j l f).peerAns = s.peerAns := rfl
@[simp] theorem State.modThread_leaseHolder (s : State) (i j l : Nat) (f : Thread → Thread) : (s.modThread i j l f).leaseHolder = s.leaseHolder := rfl
@[simp] theorem State.modThread_leaseCounter (s : State) (i j l : Nat) (f : Thread → Thread) : (s.modThread i j l f).leaseCounter = s.leaseCounter := rfl
@[simp] theorem State.modThread_mode (s : State) (i j l : Nat) (f : Thread → Thread) : (s.modThread i j l f).mode = s.mode := rfl
@[simp] theorem State.modThread_ensign (s : State) (i j l : Nat) (f : Thread → Thread) : (s.modThread i j l f).ensign = s.ensign := rfl
@[simp] theorem State.modThread_level (s : State) (i j l : Nat) (f : Thread → Thread) : (s.modThread i j l f).level = s.level := rfl
@[simp] theorem State.modThread_conf (s : State) (i j l : Nat) (f : Thread → Thread) : (s.modThread i j l f).conf = s.conf := rfl
@[simp] theorem State.modThread_scrubOwed (s : State) (i j l : Nat) (f : Thread → Thread) : (s.modThread i j l f).scrubOwed = s.scrubOwed := rfl
@[simp] theorem State.modThread_scrubbing (s : State) (i j l : Nat) (f : Thread → Thread) : (s.modThread i j l f).scrubbing = s.scrubbing := rfl
@[simp] theorem State.modThread_entropyFails (s : State) (i j l : Nat) (f : Thread → Thread) : (s.modThread i j l f).entropyFails = s.entropyFails := rfl
@[simp] theorem State.modThread_meas (s : State) (i j l : Nat) (f : Thread → Thread) : (s.modThread i j l f).meas = s.meas := rfl
@[simp] theorem State.modThread_measDone (s : State) (i j l : Nat) (f : Thread → Thread) : (s.modThread i j l f).measDone = s.measDone := rfl
@[simp] theorem State.modThread_keys (s : State) (i j l : Nat) (f : Thread → Thread) : (s.modThread i j l f).keys = s.keys := rfl
@[simp] theorem State.modThread_powerCap (s : State) (i j l : Nat) (f : Thread → Thread) : (s.modThread i j l f).powerCap = s.powerCap := rfl
@[simp] theorem State.modThread_clockSteps (s : State) (i j l : Nat) (f : Thread → Thread) : (s.modThread i j l f).clockSteps = s.clockSteps := rfl
@[simp] theorem State.modThread_lms (s : State) (i j l : Nat) (f : Thread → Thread) : (s.modThread i j l f).lms = s.lms := rfl
@[simp] theorem State.modThread_fabricUp (s : State) (i j l : Nat) (f : Thread → Thread) : (s.modThread i j l f).fabricUp = s.fabricUp := rfl
@[simp] theorem State.modThread_device (s : State) (i j l : Nat) (f : Thread → Thread) : (s.modThread i j l f).device = s.device := rfl
@[simp] theorem State.modThread_late (s : State) (i j l : Nat) (f : Thread → Thread) : (s.modThread i j l f).late = s.late := rfl
@[simp] theorem State.modThread_attested (s : State) (i j l : Nat) (f : Thread → Thread) : (s.modThread i j l f).attested = s.attested := rfl
@[simp] theorem State.modThread_retired (s : State) (i j l : Nat) (f : Thread → Thread) : (s.modThread i j l f).retired = s.retired := rfl
@[simp] theorem State.modThread_versions (s : State) (i j l : Nat) (f : Thread → Thread) : (s.modThread i j l f).versions = s.versions := rfl
@[simp] theorem State.modThread_shut (s : State) (i j l : Nat) (f : Thread → Thread) : (s.modThread i j l f).shut = s.shut := rfl

/-! ### State.modCore -/

@[simp] theorem State.modCore_cur (s : State) (i : Nat) (f : Core → Core) : (s.modCore i f).cur = s.cur := rfl
@[simp] theorem State.modCore_issueQ (s : State) (i : Nat) (f : Core → Core) : (s.modCore i f).issueQ = s.issueQ := rfl
@[simp] theorem State.modCore_schedule (s : State) (i : Nat) (f : Core → Core) : (s.modCore i f).schedule = s.schedule := rfl
@[simp] theorem State.modCore_turn (s : State) (i : Nat) (f : Core → Core) : (s.modCore i f).turn = s.turn := rfl
@[simp] theorem State.modCore_cycle (s : State) (i : Nat) (f : Core → Core) : (s.modCore i f).cycle = s.cycle := rfl
@[simp] theorem State.modCore_cycleId (s : State) (i : Nat) (f : Core → Core) : (s.modCore i f).cycleId = s.cycleId := rfl
@[simp] theorem State.modCore_nextId (s : State) (i : Nat) (f : Core → Core) : (s.modCore i f).nextId = s.nextId := rfl
@[simp] theorem State.modCore_free (s : State) (i : Nat) (f : Core → Core) : (s.modCore i f).free = s.free := rfl
@[simp] theorem State.modCore_groups (s : State) (i : Nat) (f : Core → Core) : (s.modCore i f).groups = s.groups := rfl
@[simp] theorem State.modCore_launches (s : State) (i : Nat) (f : Core → Core) : (s.modCore i f).launches = s.launches := rfl
@[simp] theorem State.modCore_clusters (s : State) (i : Nat) (f : Core → Core) : (s.modCore i f).clusters = s.clusters := rfl
@[simp] theorem State.modCore_cores (s : State) (i : Nat) (f : Core → Core) : (s.modCore i f).cores = tabSet s.cores i (f (s.core i)) := rfl
@[simp] theorem State.modCore_parts (s : State) (i : Nat) (f : Core → Core) : (s.modCore i f).parts = s.parts := rfl
@[simp] theorem State.modCore_shadows (s : State) (i : Nat) (f : Core → Core) : (s.modCore i f).shadows = s.shadows := rfl
@[simp] theorem State.modCore_dies (s : State) (i : Nat) (f : Core → Core) : (s.modCore i f).dies = s.dies := rfl
@[simp] theorem State.modCore_ctxs (s : State) (i : Nat) (f : Core → Core) : (s.modCore i f).ctxs = s.ctxs := rfl
@[simp] theorem State.modCore_mem (s : State) (i : Nat) (f : Core → Core) : (s.modCore i f).mem = s.mem := rfl
@[simp] theorem State.modCore_writes (s : State) (i : Nat) (f : Core → Core) : (s.modCore i f).writes = s.writes := rfl
@[simp] theorem State.modCore_posted (s : State) (i : Nat) (f : Core → Core) : (s.modCore i f).posted = s.posted := rfl
@[simp] theorem State.modCore_loads (s : State) (i : Nat) (f : Core → Core) : (s.modCore i f).loads = s.loads := rfl
@[simp] theorem State.modCore_copies (s : State) (i : Nat) (f : Core → Core) : (s.modCore i f).copies = s.copies := rfl
@[simp] theorem State.modCore_arrivals (s : State) (i : Nat) (f : Core → Core) : (s.modCore i f).arrivals = s.arrivals := rfl
@[simp] theorem State.modCore_claims (s : State) (i : Nat) (f : Core → Core) : (s.modCore i f).claims = s.claims := rfl
@[simp] theorem State.modCore_grants (s : State) (i : Nat) (f : Core → Core) : (s.modCore i f).grants = s.grants := rfl
@[simp] theorem State.modCore_absent (s : State) (i : Nat) (f : Core → Core) : (s.modCore i f).absent = s.absent := rfl
@[simp] theorem State.modCore_homes (s : State) (i : Nat) (f : Core → Core) : (s.modCore i f).homes = s.homes := rfl
@[simp] theorem State.modCore_eccBad (s : State) (i : Nat) (f : Core → Core) : (s.modCore i f).eccBad = s.eccBad := rfl
@[simp] theorem State.modCore_ports (s : State) (i : Nat) (f : Core → Core) : (s.modCore i f).ports = s.ports := rfl
@[simp] theorem State.modCore_resps (s : State) (i : Nat) (f : Core → Core) : (s.modCore i f).resps = s.resps := rfl
@[simp] theorem State.modCore_svcData (s : State) (i : Nat) (f : Core → Core) : (s.modCore i f).svcData = s.svcData := rfl
@[simp] theorem State.modCore_unheld (s : State) (i : Nat) (f : Core → Core) : (s.modCore i f).unheld = s.unheld := rfl
@[simp] theorem State.modCore_creates (s : State) (i : Nat) (f : Core → Core) : (s.modCore i f).creates = s.creates := rfl
@[simp] theorem State.modCore_peerAns (s : State) (i : Nat) (f : Core → Core) : (s.modCore i f).peerAns = s.peerAns := rfl
@[simp] theorem State.modCore_leaseHolder (s : State) (i : Nat) (f : Core → Core) : (s.modCore i f).leaseHolder = s.leaseHolder := rfl
@[simp] theorem State.modCore_leaseCounter (s : State) (i : Nat) (f : Core → Core) : (s.modCore i f).leaseCounter = s.leaseCounter := rfl
@[simp] theorem State.modCore_mode (s : State) (i : Nat) (f : Core → Core) : (s.modCore i f).mode = s.mode := rfl
@[simp] theorem State.modCore_ensign (s : State) (i : Nat) (f : Core → Core) : (s.modCore i f).ensign = s.ensign := rfl
@[simp] theorem State.modCore_level (s : State) (i : Nat) (f : Core → Core) : (s.modCore i f).level = s.level := rfl
@[simp] theorem State.modCore_conf (s : State) (i : Nat) (f : Core → Core) : (s.modCore i f).conf = s.conf := rfl
@[simp] theorem State.modCore_scrubOwed (s : State) (i : Nat) (f : Core → Core) : (s.modCore i f).scrubOwed = s.scrubOwed := rfl
@[simp] theorem State.modCore_scrubbing (s : State) (i : Nat) (f : Core → Core) : (s.modCore i f).scrubbing = s.scrubbing := rfl
@[simp] theorem State.modCore_entropyFails (s : State) (i : Nat) (f : Core → Core) : (s.modCore i f).entropyFails = s.entropyFails := rfl
@[simp] theorem State.modCore_meas (s : State) (i : Nat) (f : Core → Core) : (s.modCore i f).meas = s.meas := rfl
@[simp] theorem State.modCore_measDone (s : State) (i : Nat) (f : Core → Core) : (s.modCore i f).measDone = s.measDone := rfl
@[simp] theorem State.modCore_keys (s : State) (i : Nat) (f : Core → Core) : (s.modCore i f).keys = s.keys := rfl
@[simp] theorem State.modCore_powerCap (s : State) (i : Nat) (f : Core → Core) : (s.modCore i f).powerCap = s.powerCap := rfl
@[simp] theorem State.modCore_clockSteps (s : State) (i : Nat) (f : Core → Core) : (s.modCore i f).clockSteps = s.clockSteps := rfl
@[simp] theorem State.modCore_lms (s : State) (i : Nat) (f : Core → Core) : (s.modCore i f).lms = s.lms := rfl
@[simp] theorem State.modCore_fabricUp (s : State) (i : Nat) (f : Core → Core) : (s.modCore i f).fabricUp = s.fabricUp := rfl
@[simp] theorem State.modCore_device (s : State) (i : Nat) (f : Core → Core) : (s.modCore i f).device = s.device := rfl
@[simp] theorem State.modCore_late (s : State) (i : Nat) (f : Core → Core) : (s.modCore i f).late = s.late := rfl
@[simp] theorem State.modCore_attested (s : State) (i : Nat) (f : Core → Core) : (s.modCore i f).attested = s.attested := rfl
@[simp] theorem State.modCore_retired (s : State) (i : Nat) (f : Core → Core) : (s.modCore i f).retired = s.retired := rfl
@[simp] theorem State.modCore_versions (s : State) (i : Nat) (f : Core → Core) : (s.modCore i f).versions = s.versions := rfl
@[simp] theorem State.modCore_shut (s : State) (i : Nat) (f : Core → Core) : (s.modCore i f).shut = s.shut := rfl

/-! ### State.modPart -/

@[simp] theorem State.modPart_cur (s : State) (i : Nat) (f : Partition → Partition) : (s.modPart i f).cur = s.cur := rfl
@[simp] theorem State.modPart_issueQ (s : State) (i : Nat) (f : Partition → Partition) : (s.modPart i f).issueQ = s.issueQ := rfl
@[simp] theorem State.modPart_schedule (s : State) (i : Nat) (f : Partition → Partition) : (s.modPart i f).schedule = s.schedule := rfl
@[simp] theorem State.modPart_turn (s : State) (i : Nat) (f : Partition → Partition) : (s.modPart i f).turn = s.turn := rfl
@[simp] theorem State.modPart_cycle (s : State) (i : Nat) (f : Partition → Partition) : (s.modPart i f).cycle = s.cycle := rfl
@[simp] theorem State.modPart_cycleId (s : State) (i : Nat) (f : Partition → Partition) : (s.modPart i f).cycleId = s.cycleId := rfl
@[simp] theorem State.modPart_nextId (s : State) (i : Nat) (f : Partition → Partition) : (s.modPart i f).nextId = s.nextId := rfl
@[simp] theorem State.modPart_free (s : State) (i : Nat) (f : Partition → Partition) : (s.modPart i f).free = s.free := rfl
@[simp] theorem State.modPart_groups (s : State) (i : Nat) (f : Partition → Partition) : (s.modPart i f).groups = s.groups := rfl
@[simp] theorem State.modPart_launches (s : State) (i : Nat) (f : Partition → Partition) : (s.modPart i f).launches = s.launches := rfl
@[simp] theorem State.modPart_clusters (s : State) (i : Nat) (f : Partition → Partition) : (s.modPart i f).clusters = s.clusters := rfl
@[simp] theorem State.modPart_cores (s : State) (i : Nat) (f : Partition → Partition) : (s.modPart i f).cores = s.cores := rfl
@[simp] theorem State.modPart_parts (s : State) (i : Nat) (f : Partition → Partition) : (s.modPart i f).parts = tabSet s.parts i (f (s.part i)) := rfl
@[simp] theorem State.modPart_shadows (s : State) (i : Nat) (f : Partition → Partition) : (s.modPart i f).shadows = s.shadows := rfl
@[simp] theorem State.modPart_dies (s : State) (i : Nat) (f : Partition → Partition) : (s.modPart i f).dies = s.dies := rfl
@[simp] theorem State.modPart_ctxs (s : State) (i : Nat) (f : Partition → Partition) : (s.modPart i f).ctxs = s.ctxs := rfl
@[simp] theorem State.modPart_mem (s : State) (i : Nat) (f : Partition → Partition) : (s.modPart i f).mem = s.mem := rfl
@[simp] theorem State.modPart_writes (s : State) (i : Nat) (f : Partition → Partition) : (s.modPart i f).writes = s.writes := rfl
@[simp] theorem State.modPart_posted (s : State) (i : Nat) (f : Partition → Partition) : (s.modPart i f).posted = s.posted := rfl
@[simp] theorem State.modPart_loads (s : State) (i : Nat) (f : Partition → Partition) : (s.modPart i f).loads = s.loads := rfl
@[simp] theorem State.modPart_copies (s : State) (i : Nat) (f : Partition → Partition) : (s.modPart i f).copies = s.copies := rfl
@[simp] theorem State.modPart_arrivals (s : State) (i : Nat) (f : Partition → Partition) : (s.modPart i f).arrivals = s.arrivals := rfl
@[simp] theorem State.modPart_claims (s : State) (i : Nat) (f : Partition → Partition) : (s.modPart i f).claims = s.claims := rfl
@[simp] theorem State.modPart_grants (s : State) (i : Nat) (f : Partition → Partition) : (s.modPart i f).grants = s.grants := rfl
@[simp] theorem State.modPart_absent (s : State) (i : Nat) (f : Partition → Partition) : (s.modPart i f).absent = s.absent := rfl
@[simp] theorem State.modPart_homes (s : State) (i : Nat) (f : Partition → Partition) : (s.modPart i f).homes = s.homes := rfl
@[simp] theorem State.modPart_eccBad (s : State) (i : Nat) (f : Partition → Partition) : (s.modPart i f).eccBad = s.eccBad := rfl
@[simp] theorem State.modPart_ports (s : State) (i : Nat) (f : Partition → Partition) : (s.modPart i f).ports = s.ports := rfl
@[simp] theorem State.modPart_resps (s : State) (i : Nat) (f : Partition → Partition) : (s.modPart i f).resps = s.resps := rfl
@[simp] theorem State.modPart_svcData (s : State) (i : Nat) (f : Partition → Partition) : (s.modPart i f).svcData = s.svcData := rfl
@[simp] theorem State.modPart_unheld (s : State) (i : Nat) (f : Partition → Partition) : (s.modPart i f).unheld = s.unheld := rfl
@[simp] theorem State.modPart_creates (s : State) (i : Nat) (f : Partition → Partition) : (s.modPart i f).creates = s.creates := rfl
@[simp] theorem State.modPart_peerAns (s : State) (i : Nat) (f : Partition → Partition) : (s.modPart i f).peerAns = s.peerAns := rfl
@[simp] theorem State.modPart_leaseHolder (s : State) (i : Nat) (f : Partition → Partition) : (s.modPart i f).leaseHolder = s.leaseHolder := rfl
@[simp] theorem State.modPart_leaseCounter (s : State) (i : Nat) (f : Partition → Partition) : (s.modPart i f).leaseCounter = s.leaseCounter := rfl
@[simp] theorem State.modPart_mode (s : State) (i : Nat) (f : Partition → Partition) : (s.modPart i f).mode = s.mode := rfl
@[simp] theorem State.modPart_ensign (s : State) (i : Nat) (f : Partition → Partition) : (s.modPart i f).ensign = s.ensign := rfl
@[simp] theorem State.modPart_level (s : State) (i : Nat) (f : Partition → Partition) : (s.modPart i f).level = s.level := rfl
@[simp] theorem State.modPart_conf (s : State) (i : Nat) (f : Partition → Partition) : (s.modPart i f).conf = s.conf := rfl
@[simp] theorem State.modPart_scrubOwed (s : State) (i : Nat) (f : Partition → Partition) : (s.modPart i f).scrubOwed = s.scrubOwed := rfl
@[simp] theorem State.modPart_scrubbing (s : State) (i : Nat) (f : Partition → Partition) : (s.modPart i f).scrubbing = s.scrubbing := rfl
@[simp] theorem State.modPart_entropyFails (s : State) (i : Nat) (f : Partition → Partition) : (s.modPart i f).entropyFails = s.entropyFails := rfl
@[simp] theorem State.modPart_meas (s : State) (i : Nat) (f : Partition → Partition) : (s.modPart i f).meas = s.meas := rfl
@[simp] theorem State.modPart_measDone (s : State) (i : Nat) (f : Partition → Partition) : (s.modPart i f).measDone = s.measDone := rfl
@[simp] theorem State.modPart_keys (s : State) (i : Nat) (f : Partition → Partition) : (s.modPart i f).keys = s.keys := rfl
@[simp] theorem State.modPart_powerCap (s : State) (i : Nat) (f : Partition → Partition) : (s.modPart i f).powerCap = s.powerCap := rfl
@[simp] theorem State.modPart_clockSteps (s : State) (i : Nat) (f : Partition → Partition) : (s.modPart i f).clockSteps = s.clockSteps := rfl
@[simp] theorem State.modPart_lms (s : State) (i : Nat) (f : Partition → Partition) : (s.modPart i f).lms = s.lms := rfl
@[simp] theorem State.modPart_fabricUp (s : State) (i : Nat) (f : Partition → Partition) : (s.modPart i f).fabricUp = s.fabricUp := rfl
@[simp] theorem State.modPart_device (s : State) (i : Nat) (f : Partition → Partition) : (s.modPart i f).device = s.device := rfl
@[simp] theorem State.modPart_late (s : State) (i : Nat) (f : Partition → Partition) : (s.modPart i f).late = s.late := rfl
@[simp] theorem State.modPart_attested (s : State) (i : Nat) (f : Partition → Partition) : (s.modPart i f).attested = s.attested := rfl
@[simp] theorem State.modPart_retired (s : State) (i : Nat) (f : Partition → Partition) : (s.modPart i f).retired = s.retired := rfl
@[simp] theorem State.modPart_versions (s : State) (i : Nat) (f : Partition → Partition) : (s.modPart i f).versions = s.versions := rfl
@[simp] theorem State.modPart_shut (s : State) (i : Nat) (f : Partition → Partition) : (s.modPart i f).shut = s.shut := rfl

/-! ### State.modDie -/

@[simp] theorem State.modDie_cur (s : State) (i : Nat) (f : Die → Die) : (s.modDie i f).cur = s.cur := rfl
@[simp] theorem State.modDie_issueQ (s : State) (i : Nat) (f : Die → Die) : (s.modDie i f).issueQ = s.issueQ := rfl
@[simp] theorem State.modDie_schedule (s : State) (i : Nat) (f : Die → Die) : (s.modDie i f).schedule = s.schedule := rfl
@[simp] theorem State.modDie_turn (s : State) (i : Nat) (f : Die → Die) : (s.modDie i f).turn = s.turn := rfl
@[simp] theorem State.modDie_cycle (s : State) (i : Nat) (f : Die → Die) : (s.modDie i f).cycle = s.cycle := rfl
@[simp] theorem State.modDie_cycleId (s : State) (i : Nat) (f : Die → Die) : (s.modDie i f).cycleId = s.cycleId := rfl
@[simp] theorem State.modDie_nextId (s : State) (i : Nat) (f : Die → Die) : (s.modDie i f).nextId = s.nextId := rfl
@[simp] theorem State.modDie_free (s : State) (i : Nat) (f : Die → Die) : (s.modDie i f).free = s.free := rfl
@[simp] theorem State.modDie_groups (s : State) (i : Nat) (f : Die → Die) : (s.modDie i f).groups = s.groups := rfl
@[simp] theorem State.modDie_launches (s : State) (i : Nat) (f : Die → Die) : (s.modDie i f).launches = s.launches := rfl
@[simp] theorem State.modDie_clusters (s : State) (i : Nat) (f : Die → Die) : (s.modDie i f).clusters = s.clusters := rfl
@[simp] theorem State.modDie_cores (s : State) (i : Nat) (f : Die → Die) : (s.modDie i f).cores = s.cores := rfl
@[simp] theorem State.modDie_parts (s : State) (i : Nat) (f : Die → Die) : (s.modDie i f).parts = s.parts := rfl
@[simp] theorem State.modDie_shadows (s : State) (i : Nat) (f : Die → Die) : (s.modDie i f).shadows = s.shadows := rfl
@[simp] theorem State.modDie_dies (s : State) (i : Nat) (f : Die → Die) : (s.modDie i f).dies = tabSet s.dies i (f (s.die i)) := rfl
@[simp] theorem State.modDie_ctxs (s : State) (i : Nat) (f : Die → Die) : (s.modDie i f).ctxs = s.ctxs := rfl
@[simp] theorem State.modDie_mem (s : State) (i : Nat) (f : Die → Die) : (s.modDie i f).mem = s.mem := rfl
@[simp] theorem State.modDie_writes (s : State) (i : Nat) (f : Die → Die) : (s.modDie i f).writes = s.writes := rfl
@[simp] theorem State.modDie_posted (s : State) (i : Nat) (f : Die → Die) : (s.modDie i f).posted = s.posted := rfl
@[simp] theorem State.modDie_loads (s : State) (i : Nat) (f : Die → Die) : (s.modDie i f).loads = s.loads := rfl
@[simp] theorem State.modDie_copies (s : State) (i : Nat) (f : Die → Die) : (s.modDie i f).copies = s.copies := rfl
@[simp] theorem State.modDie_arrivals (s : State) (i : Nat) (f : Die → Die) : (s.modDie i f).arrivals = s.arrivals := rfl
@[simp] theorem State.modDie_claims (s : State) (i : Nat) (f : Die → Die) : (s.modDie i f).claims = s.claims := rfl
@[simp] theorem State.modDie_grants (s : State) (i : Nat) (f : Die → Die) : (s.modDie i f).grants = s.grants := rfl
@[simp] theorem State.modDie_absent (s : State) (i : Nat) (f : Die → Die) : (s.modDie i f).absent = s.absent := rfl
@[simp] theorem State.modDie_homes (s : State) (i : Nat) (f : Die → Die) : (s.modDie i f).homes = s.homes := rfl
@[simp] theorem State.modDie_eccBad (s : State) (i : Nat) (f : Die → Die) : (s.modDie i f).eccBad = s.eccBad := rfl
@[simp] theorem State.modDie_ports (s : State) (i : Nat) (f : Die → Die) : (s.modDie i f).ports = s.ports := rfl
@[simp] theorem State.modDie_resps (s : State) (i : Nat) (f : Die → Die) : (s.modDie i f).resps = s.resps := rfl
@[simp] theorem State.modDie_svcData (s : State) (i : Nat) (f : Die → Die) : (s.modDie i f).svcData = s.svcData := rfl
@[simp] theorem State.modDie_unheld (s : State) (i : Nat) (f : Die → Die) : (s.modDie i f).unheld = s.unheld := rfl
@[simp] theorem State.modDie_creates (s : State) (i : Nat) (f : Die → Die) : (s.modDie i f).creates = s.creates := rfl
@[simp] theorem State.modDie_peerAns (s : State) (i : Nat) (f : Die → Die) : (s.modDie i f).peerAns = s.peerAns := rfl
@[simp] theorem State.modDie_leaseHolder (s : State) (i : Nat) (f : Die → Die) : (s.modDie i f).leaseHolder = s.leaseHolder := rfl
@[simp] theorem State.modDie_leaseCounter (s : State) (i : Nat) (f : Die → Die) : (s.modDie i f).leaseCounter = s.leaseCounter := rfl
@[simp] theorem State.modDie_mode (s : State) (i : Nat) (f : Die → Die) : (s.modDie i f).mode = s.mode := rfl
@[simp] theorem State.modDie_ensign (s : State) (i : Nat) (f : Die → Die) : (s.modDie i f).ensign = s.ensign := rfl
@[simp] theorem State.modDie_level (s : State) (i : Nat) (f : Die → Die) : (s.modDie i f).level = s.level := rfl
@[simp] theorem State.modDie_conf (s : State) (i : Nat) (f : Die → Die) : (s.modDie i f).conf = s.conf := rfl
@[simp] theorem State.modDie_scrubOwed (s : State) (i : Nat) (f : Die → Die) : (s.modDie i f).scrubOwed = s.scrubOwed := rfl
@[simp] theorem State.modDie_scrubbing (s : State) (i : Nat) (f : Die → Die) : (s.modDie i f).scrubbing = s.scrubbing := rfl
@[simp] theorem State.modDie_entropyFails (s : State) (i : Nat) (f : Die → Die) : (s.modDie i f).entropyFails = s.entropyFails := rfl
@[simp] theorem State.modDie_meas (s : State) (i : Nat) (f : Die → Die) : (s.modDie i f).meas = s.meas := rfl
@[simp] theorem State.modDie_measDone (s : State) (i : Nat) (f : Die → Die) : (s.modDie i f).measDone = s.measDone := rfl
@[simp] theorem State.modDie_keys (s : State) (i : Nat) (f : Die → Die) : (s.modDie i f).keys = s.keys := rfl
@[simp] theorem State.modDie_powerCap (s : State) (i : Nat) (f : Die → Die) : (s.modDie i f).powerCap = s.powerCap := rfl
@[simp] theorem State.modDie_clockSteps (s : State) (i : Nat) (f : Die → Die) : (s.modDie i f).clockSteps = s.clockSteps := rfl
@[simp] theorem State.modDie_lms (s : State) (i : Nat) (f : Die → Die) : (s.modDie i f).lms = s.lms := rfl
@[simp] theorem State.modDie_fabricUp (s : State) (i : Nat) (f : Die → Die) : (s.modDie i f).fabricUp = s.fabricUp := rfl
@[simp] theorem State.modDie_device (s : State) (i : Nat) (f : Die → Die) : (s.modDie i f).device = s.device := rfl
@[simp] theorem State.modDie_late (s : State) (i : Nat) (f : Die → Die) : (s.modDie i f).late = s.late := rfl
@[simp] theorem State.modDie_attested (s : State) (i : Nat) (f : Die → Die) : (s.modDie i f).attested = s.attested := rfl
@[simp] theorem State.modDie_retired (s : State) (i : Nat) (f : Die → Die) : (s.modDie i f).retired = s.retired := rfl
@[simp] theorem State.modDie_versions (s : State) (i : Nat) (f : Die → Die) : (s.modDie i f).versions = s.versions := rfl
@[simp] theorem State.modDie_shut (s : State) (i : Nat) (f : Die → Die) : (s.modDie i f).shut = s.shut := rfl

/-! ### State.modPort -/

@[simp] theorem State.modPort_cur (s : State) (i : Nat) (f : Port → Port) : (s.modPort i f).cur = s.cur := rfl
@[simp] theorem State.modPort_issueQ (s : State) (i : Nat) (f : Port → Port) : (s.modPort i f).issueQ = s.issueQ := rfl
@[simp] theorem State.modPort_schedule (s : State) (i : Nat) (f : Port → Port) : (s.modPort i f).schedule = s.schedule := rfl
@[simp] theorem State.modPort_turn (s : State) (i : Nat) (f : Port → Port) : (s.modPort i f).turn = s.turn := rfl
@[simp] theorem State.modPort_cycle (s : State) (i : Nat) (f : Port → Port) : (s.modPort i f).cycle = s.cycle := rfl
@[simp] theorem State.modPort_cycleId (s : State) (i : Nat) (f : Port → Port) : (s.modPort i f).cycleId = s.cycleId := rfl
@[simp] theorem State.modPort_nextId (s : State) (i : Nat) (f : Port → Port) : (s.modPort i f).nextId = s.nextId := rfl
@[simp] theorem State.modPort_free (s : State) (i : Nat) (f : Port → Port) : (s.modPort i f).free = s.free := rfl
@[simp] theorem State.modPort_groups (s : State) (i : Nat) (f : Port → Port) : (s.modPort i f).groups = s.groups := rfl
@[simp] theorem State.modPort_launches (s : State) (i : Nat) (f : Port → Port) : (s.modPort i f).launches = s.launches := rfl
@[simp] theorem State.modPort_clusters (s : State) (i : Nat) (f : Port → Port) : (s.modPort i f).clusters = s.clusters := rfl
@[simp] theorem State.modPort_cores (s : State) (i : Nat) (f : Port → Port) : (s.modPort i f).cores = s.cores := rfl
@[simp] theorem State.modPort_parts (s : State) (i : Nat) (f : Port → Port) : (s.modPort i f).parts = s.parts := rfl
@[simp] theorem State.modPort_shadows (s : State) (i : Nat) (f : Port → Port) : (s.modPort i f).shadows = s.shadows := rfl
@[simp] theorem State.modPort_dies (s : State) (i : Nat) (f : Port → Port) : (s.modPort i f).dies = s.dies := rfl
@[simp] theorem State.modPort_ctxs (s : State) (i : Nat) (f : Port → Port) : (s.modPort i f).ctxs = s.ctxs := rfl
@[simp] theorem State.modPort_mem (s : State) (i : Nat) (f : Port → Port) : (s.modPort i f).mem = s.mem := rfl
@[simp] theorem State.modPort_writes (s : State) (i : Nat) (f : Port → Port) : (s.modPort i f).writes = s.writes := rfl
@[simp] theorem State.modPort_posted (s : State) (i : Nat) (f : Port → Port) : (s.modPort i f).posted = s.posted := rfl
@[simp] theorem State.modPort_loads (s : State) (i : Nat) (f : Port → Port) : (s.modPort i f).loads = s.loads := rfl
@[simp] theorem State.modPort_copies (s : State) (i : Nat) (f : Port → Port) : (s.modPort i f).copies = s.copies := rfl
@[simp] theorem State.modPort_arrivals (s : State) (i : Nat) (f : Port → Port) : (s.modPort i f).arrivals = s.arrivals := rfl
@[simp] theorem State.modPort_claims (s : State) (i : Nat) (f : Port → Port) : (s.modPort i f).claims = s.claims := rfl
@[simp] theorem State.modPort_grants (s : State) (i : Nat) (f : Port → Port) : (s.modPort i f).grants = s.grants := rfl
@[simp] theorem State.modPort_absent (s : State) (i : Nat) (f : Port → Port) : (s.modPort i f).absent = s.absent := rfl
@[simp] theorem State.modPort_homes (s : State) (i : Nat) (f : Port → Port) : (s.modPort i f).homes = s.homes := rfl
@[simp] theorem State.modPort_eccBad (s : State) (i : Nat) (f : Port → Port) : (s.modPort i f).eccBad = s.eccBad := rfl
@[simp] theorem State.modPort_ports (s : State) (i : Nat) (f : Port → Port) : (s.modPort i f).ports = tabSet s.ports i (f (s.port i)) := rfl
@[simp] theorem State.modPort_resps (s : State) (i : Nat) (f : Port → Port) : (s.modPort i f).resps = s.resps := rfl
@[simp] theorem State.modPort_svcData (s : State) (i : Nat) (f : Port → Port) : (s.modPort i f).svcData = s.svcData := rfl
@[simp] theorem State.modPort_unheld (s : State) (i : Nat) (f : Port → Port) : (s.modPort i f).unheld = s.unheld := rfl
@[simp] theorem State.modPort_creates (s : State) (i : Nat) (f : Port → Port) : (s.modPort i f).creates = s.creates := rfl
@[simp] theorem State.modPort_peerAns (s : State) (i : Nat) (f : Port → Port) : (s.modPort i f).peerAns = s.peerAns := rfl
@[simp] theorem State.modPort_leaseHolder (s : State) (i : Nat) (f : Port → Port) : (s.modPort i f).leaseHolder = s.leaseHolder := rfl
@[simp] theorem State.modPort_leaseCounter (s : State) (i : Nat) (f : Port → Port) : (s.modPort i f).leaseCounter = s.leaseCounter := rfl
@[simp] theorem State.modPort_mode (s : State) (i : Nat) (f : Port → Port) : (s.modPort i f).mode = s.mode := rfl
@[simp] theorem State.modPort_ensign (s : State) (i : Nat) (f : Port → Port) : (s.modPort i f).ensign = s.ensign := rfl
@[simp] theorem State.modPort_level (s : State) (i : Nat) (f : Port → Port) : (s.modPort i f).level = s.level := rfl
@[simp] theorem State.modPort_conf (s : State) (i : Nat) (f : Port → Port) : (s.modPort i f).conf = s.conf := rfl
@[simp] theorem State.modPort_scrubOwed (s : State) (i : Nat) (f : Port → Port) : (s.modPort i f).scrubOwed = s.scrubOwed := rfl
@[simp] theorem State.modPort_scrubbing (s : State) (i : Nat) (f : Port → Port) : (s.modPort i f).scrubbing = s.scrubbing := rfl
@[simp] theorem State.modPort_entropyFails (s : State) (i : Nat) (f : Port → Port) : (s.modPort i f).entropyFails = s.entropyFails := rfl
@[simp] theorem State.modPort_meas (s : State) (i : Nat) (f : Port → Port) : (s.modPort i f).meas = s.meas := rfl
@[simp] theorem State.modPort_measDone (s : State) (i : Nat) (f : Port → Port) : (s.modPort i f).measDone = s.measDone := rfl
@[simp] theorem State.modPort_keys (s : State) (i : Nat) (f : Port → Port) : (s.modPort i f).keys = s.keys := rfl
@[simp] theorem State.modPort_powerCap (s : State) (i : Nat) (f : Port → Port) : (s.modPort i f).powerCap = s.powerCap := rfl
@[simp] theorem State.modPort_clockSteps (s : State) (i : Nat) (f : Port → Port) : (s.modPort i f).clockSteps = s.clockSteps := rfl
@[simp] theorem State.modPort_lms (s : State) (i : Nat) (f : Port → Port) : (s.modPort i f).lms = s.lms := rfl
@[simp] theorem State.modPort_fabricUp (s : State) (i : Nat) (f : Port → Port) : (s.modPort i f).fabricUp = s.fabricUp := rfl
@[simp] theorem State.modPort_device (s : State) (i : Nat) (f : Port → Port) : (s.modPort i f).device = s.device := rfl
@[simp] theorem State.modPort_late (s : State) (i : Nat) (f : Port → Port) : (s.modPort i f).late = s.late := rfl
@[simp] theorem State.modPort_attested (s : State) (i : Nat) (f : Port → Port) : (s.modPort i f).attested = s.attested := rfl
@[simp] theorem State.modPort_retired (s : State) (i : Nat) (f : Port → Port) : (s.modPort i f).retired = s.retired := rfl
@[simp] theorem State.modPort_versions (s : State) (i : Nat) (f : Port → Port) : (s.modPort i f).versions = s.versions := rfl
@[simp] theorem State.modPort_shut (s : State) (i : Nat) (f : Port → Port) : (s.modPort i f).shut = s.shut := rfl

/-! ### State.modCtx -/

@[simp] theorem State.modCtx_cur (s : State) (i : Nat) (f : Context → Context) : (s.modCtx i f).cur = s.cur := rfl
@[simp] theorem State.modCtx_issueQ (s : State) (i : Nat) (f : Context → Context) : (s.modCtx i f).issueQ = s.issueQ := rfl
@[simp] theorem State.modCtx_schedule (s : State) (i : Nat) (f : Context → Context) : (s.modCtx i f).schedule = s.schedule := rfl
@[simp] theorem State.modCtx_turn (s : State) (i : Nat) (f : Context → Context) : (s.modCtx i f).turn = s.turn := rfl
@[simp] theorem State.modCtx_cycle (s : State) (i : Nat) (f : Context → Context) : (s.modCtx i f).cycle = s.cycle := rfl
@[simp] theorem State.modCtx_cycleId (s : State) (i : Nat) (f : Context → Context) : (s.modCtx i f).cycleId = s.cycleId := rfl
@[simp] theorem State.modCtx_nextId (s : State) (i : Nat) (f : Context → Context) : (s.modCtx i f).nextId = s.nextId := rfl
@[simp] theorem State.modCtx_free (s : State) (i : Nat) (f : Context → Context) : (s.modCtx i f).free = s.free := rfl
@[simp] theorem State.modCtx_groups (s : State) (i : Nat) (f : Context → Context) : (s.modCtx i f).groups = s.groups := rfl
@[simp] theorem State.modCtx_launches (s : State) (i : Nat) (f : Context → Context) : (s.modCtx i f).launches = s.launches := rfl
@[simp] theorem State.modCtx_clusters (s : State) (i : Nat) (f : Context → Context) : (s.modCtx i f).clusters = s.clusters := rfl
@[simp] theorem State.modCtx_cores (s : State) (i : Nat) (f : Context → Context) : (s.modCtx i f).cores = s.cores := rfl
@[simp] theorem State.modCtx_parts (s : State) (i : Nat) (f : Context → Context) : (s.modCtx i f).parts = s.parts := rfl
@[simp] theorem State.modCtx_shadows (s : State) (i : Nat) (f : Context → Context) : (s.modCtx i f).shadows = s.shadows := rfl
@[simp] theorem State.modCtx_dies (s : State) (i : Nat) (f : Context → Context) : (s.modCtx i f).dies = s.dies := rfl
@[simp] theorem State.modCtx_ctxs (s : State) (i : Nat) (f : Context → Context) : (s.modCtx i f).ctxs = tabMod s.ctxs i f := rfl
@[simp] theorem State.modCtx_mem (s : State) (i : Nat) (f : Context → Context) : (s.modCtx i f).mem = s.mem := rfl
@[simp] theorem State.modCtx_writes (s : State) (i : Nat) (f : Context → Context) : (s.modCtx i f).writes = s.writes := rfl
@[simp] theorem State.modCtx_posted (s : State) (i : Nat) (f : Context → Context) : (s.modCtx i f).posted = s.posted := rfl
@[simp] theorem State.modCtx_loads (s : State) (i : Nat) (f : Context → Context) : (s.modCtx i f).loads = s.loads := rfl
@[simp] theorem State.modCtx_copies (s : State) (i : Nat) (f : Context → Context) : (s.modCtx i f).copies = s.copies := rfl
@[simp] theorem State.modCtx_arrivals (s : State) (i : Nat) (f : Context → Context) : (s.modCtx i f).arrivals = s.arrivals := rfl
@[simp] theorem State.modCtx_claims (s : State) (i : Nat) (f : Context → Context) : (s.modCtx i f).claims = s.claims := rfl
@[simp] theorem State.modCtx_grants (s : State) (i : Nat) (f : Context → Context) : (s.modCtx i f).grants = s.grants := rfl
@[simp] theorem State.modCtx_absent (s : State) (i : Nat) (f : Context → Context) : (s.modCtx i f).absent = s.absent := rfl
@[simp] theorem State.modCtx_homes (s : State) (i : Nat) (f : Context → Context) : (s.modCtx i f).homes = s.homes := rfl
@[simp] theorem State.modCtx_eccBad (s : State) (i : Nat) (f : Context → Context) : (s.modCtx i f).eccBad = s.eccBad := rfl
@[simp] theorem State.modCtx_ports (s : State) (i : Nat) (f : Context → Context) : (s.modCtx i f).ports = s.ports := rfl
@[simp] theorem State.modCtx_resps (s : State) (i : Nat) (f : Context → Context) : (s.modCtx i f).resps = s.resps := rfl
@[simp] theorem State.modCtx_svcData (s : State) (i : Nat) (f : Context → Context) : (s.modCtx i f).svcData = s.svcData := rfl
@[simp] theorem State.modCtx_unheld (s : State) (i : Nat) (f : Context → Context) : (s.modCtx i f).unheld = s.unheld := rfl
@[simp] theorem State.modCtx_creates (s : State) (i : Nat) (f : Context → Context) : (s.modCtx i f).creates = s.creates := rfl
@[simp] theorem State.modCtx_peerAns (s : State) (i : Nat) (f : Context → Context) : (s.modCtx i f).peerAns = s.peerAns := rfl
@[simp] theorem State.modCtx_leaseHolder (s : State) (i : Nat) (f : Context → Context) : (s.modCtx i f).leaseHolder = s.leaseHolder := rfl
@[simp] theorem State.modCtx_leaseCounter (s : State) (i : Nat) (f : Context → Context) : (s.modCtx i f).leaseCounter = s.leaseCounter := rfl
@[simp] theorem State.modCtx_mode (s : State) (i : Nat) (f : Context → Context) : (s.modCtx i f).mode = s.mode := rfl
@[simp] theorem State.modCtx_ensign (s : State) (i : Nat) (f : Context → Context) : (s.modCtx i f).ensign = s.ensign := rfl
@[simp] theorem State.modCtx_level (s : State) (i : Nat) (f : Context → Context) : (s.modCtx i f).level = s.level := rfl
@[simp] theorem State.modCtx_conf (s : State) (i : Nat) (f : Context → Context) : (s.modCtx i f).conf = s.conf := rfl
@[simp] theorem State.modCtx_scrubOwed (s : State) (i : Nat) (f : Context → Context) : (s.modCtx i f).scrubOwed = s.scrubOwed := rfl
@[simp] theorem State.modCtx_scrubbing (s : State) (i : Nat) (f : Context → Context) : (s.modCtx i f).scrubbing = s.scrubbing := rfl
@[simp] theorem State.modCtx_entropyFails (s : State) (i : Nat) (f : Context → Context) : (s.modCtx i f).entropyFails = s.entropyFails := rfl
@[simp] theorem State.modCtx_meas (s : State) (i : Nat) (f : Context → Context) : (s.modCtx i f).meas = s.meas := rfl
@[simp] theorem State.modCtx_measDone (s : State) (i : Nat) (f : Context → Context) : (s.modCtx i f).measDone = s.measDone := rfl
@[simp] theorem State.modCtx_keys (s : State) (i : Nat) (f : Context → Context) : (s.modCtx i f).keys = s.keys := rfl
@[simp] theorem State.modCtx_powerCap (s : State) (i : Nat) (f : Context → Context) : (s.modCtx i f).powerCap = s.powerCap := rfl
@[simp] theorem State.modCtx_clockSteps (s : State) (i : Nat) (f : Context → Context) : (s.modCtx i f).clockSteps = s.clockSteps := rfl
@[simp] theorem State.modCtx_lms (s : State) (i : Nat) (f : Context → Context) : (s.modCtx i f).lms = s.lms := rfl
@[simp] theorem State.modCtx_fabricUp (s : State) (i : Nat) (f : Context → Context) : (s.modCtx i f).fabricUp = s.fabricUp := rfl
@[simp] theorem State.modCtx_device (s : State) (i : Nat) (f : Context → Context) : (s.modCtx i f).device = s.device := rfl
@[simp] theorem State.modCtx_late (s : State) (i : Nat) (f : Context → Context) : (s.modCtx i f).late = s.late := rfl
@[simp] theorem State.modCtx_attested (s : State) (i : Nat) (f : Context → Context) : (s.modCtx i f).attested = s.attested := rfl
@[simp] theorem State.modCtx_retired (s : State) (i : Nat) (f : Context → Context) : (s.modCtx i f).retired = s.retired := rfl
@[simp] theorem State.modCtx_versions (s : State) (i : Nat) (f : Context → Context) : (s.modCtx i f).versions = s.versions := rfl
@[simp] theorem State.modCtx_shut (s : State) (i : Nat) (f : Context → Context) : (s.modCtx i f).shut = s.shut := rfl

/-! ### State.modLaunch -/

@[simp] theorem State.modLaunch_cur (s : State) (i : Nat) (f : Launch → Launch) : (s.modLaunch i f).cur = s.cur := rfl
@[simp] theorem State.modLaunch_issueQ (s : State) (i : Nat) (f : Launch → Launch) : (s.modLaunch i f).issueQ = s.issueQ := rfl
@[simp] theorem State.modLaunch_schedule (s : State) (i : Nat) (f : Launch → Launch) : (s.modLaunch i f).schedule = s.schedule := rfl
@[simp] theorem State.modLaunch_turn (s : State) (i : Nat) (f : Launch → Launch) : (s.modLaunch i f).turn = s.turn := rfl
@[simp] theorem State.modLaunch_cycle (s : State) (i : Nat) (f : Launch → Launch) : (s.modLaunch i f).cycle = s.cycle := rfl
@[simp] theorem State.modLaunch_cycleId (s : State) (i : Nat) (f : Launch → Launch) : (s.modLaunch i f).cycleId = s.cycleId := rfl
@[simp] theorem State.modLaunch_nextId (s : State) (i : Nat) (f : Launch → Launch) : (s.modLaunch i f).nextId = s.nextId := rfl
@[simp] theorem State.modLaunch_free (s : State) (i : Nat) (f : Launch → Launch) : (s.modLaunch i f).free = s.free := rfl
@[simp] theorem State.modLaunch_groups (s : State) (i : Nat) (f : Launch → Launch) : (s.modLaunch i f).groups = s.groups := rfl
@[simp] theorem State.modLaunch_launches (s : State) (i : Nat) (f : Launch → Launch) : (s.modLaunch i f).launches = tabMod s.launches i f := rfl
@[simp] theorem State.modLaunch_clusters (s : State) (i : Nat) (f : Launch → Launch) : (s.modLaunch i f).clusters = s.clusters := rfl
@[simp] theorem State.modLaunch_cores (s : State) (i : Nat) (f : Launch → Launch) : (s.modLaunch i f).cores = s.cores := rfl
@[simp] theorem State.modLaunch_parts (s : State) (i : Nat) (f : Launch → Launch) : (s.modLaunch i f).parts = s.parts := rfl
@[simp] theorem State.modLaunch_shadows (s : State) (i : Nat) (f : Launch → Launch) : (s.modLaunch i f).shadows = s.shadows := rfl
@[simp] theorem State.modLaunch_dies (s : State) (i : Nat) (f : Launch → Launch) : (s.modLaunch i f).dies = s.dies := rfl
@[simp] theorem State.modLaunch_ctxs (s : State) (i : Nat) (f : Launch → Launch) : (s.modLaunch i f).ctxs = s.ctxs := rfl
@[simp] theorem State.modLaunch_mem (s : State) (i : Nat) (f : Launch → Launch) : (s.modLaunch i f).mem = s.mem := rfl
@[simp] theorem State.modLaunch_writes (s : State) (i : Nat) (f : Launch → Launch) : (s.modLaunch i f).writes = s.writes := rfl
@[simp] theorem State.modLaunch_posted (s : State) (i : Nat) (f : Launch → Launch) : (s.modLaunch i f).posted = s.posted := rfl
@[simp] theorem State.modLaunch_loads (s : State) (i : Nat) (f : Launch → Launch) : (s.modLaunch i f).loads = s.loads := rfl
@[simp] theorem State.modLaunch_copies (s : State) (i : Nat) (f : Launch → Launch) : (s.modLaunch i f).copies = s.copies := rfl
@[simp] theorem State.modLaunch_arrivals (s : State) (i : Nat) (f : Launch → Launch) : (s.modLaunch i f).arrivals = s.arrivals := rfl
@[simp] theorem State.modLaunch_claims (s : State) (i : Nat) (f : Launch → Launch) : (s.modLaunch i f).claims = s.claims := rfl
@[simp] theorem State.modLaunch_grants (s : State) (i : Nat) (f : Launch → Launch) : (s.modLaunch i f).grants = s.grants := rfl
@[simp] theorem State.modLaunch_absent (s : State) (i : Nat) (f : Launch → Launch) : (s.modLaunch i f).absent = s.absent := rfl
@[simp] theorem State.modLaunch_homes (s : State) (i : Nat) (f : Launch → Launch) : (s.modLaunch i f).homes = s.homes := rfl
@[simp] theorem State.modLaunch_eccBad (s : State) (i : Nat) (f : Launch → Launch) : (s.modLaunch i f).eccBad = s.eccBad := rfl
@[simp] theorem State.modLaunch_ports (s : State) (i : Nat) (f : Launch → Launch) : (s.modLaunch i f).ports = s.ports := rfl
@[simp] theorem State.modLaunch_resps (s : State) (i : Nat) (f : Launch → Launch) : (s.modLaunch i f).resps = s.resps := rfl
@[simp] theorem State.modLaunch_svcData (s : State) (i : Nat) (f : Launch → Launch) : (s.modLaunch i f).svcData = s.svcData := rfl
@[simp] theorem State.modLaunch_unheld (s : State) (i : Nat) (f : Launch → Launch) : (s.modLaunch i f).unheld = s.unheld := rfl
@[simp] theorem State.modLaunch_creates (s : State) (i : Nat) (f : Launch → Launch) : (s.modLaunch i f).creates = s.creates := rfl
@[simp] theorem State.modLaunch_peerAns (s : State) (i : Nat) (f : Launch → Launch) : (s.modLaunch i f).peerAns = s.peerAns := rfl
@[simp] theorem State.modLaunch_leaseHolder (s : State) (i : Nat) (f : Launch → Launch) : (s.modLaunch i f).leaseHolder = s.leaseHolder := rfl
@[simp] theorem State.modLaunch_leaseCounter (s : State) (i : Nat) (f : Launch → Launch) : (s.modLaunch i f).leaseCounter = s.leaseCounter := rfl
@[simp] theorem State.modLaunch_mode (s : State) (i : Nat) (f : Launch → Launch) : (s.modLaunch i f).mode = s.mode := rfl
@[simp] theorem State.modLaunch_ensign (s : State) (i : Nat) (f : Launch → Launch) : (s.modLaunch i f).ensign = s.ensign := rfl
@[simp] theorem State.modLaunch_level (s : State) (i : Nat) (f : Launch → Launch) : (s.modLaunch i f).level = s.level := rfl
@[simp] theorem State.modLaunch_conf (s : State) (i : Nat) (f : Launch → Launch) : (s.modLaunch i f).conf = s.conf := rfl
@[simp] theorem State.modLaunch_scrubOwed (s : State) (i : Nat) (f : Launch → Launch) : (s.modLaunch i f).scrubOwed = s.scrubOwed := rfl
@[simp] theorem State.modLaunch_scrubbing (s : State) (i : Nat) (f : Launch → Launch) : (s.modLaunch i f).scrubbing = s.scrubbing := rfl
@[simp] theorem State.modLaunch_entropyFails (s : State) (i : Nat) (f : Launch → Launch) : (s.modLaunch i f).entropyFails = s.entropyFails := rfl
@[simp] theorem State.modLaunch_meas (s : State) (i : Nat) (f : Launch → Launch) : (s.modLaunch i f).meas = s.meas := rfl
@[simp] theorem State.modLaunch_measDone (s : State) (i : Nat) (f : Launch → Launch) : (s.modLaunch i f).measDone = s.measDone := rfl
@[simp] theorem State.modLaunch_keys (s : State) (i : Nat) (f : Launch → Launch) : (s.modLaunch i f).keys = s.keys := rfl
@[simp] theorem State.modLaunch_powerCap (s : State) (i : Nat) (f : Launch → Launch) : (s.modLaunch i f).powerCap = s.powerCap := rfl
@[simp] theorem State.modLaunch_clockSteps (s : State) (i : Nat) (f : Launch → Launch) : (s.modLaunch i f).clockSteps = s.clockSteps := rfl
@[simp] theorem State.modLaunch_lms (s : State) (i : Nat) (f : Launch → Launch) : (s.modLaunch i f).lms = s.lms := rfl
@[simp] theorem State.modLaunch_fabricUp (s : State) (i : Nat) (f : Launch → Launch) : (s.modLaunch i f).fabricUp = s.fabricUp := rfl
@[simp] theorem State.modLaunch_device (s : State) (i : Nat) (f : Launch → Launch) : (s.modLaunch i f).device = s.device := rfl
@[simp] theorem State.modLaunch_late (s : State) (i : Nat) (f : Launch → Launch) : (s.modLaunch i f).late = s.late := rfl
@[simp] theorem State.modLaunch_attested (s : State) (i : Nat) (f : Launch → Launch) : (s.modLaunch i f).attested = s.attested := rfl
@[simp] theorem State.modLaunch_retired (s : State) (i : Nat) (f : Launch → Launch) : (s.modLaunch i f).retired = s.retired := rfl
@[simp] theorem State.modLaunch_versions (s : State) (i : Nat) (f : Launch → Launch) : (s.modLaunch i f).versions = s.versions := rfl
@[simp] theorem State.modLaunch_shut (s : State) (i : Nat) (f : Launch → Launch) : (s.modLaunch i f).shut = s.shut := rfl

/-! ### State.modCluster -/

@[simp] theorem State.modCluster_cur (s : State) (i : Nat) (f : Cluster → Cluster) : (s.modCluster i f).cur = s.cur := rfl
@[simp] theorem State.modCluster_issueQ (s : State) (i : Nat) (f : Cluster → Cluster) : (s.modCluster i f).issueQ = s.issueQ := rfl
@[simp] theorem State.modCluster_schedule (s : State) (i : Nat) (f : Cluster → Cluster) : (s.modCluster i f).schedule = s.schedule := rfl
@[simp] theorem State.modCluster_turn (s : State) (i : Nat) (f : Cluster → Cluster) : (s.modCluster i f).turn = s.turn := rfl
@[simp] theorem State.modCluster_cycle (s : State) (i : Nat) (f : Cluster → Cluster) : (s.modCluster i f).cycle = s.cycle := rfl
@[simp] theorem State.modCluster_cycleId (s : State) (i : Nat) (f : Cluster → Cluster) : (s.modCluster i f).cycleId = s.cycleId := rfl
@[simp] theorem State.modCluster_nextId (s : State) (i : Nat) (f : Cluster → Cluster) : (s.modCluster i f).nextId = s.nextId := rfl
@[simp] theorem State.modCluster_free (s : State) (i : Nat) (f : Cluster → Cluster) : (s.modCluster i f).free = s.free := rfl
@[simp] theorem State.modCluster_groups (s : State) (i : Nat) (f : Cluster → Cluster) : (s.modCluster i f).groups = s.groups := rfl
@[simp] theorem State.modCluster_launches (s : State) (i : Nat) (f : Cluster → Cluster) : (s.modCluster i f).launches = s.launches := rfl
@[simp] theorem State.modCluster_clusters (s : State) (i : Nat) (f : Cluster → Cluster) : (s.modCluster i f).clusters = tabMod s.clusters i f := rfl
@[simp] theorem State.modCluster_cores (s : State) (i : Nat) (f : Cluster → Cluster) : (s.modCluster i f).cores = s.cores := rfl
@[simp] theorem State.modCluster_parts (s : State) (i : Nat) (f : Cluster → Cluster) : (s.modCluster i f).parts = s.parts := rfl
@[simp] theorem State.modCluster_shadows (s : State) (i : Nat) (f : Cluster → Cluster) : (s.modCluster i f).shadows = s.shadows := rfl
@[simp] theorem State.modCluster_dies (s : State) (i : Nat) (f : Cluster → Cluster) : (s.modCluster i f).dies = s.dies := rfl
@[simp] theorem State.modCluster_ctxs (s : State) (i : Nat) (f : Cluster → Cluster) : (s.modCluster i f).ctxs = s.ctxs := rfl
@[simp] theorem State.modCluster_mem (s : State) (i : Nat) (f : Cluster → Cluster) : (s.modCluster i f).mem = s.mem := rfl
@[simp] theorem State.modCluster_writes (s : State) (i : Nat) (f : Cluster → Cluster) : (s.modCluster i f).writes = s.writes := rfl
@[simp] theorem State.modCluster_posted (s : State) (i : Nat) (f : Cluster → Cluster) : (s.modCluster i f).posted = s.posted := rfl
@[simp] theorem State.modCluster_loads (s : State) (i : Nat) (f : Cluster → Cluster) : (s.modCluster i f).loads = s.loads := rfl
@[simp] theorem State.modCluster_copies (s : State) (i : Nat) (f : Cluster → Cluster) : (s.modCluster i f).copies = s.copies := rfl
@[simp] theorem State.modCluster_arrivals (s : State) (i : Nat) (f : Cluster → Cluster) : (s.modCluster i f).arrivals = s.arrivals := rfl
@[simp] theorem State.modCluster_claims (s : State) (i : Nat) (f : Cluster → Cluster) : (s.modCluster i f).claims = s.claims := rfl
@[simp] theorem State.modCluster_grants (s : State) (i : Nat) (f : Cluster → Cluster) : (s.modCluster i f).grants = s.grants := rfl
@[simp] theorem State.modCluster_absent (s : State) (i : Nat) (f : Cluster → Cluster) : (s.modCluster i f).absent = s.absent := rfl
@[simp] theorem State.modCluster_homes (s : State) (i : Nat) (f : Cluster → Cluster) : (s.modCluster i f).homes = s.homes := rfl
@[simp] theorem State.modCluster_eccBad (s : State) (i : Nat) (f : Cluster → Cluster) : (s.modCluster i f).eccBad = s.eccBad := rfl
@[simp] theorem State.modCluster_ports (s : State) (i : Nat) (f : Cluster → Cluster) : (s.modCluster i f).ports = s.ports := rfl
@[simp] theorem State.modCluster_resps (s : State) (i : Nat) (f : Cluster → Cluster) : (s.modCluster i f).resps = s.resps := rfl
@[simp] theorem State.modCluster_svcData (s : State) (i : Nat) (f : Cluster → Cluster) : (s.modCluster i f).svcData = s.svcData := rfl
@[simp] theorem State.modCluster_unheld (s : State) (i : Nat) (f : Cluster → Cluster) : (s.modCluster i f).unheld = s.unheld := rfl
@[simp] theorem State.modCluster_creates (s : State) (i : Nat) (f : Cluster → Cluster) : (s.modCluster i f).creates = s.creates := rfl
@[simp] theorem State.modCluster_peerAns (s : State) (i : Nat) (f : Cluster → Cluster) : (s.modCluster i f).peerAns = s.peerAns := rfl
@[simp] theorem State.modCluster_leaseHolder (s : State) (i : Nat) (f : Cluster → Cluster) : (s.modCluster i f).leaseHolder = s.leaseHolder := rfl
@[simp] theorem State.modCluster_leaseCounter (s : State) (i : Nat) (f : Cluster → Cluster) : (s.modCluster i f).leaseCounter = s.leaseCounter := rfl
@[simp] theorem State.modCluster_mode (s : State) (i : Nat) (f : Cluster → Cluster) : (s.modCluster i f).mode = s.mode := rfl
@[simp] theorem State.modCluster_ensign (s : State) (i : Nat) (f : Cluster → Cluster) : (s.modCluster i f).ensign = s.ensign := rfl
@[simp] theorem State.modCluster_level (s : State) (i : Nat) (f : Cluster → Cluster) : (s.modCluster i f).level = s.level := rfl
@[simp] theorem State.modCluster_conf (s : State) (i : Nat) (f : Cluster → Cluster) : (s.modCluster i f).conf = s.conf := rfl
@[simp] theorem State.modCluster_scrubOwed (s : State) (i : Nat) (f : Cluster → Cluster) : (s.modCluster i f).scrubOwed = s.scrubOwed := rfl
@[simp] theorem State.modCluster_scrubbing (s : State) (i : Nat) (f : Cluster → Cluster) : (s.modCluster i f).scrubbing = s.scrubbing := rfl
@[simp] theorem State.modCluster_entropyFails (s : State) (i : Nat) (f : Cluster → Cluster) : (s.modCluster i f).entropyFails = s.entropyFails := rfl
@[simp] theorem State.modCluster_meas (s : State) (i : Nat) (f : Cluster → Cluster) : (s.modCluster i f).meas = s.meas := rfl
@[simp] theorem State.modCluster_measDone (s : State) (i : Nat) (f : Cluster → Cluster) : (s.modCluster i f).measDone = s.measDone := rfl
@[simp] theorem State.modCluster_keys (s : State) (i : Nat) (f : Cluster → Cluster) : (s.modCluster i f).keys = s.keys := rfl
@[simp] theorem State.modCluster_powerCap (s : State) (i : Nat) (f : Cluster → Cluster) : (s.modCluster i f).powerCap = s.powerCap := rfl
@[simp] theorem State.modCluster_clockSteps (s : State) (i : Nat) (f : Cluster → Cluster) : (s.modCluster i f).clockSteps = s.clockSteps := rfl
@[simp] theorem State.modCluster_lms (s : State) (i : Nat) (f : Cluster → Cluster) : (s.modCluster i f).lms = s.lms := rfl
@[simp] theorem State.modCluster_fabricUp (s : State) (i : Nat) (f : Cluster → Cluster) : (s.modCluster i f).fabricUp = s.fabricUp := rfl
@[simp] theorem State.modCluster_device (s : State) (i : Nat) (f : Cluster → Cluster) : (s.modCluster i f).device = s.device := rfl
@[simp] theorem State.modCluster_late (s : State) (i : Nat) (f : Cluster → Cluster) : (s.modCluster i f).late = s.late := rfl
@[simp] theorem State.modCluster_attested (s : State) (i : Nat) (f : Cluster → Cluster) : (s.modCluster i f).attested = s.attested := rfl
@[simp] theorem State.modCluster_retired (s : State) (i : Nat) (f : Cluster → Cluster) : (s.modCluster i f).retired = s.retired := rfl
@[simp] theorem State.modCluster_versions (s : State) (i : Nat) (f : Cluster → Cluster) : (s.modCluster i f).versions = s.versions := rfl
@[simp] theorem State.modCluster_shut (s : State) (i : Nat) (f : Cluster → Cluster) : (s.modCluster i f).shut = s.shut := rfl

/-! ### Groups and bands -/

@[simp] theorem Group.modBand_ctx (g : Group) (i : Nat) (f : Band → Band) : (g.modBand i f).ctx = g.ctx := rfl
@[simp] theorem Group.modBand_lid (g : Group) (i : Nat) (f : Band → Band) : (g.modBand i f).lid = g.lid := rfl
@[simp] theorem Group.modBand_cid (g : Group) (i : Nat) (f : Band → Band) : (g.modBand i f).cid = g.cid := rfl
@[simp] theorem Group.modBand_number (g : Group) (i : Nat) (f : Band → Band) : (g.modBand i f).number = g.number := rfl
@[simp] theorem Group.modBand_unit (g : Group) (i : Nat) (f : Band → Band) : (g.modBand i f).unit = g.unit := rfl
@[simp] theorem Group.modBand_stage (g : Group) (i : Nat) (f : Band → Band) : (g.modBand i f).stage = g.stage := rfl
@[simp] theorem Group.modBand_position (g : Group) (i : Nat) (f : Band → Band) : (g.modBand i f).position = g.position := rfl
@[simp] theorem Group.modBand_n (g : Group) (i : Nat) (f : Band → Band) : (g.modBand i f).n = g.n := rfl
@[simp] theorem Group.modBand_budget (g : Group) (i : Nat) (f : Band → Band) : (g.modBand i f).budget = g.budget := rfl
@[simp] theorem Group.modBand_scratch (g : Group) (i : Nat) (f : Band → Band) : (g.modBand i f).scratch = g.scratch := rfl
@[simp] theorem Group.modBand_scratchBase (g : Group) (i : Nat) (f : Band → Band) : (g.modBand i f).scratchBase = g.scratchBase := rfl
@[simp] theorem Group.modBand_entry (g : Group) (i : Nat) (f : Band → Band) : (g.modBand i f).entry = g.entry := rfl
@[simp] theorem Group.modBand_core (g : Group) (i : Nat) (f : Band → Band) : (g.modBand i f).core = g.core := rfl
@[simp] theorem Group.modBand_place (g : Group) (i : Nat) (f : Band → Band) : (g.modBand i f).place = g.place := rfl
@[simp] theorem Group.modBand_moving (g : Group) (i : Nat) (f : Band → Band) : (g.modBand i f).moving = g.moving := rfl
@[simp] theorem Group.modBand_teamOrder (g : Group) (i : Nat) (f : Band → Band) : (g.modBand i f).teamOrder = g.teamOrder := rfl
@[simp] theorem Group.modBand_bands (g : Group) (i : Nat) (f : Band → Band) : (g.modBand i f).bands = listMod g.bands i f := rfl
@[simp] theorem Group.modBand_accMask (g : Group) (i : Nat) (f : Band → Band) : (g.modBand i f).accMask = g.accMask := rfl
@[simp] theorem Group.modBand_inlmax (g : Group) (i : Nat) (f : Band → Band) : (g.modBand i f).inlmax = g.inlmax := rfl
@[simp] theorem Group.modBand_inl (g : Group) (i : Nat) (f : Band → Band) : (g.modBand i f).inl = g.inl := rfl
@[simp] theorem Group.modBand_arrive (g : Group) (i : Nat) (f : Band → Band) : (g.modBand i f).arrive = g.arrive := rfl
@[simp] theorem Group.modBand_cbarCount (g : Group) (i : Nat) (f : Band → Band) : (g.modBand i f).cbarCount = g.cbarCount := rfl
@[simp] theorem Group.modBand_graph (g : Group) (i : Nat) (f : Band → Band) : (g.modBand i f).graph = g.graph := rfl
@[simp] theorem Group.modBand_node (g : Group) (i : Nat) (f : Band → Band) : (g.modBand i f).node = g.node := rfl
@[simp] theorem Group.modBand_halted (g : Group) (i : Nat) (f : Band → Band) : (g.modBand i f).halted = g.halted := rfl
@[simp] theorem Group.modBand_tiles (g : Group) (i : Nat) (f : Band → Band) : (g.modBand i f).tiles = g.tiles := rfl
@[simp] theorem Group.modBand_saveQ (g : Group) (i : Nat) (f : Band → Band) : (g.modBand i f).saveQ = g.saveQ := rfl
@[simp] theorem Group.modBand_follows (g : Group) (i : Nat) (f : Band → Band) : (g.modBand i f).follows = g.follows := rfl
@[simp] theorem Group.modBand_known (g : Group) (i : Nat) (f : Band → Band) : (g.modBand i f).known = g.known := rfl
@[simp] theorem Band.modThread_slice (b : Band) (i : Nat) (f : Thread → Thread) : (b.modThread i f).slice = b.slice := rfl
@[simp] theorem Band.modThread_seat (b : Band) (i : Nat) (f : Thread → Thread) : (b.modThread i f).seat = b.seat := rfl
@[simp] theorem Band.modThread_cls (b : Band) (i : Nat) (f : Thread → Thread) : (b.modThread i f).cls = b.cls := rfl
@[simp] theorem Band.modThread_threads (b : Band) (i : Nat) (f : Thread → Thread) : (b.modThread i f).threads = listMod b.threads i f := rfl
@[simp] theorem Band.modThread_b (b : Band) (i : Nat) (f : Thread → Thread) : (b.modThread i f).b = b.b := rfl
@[simp] theorem Band.modThread_q (b : Band) (i : Nat) (f : Thread → Thread) : (b.modThread i f).q = b.q := rfl
@[simp] theorem Band.modThread_held (b : Band) (i : Nat) (f : Thread → Thread) : (b.modThread i f).held = b.held := rfl
@[simp] theorem Band.modThread_paired (b : Band) (i : Nat) (f : Thread → Thread) : (b.modThread i f).paired = b.paired := rfl
@[simp] theorem Band.modThread_mmaCount (b : Band) (i : Nat) (f : Thread → Thread) : (b.modThread i f).mmaCount = b.mmaCount := rfl
@[simp] theorem Band.modThread_guideCount (b : Band) (i : Nat) (f : Thread → Thread) : (b.modThread i f).guideCount = b.guideCount := rfl
@[simp] theorem Band.modThread_hwm (b : Band) (i : Nat) (f : Thread → Thread) : (b.modThread i f).hwm = b.hwm := rfl
@[simp] theorem Band.modThread_cbase (b : Band) (i : Nat) (f : Thread → Thread) : (b.modThread i f).cbase = b.cbase := rfl
@[simp] theorem Band.modThread_row0 (b : Band) (i : Nat) (f : Thread → Thread) : (b.modThread i f).row0 = b.row0 := rfl
@[simp] theorem Band.modThread_chunks (b : Band) (i : Nat) (f : Thread → Thread) : (b.modThread i f).chunks = b.chunks := rfl
@[simp] theorem Band.modThread_brk (b : Band) (i : Nat) (f : Thread → Thread) : (b.modThread i f).brk = b.brk := rfl
@[simp] theorem Band.modThread_guide (b : Band) (i : Nat) (f : Thread → Thread) : (b.modThread i f).guide = b.guide := rfl
@[simp] theorem Band.modThread_fault (b : Band) (i : Nat) (f : Thread → Thread) : (b.modThread i f).fault = b.fault := rfl
@[simp] theorem Band.modThread_under (b : Band) (i : Nat) (f : Thread → Thread) : (b.modThread i f).under = b.under := rfl
@[simp] theorem Band.onLanes_slice (b : Band) (m : Word) (f : Nat → Thread → Thread) : (b.onLanes m f).slice = b.slice := rfl
@[simp] theorem Band.onLanes_seat (b : Band) (m : Word) (f : Nat → Thread → Thread) : (b.onLanes m f).seat = b.seat := rfl
@[simp] theorem Band.onLanes_cls (b : Band) (m : Word) (f : Nat → Thread → Thread) : (b.onLanes m f).cls = b.cls := rfl
@[simp] theorem Band.onLanes_threads (b : Band) (m : Word) (f : Nat → Thread → Thread) : (b.onLanes m f).threads = mapIdx (fun i t => if m.getLsbD i then f i t else t) b.threads 0 := rfl
@[simp] theorem Band.onLanes_b (b : Band) (m : Word) (f : Nat → Thread → Thread) : (b.onLanes m f).b = b.b := rfl
@[simp] theorem Band.onLanes_q (b : Band) (m : Word) (f : Nat → Thread → Thread) : (b.onLanes m f).q = b.q := rfl
@[simp] theorem Band.onLanes_held (b : Band) (m : Word) (f : Nat → Thread → Thread) : (b.onLanes m f).held = b.held := rfl
@[simp] theorem Band.onLanes_paired (b : Band) (m : Word) (f : Nat → Thread → Thread) : (b.onLanes m f).paired = b.paired := rfl
@[simp] theorem Band.onLanes_mmaCount (b : Band) (m : Word) (f : Nat → Thread → Thread) : (b.onLanes m f).mmaCount = b.mmaCount := rfl
@[simp] theorem Band.onLanes_guideCount (b : Band) (m : Word) (f : Nat → Thread → Thread) : (b.onLanes m f).guideCount = b.guideCount := rfl
@[simp] theorem Band.onLanes_hwm (b : Band) (m : Word) (f : Nat → Thread → Thread) : (b.onLanes m f).hwm = b.hwm := rfl
@[simp] theorem Band.onLanes_cbase (b : Band) (m : Word) (f : Nat → Thread → Thread) : (b.onLanes m f).cbase = b.cbase := rfl
@[simp] theorem Band.onLanes_row0 (b : Band) (m : Word) (f : Nat → Thread → Thread) : (b.onLanes m f).row0 = b.row0 := rfl
@[simp] theorem Band.onLanes_chunks (b : Band) (m : Word) (f : Nat → Thread → Thread) : (b.onLanes m f).chunks = b.chunks := rfl
@[simp] theorem Band.onLanes_brk (b : Band) (m : Word) (f : Nat → Thread → Thread) : (b.onLanes m f).brk = b.brk := rfl
@[simp] theorem Band.onLanes_guide (b : Band) (m : Word) (f : Nat → Thread → Thread) : (b.onLanes m f).guide = b.guide := rfl
@[simp] theorem Band.onLanes_fault (b : Band) (m : Word) (f : Nat → Thread → Thread) : (b.onLanes m f).fault = b.fault := rfl
@[simp] theorem Band.onLanes_under (b : Band) (m : Word) (f : Nat → Thread → Thread) : (b.onLanes m f).under = b.under := rfl
@[simp] theorem Band.setB_slice (b : Band) (i : Nat) (x : Word) : (b.setB i x).slice = b.slice := rfl
@[simp] theorem Band.setB_seat (b : Band) (i : Nat) (x : Word) : (b.setB i x).seat = b.seat := rfl
@[simp] theorem Band.setB_cls (b : Band) (i : Nat) (x : Word) : (b.setB i x).cls = b.cls := rfl
@[simp] theorem Band.setB_threads (b : Band) (i : Nat) (x : Word) : (b.setB i x).threads = b.threads := rfl
@[simp] theorem Band.setB_b (b : Band) (i : Nat) (x : Word) : (b.setB i x).b = tabSet b.b i x := rfl
@[simp] theorem Band.setB_q (b : Band) (i : Nat) (x : Word) : (b.setB i x).q = b.q := rfl
@[simp] theorem Band.setB_held (b : Band) (i : Nat) (x : Word) : (b.setB i x).held = b.held := rfl
@[simp] theorem Band.setB_paired (b : Band) (i : Nat) (x : Word) : (b.setB i x).paired = b.paired := rfl
@[simp] theorem Band.setB_mmaCount (b : Band) (i : Nat) (x : Word) : (b.setB i x).mmaCount = b.mmaCount := rfl
@[simp] theorem Band.setB_guideCount (b : Band) (i : Nat) (x : Word) : (b.setB i x).guideCount = b.guideCount := rfl
@[simp] theorem Band.setB_hwm (b : Band) (i : Nat) (x : Word) : (b.setB i x).hwm = b.hwm := rfl
@[simp] theorem Band.setB_cbase (b : Band) (i : Nat) (x : Word) : (b.setB i x).cbase = b.cbase := rfl
@[simp] theorem Band.setB_row0 (b : Band) (i : Nat) (x : Word) : (b.setB i x).row0 = b.row0 := rfl
@[simp] theorem Band.setB_chunks (b : Band) (i : Nat) (x : Word) : (b.setB i x).chunks = b.chunks := rfl
@[simp] theorem Band.setB_brk (b : Band) (i : Nat) (x : Word) : (b.setB i x).brk = b.brk := rfl
@[simp] theorem Band.setB_guide (b : Band) (i : Nat) (x : Word) : (b.setB i x).guide = b.guide := rfl
@[simp] theorem Band.setB_fault (b : Band) (i : Nat) (x : Word) : (b.setB i x).fault = b.fault := rfl
@[simp] theorem Band.setB_under (b : Band) (i : Nat) (x : Word) : (b.setB i x).under = b.under := rfl
@[simp] theorem Band.setQ_slice (b : Band) (i : BitVec 3) (x : Bool) : (b.setQ i x).slice = b.slice := rfl
@[simp] theorem Band.setQ_seat (b : Band) (i : BitVec 3) (x : Bool) : (b.setQ i x).seat = b.seat := rfl
@[simp] theorem Band.setQ_cls (b : Band) (i : BitVec 3) (x : Bool) : (b.setQ i x).cls = b.cls := rfl
@[simp] theorem Band.setQ_threads (b : Band) (i : BitVec 3) (x : Bool) : (b.setQ i x).threads = b.threads := rfl
@[simp] theorem Band.setQ_b (b : Band) (i : BitVec 3) (x : Bool) : (b.setQ i x).b = b.b := rfl
@[simp] theorem Band.setQ_q (b : Band) (i : BitVec 3) (x : Bool) : (b.setQ i x).q = if i == 7#3 then b.q else setBit7 b.q i x := rfl
@[simp] theorem Band.setQ_held (b : Band) (i : BitVec 3) (x : Bool) : (b.setQ i x).held = b.held := rfl
@[simp] theorem Band.setQ_paired (b : Band) (i : BitVec 3) (x : Bool) : (b.setQ i x).paired = b.paired := rfl
@[simp] theorem Band.setQ_mmaCount (b : Band) (i : BitVec 3) (x : Bool) : (b.setQ i x).mmaCount = b.mmaCount := rfl
@[simp] theorem Band.setQ_guideCount (b : Band) (i : BitVec 3) (x : Bool) : (b.setQ i x).guideCount = b.guideCount := rfl
@[simp] theorem Band.setQ_hwm (b : Band) (i : BitVec 3) (x : Bool) : (b.setQ i x).hwm = b.hwm := rfl
@[simp] theorem Band.setQ_cbase (b : Band) (i : BitVec 3) (x : Bool) : (b.setQ i x).cbase = b.cbase := rfl
@[simp] theorem Band.setQ_row0 (b : Band) (i : BitVec 3) (x : Bool) : (b.setQ i x).row0 = b.row0 := rfl
@[simp] theorem Band.setQ_chunks (b : Band) (i : BitVec 3) (x : Bool) : (b.setQ i x).chunks = b.chunks := rfl
@[simp] theorem Band.setQ_brk (b : Band) (i : BitVec 3) (x : Bool) : (b.setQ i x).brk = b.brk := rfl
@[simp] theorem Band.setQ_guide (b : Band) (i : BitVec 3) (x : Bool) : (b.setQ i x).guide = b.guide := rfl
@[simp] theorem Band.setQ_fault (b : Band) (i : BitVec 3) (x : Bool) : (b.setQ i x).fault = b.fault := rfl
@[simp] theorem Band.setQ_under (b : Band) (i : BitVec 3) (x : Bool) : (b.setQ i x).under = b.under := rfl

/-! ### Threads -/

@[simp] theorem Thread.setV_pc (t : Thread) (i : Nat) (x : Word) : (t.setV i x).pc = t.pc := rfl
@[simp] theorem Thread.setV_live (t : Thread) (i : Nat) (x : Word) : (t.setV i x).live = t.live := rfl
@[simp] theorem Thread.setV_stopped (t : Thread) (i : Nat) (x : Word) : (t.setV i x).stopped = t.stopped := rfl
@[simp] theorem Thread.setV_breakPassed (t : Thread) (i : Nat) (x : Word) : (t.setV i x).breakPassed = t.breakPassed := rfl
@[simp] theorem Thread.setV_demoted (t : Thread) (i : Nat) (x : Word) : (t.setV i x).demoted = t.demoted := rfl
@[simp] theorem Thread.setV_yielded (t : Thread) (i : Nat) (x : Word) : (t.setV i x).yielded = t.yielded := rfl
@[simp] theorem Thread.setV_depth (t : Thread) (i : Nat) (x : Word) : (t.setV i x).depth = t.depth := rfl
@[simp] theorem Thread.setV_xstack (t : Thread) (i : Nat) (x : Word) : (t.setV i x).xstack = t.xstack := rfl
@[simp] theorem Thread.setV_wait (t : Thread) (i : Nat) (x : Word) : (t.setV i x).wait = t.wait := rfl
@[simp] theorem Thread.setV_next (t : Thread) (i : Nat) (x : Word) : (t.setV i x).next = t.next := rfl
@[simp] theorem Thread.setV_nap (t : Thread) (i : Nat) (x : Word) : (t.setV i x).nap = t.nap := rfl
@[simp] theorem Thread.setV_spin (t : Thread) (i : Nat) (x : Word) : (t.setV i x).spin = t.spin := rfl
@[simp] theorem Thread.setV_v (t : Thread) (i : Nat) (x : Word) : (t.setV i x).v = tabSet t.v i x := rfl
@[simp] theorem Thread.setV_o (t : Thread) (i : Nat) (x : Word) : (t.setV i x).o = t.o := rfl
@[simp] theorem Thread.setV_lq (t : Thread) (i : Nat) (x : Word) : (t.setV i x).lq = t.lq := rfl
@[simp] theorem Thread.setV_pend (t : Thread) (i : Nat) (x : Word) : (t.setV i x).pend = t.pend := rfl
@[simp] theorem Thread.setV_p (t : Thread) (i : Nat) (x : Word) : (t.setV i x).p = t.p := rfl
@[simp] theorem Thread.setV_fflags (t : Thread) (i : Nat) (x : Word) : (t.setV i x).fflags = t.fflags := rfl
@[simp] theorem Thread.setV_batch (t : Thread) (i : Nat) (x : Word) : (t.setV i x).batch = t.batch := rfl
@[simp] theorem Thread.setV_bdone (t : Thread) (i : Nat) (x : Word) : (t.setV i x).bdone = t.bdone := rfl
@[simp] theorem Thread.setV_openOps (t : Thread) (i : Nat) (x : Word) : (t.setV i x).openOps = t.openOps := rfl
@[simp] theorem Thread.setV_sealed (t : Thread) (i : Nat) (x : Word) : (t.setV i x).sealed = t.sealed := rfl
@[simp] theorem Thread.setV_ix (t : Thread) (i : Nat) (x : Word) : (t.setV i x).ix = t.ix := rfl
@[simp] theorem Thread.setV_iy (t : Thread) (i : Nat) (x : Word) : (t.setV i x).iy = t.iy := rfl
@[simp] theorem Thread.setV_iz (t : Thread) (i : Nat) (x : Word) : (t.setV i x).iz = t.iz := rfl
@[simp] theorem Thread.setV_canon (t : Thread) (i : Nat) (x : Word) : (t.setV i x).canon = t.canon := rfl
@[simp] theorem Thread.setV_record (t : Thread) (i : Nat) (x : Word) : (t.setV i x).record = t.record := rfl
@[simp] theorem Thread.setV_pcChanged (t : Thread) (i : Nat) (x : Word) : (t.setV i x).pcChanged = t.pcChanged := rfl
@[simp] theorem Thread.setV_vUnder (t : Thread) (i : Nat) (x : Word) : (t.setV i x).vUnder = t.vUnder := rfl
@[simp] theorem Thread.setV_woken (t : Thread) (i : Nat) (x : Word) : (t.setV i x).woken = t.woken := rfl
@[simp] theorem Thread.setV_fences (t : Thread) (i : Nat) (x : Word) : (t.setV i x).fences = t.fences := rfl
@[simp] theorem Thread.setO_pc (t : Thread) (i : Nat) (x : Word) : (t.setO i x).pc = t.pc := rfl
@[simp] theorem Thread.setO_live (t : Thread) (i : Nat) (x : Word) : (t.setO i x).live = t.live := rfl
@[simp] theorem Thread.setO_stopped (t : Thread) (i : Nat) (x : Word) : (t.setO i x).stopped = t.stopped := rfl
@[simp] theorem Thread.setO_breakPassed (t : Thread) (i : Nat) (x : Word) : (t.setO i x).breakPassed = t.breakPassed := rfl
@[simp] theorem Thread.setO_demoted (t : Thread) (i : Nat) (x : Word) : (t.setO i x).demoted = t.demoted := rfl
@[simp] theorem Thread.setO_yielded (t : Thread) (i : Nat) (x : Word) : (t.setO i x).yielded = t.yielded := rfl
@[simp] theorem Thread.setO_depth (t : Thread) (i : Nat) (x : Word) : (t.setO i x).depth = t.depth := rfl
@[simp] theorem Thread.setO_xstack (t : Thread) (i : Nat) (x : Word) : (t.setO i x).xstack = t.xstack := rfl
@[simp] theorem Thread.setO_wait (t : Thread) (i : Nat) (x : Word) : (t.setO i x).wait = t.wait := rfl
@[simp] theorem Thread.setO_next (t : Thread) (i : Nat) (x : Word) : (t.setO i x).next = t.next := rfl
@[simp] theorem Thread.setO_nap (t : Thread) (i : Nat) (x : Word) : (t.setO i x).nap = t.nap := rfl
@[simp] theorem Thread.setO_spin (t : Thread) (i : Nat) (x : Word) : (t.setO i x).spin = t.spin := rfl
@[simp] theorem Thread.setO_v (t : Thread) (i : Nat) (x : Word) : (t.setO i x).v = t.v := rfl
@[simp] theorem Thread.setO_o (t : Thread) (i : Nat) (x : Word) : (t.setO i x).o = tabSet t.o i x := rfl
@[simp] theorem Thread.setO_lq (t : Thread) (i : Nat) (x : Word) : (t.setO i x).lq = t.lq := rfl
@[simp] theorem Thread.setO_pend (t : Thread) (i : Nat) (x : Word) : (t.setO i x).pend = t.pend := rfl
@[simp] theorem Thread.setO_p (t : Thread) (i : Nat) (x : Word) : (t.setO i x).p = t.p := rfl
@[simp] theorem Thread.setO_fflags (t : Thread) (i : Nat) (x : Word) : (t.setO i x).fflags = t.fflags := rfl
@[simp] theorem Thread.setO_batch (t : Thread) (i : Nat) (x : Word) : (t.setO i x).batch = t.batch := rfl
@[simp] theorem Thread.setO_bdone (t : Thread) (i : Nat) (x : Word) : (t.setO i x).bdone = t.bdone := rfl
@[simp] theorem Thread.setO_openOps (t : Thread) (i : Nat) (x : Word) : (t.setO i x).openOps = t.openOps := rfl
@[simp] theorem Thread.setO_sealed (t : Thread) (i : Nat) (x : Word) : (t.setO i x).sealed = t.sealed := rfl
@[simp] theorem Thread.setO_ix (t : Thread) (i : Nat) (x : Word) : (t.setO i x).ix = t.ix := rfl
@[simp] theorem Thread.setO_iy (t : Thread) (i : Nat) (x : Word) : (t.setO i x).iy = t.iy := rfl
@[simp] theorem Thread.setO_iz (t : Thread) (i : Nat) (x : Word) : (t.setO i x).iz = t.iz := rfl
@[simp] theorem Thread.setO_canon (t : Thread) (i : Nat) (x : Word) : (t.setO i x).canon = t.canon := rfl
@[simp] theorem Thread.setO_record (t : Thread) (i : Nat) (x : Word) : (t.setO i x).record = t.record := rfl
@[simp] theorem Thread.setO_pcChanged (t : Thread) (i : Nat) (x : Word) : (t.setO i x).pcChanged = t.pcChanged := rfl
@[simp] theorem Thread.setO_vUnder (t : Thread) (i : Nat) (x : Word) : (t.setO i x).vUnder = t.vUnder := rfl
@[simp] theorem Thread.setO_woken (t : Thread) (i : Nat) (x : Word) : (t.setO i x).woken = t.woken := rfl
@[simp] theorem Thread.setO_fences (t : Thread) (i : Nat) (x : Word) : (t.setO i x).fences = t.fences := rfl
@[simp] theorem Thread.push_pc (t : Thread) (x : Word) : (t.push x).pc = t.pc := rfl
@[simp] theorem Thread.push_live (t : Thread) (x : Word) : (t.push x).live = t.live := rfl
@[simp] theorem Thread.push_stopped (t : Thread) (x : Word) : (t.push x).stopped = t.stopped := rfl
@[simp] theorem Thread.push_breakPassed (t : Thread) (x : Word) : (t.push x).breakPassed = t.breakPassed := rfl
@[simp] theorem Thread.push_demoted (t : Thread) (x : Word) : (t.push x).demoted = t.demoted := rfl
@[simp] theorem Thread.push_yielded (t : Thread) (x : Word) : (t.push x).yielded = t.yielded := rfl
@[simp] theorem Thread.push_depth (t : Thread) (x : Word) : (t.push x).depth = t.depth := rfl
@[simp] theorem Thread.push_xstack (t : Thread) (x : Word) : (t.push x).xstack = t.xstack := rfl
@[simp] theorem Thread.push_wait (t : Thread) (x : Word) : (t.push x).wait = t.wait := rfl
@[simp] theorem Thread.push_next (t : Thread) (x : Word) : (t.push x).next = t.next := rfl
@[simp] theorem Thread.push_nap (t : Thread) (x : Word) : (t.push x).nap = t.nap := rfl
@[simp] theorem Thread.push_spin (t : Thread) (x : Word) : (t.push x).spin = t.spin := rfl
@[simp] theorem Thread.push_v (t : Thread) (x : Word) : (t.push x).v = t.v := rfl
@[simp] theorem Thread.push_o (t : Thread) (x : Word) : (t.push x).o = t.o := rfl
@[simp] theorem Thread.push_lq (t : Thread) (x : Word) : (t.push x).lq = t.lq.push ⟨x, none, false⟩ := rfl
@[simp] theorem Thread.push_pend (t : Thread) (x : Word) : (t.push x).pend = t.pend := rfl
@[simp] theorem Thread.push_p (t : Thread) (x : Word) : (t.push x).p = t.p := rfl
@[simp] theorem Thread.push_fflags (t : Thread) (x : Word) : (t.push x).fflags = t.fflags := rfl
@[simp] theorem Thread.push_batch (t : Thread) (x : Word) : (t.push x).batch = t.batch := rfl
@[simp] theorem Thread.push_bdone (t : Thread) (x : Word) : (t.push x).bdone = t.bdone := rfl
@[simp] theorem Thread.push_openOps (t : Thread) (x : Word) : (t.push x).openOps = t.openOps := rfl
@[simp] theorem Thread.push_sealed (t : Thread) (x : Word) : (t.push x).sealed = t.sealed := rfl
@[simp] theorem Thread.push_ix (t : Thread) (x : Word) : (t.push x).ix = t.ix := rfl
@[simp] theorem Thread.push_iy (t : Thread) (x : Word) : (t.push x).iy = t.iy := rfl
@[simp] theorem Thread.push_iz (t : Thread) (x : Word) : (t.push x).iz = t.iz := rfl
@[simp] theorem Thread.push_canon (t : Thread) (x : Word) : (t.push x).canon = t.canon := rfl
@[simp] theorem Thread.push_record (t : Thread) (x : Word) : (t.push x).record = t.record := rfl
@[simp] theorem Thread.push_pcChanged (t : Thread) (x : Word) : (t.push x).pcChanged = t.pcChanged := rfl
@[simp] theorem Thread.push_vUnder (t : Thread) (x : Word) : (t.push x).vUnder = t.vUnder := rfl
@[simp] theorem Thread.push_woken (t : Thread) (x : Word) : (t.push x).woken = t.woken := rfl
@[simp] theorem Thread.push_fences (t : Thread) (x : Word) : (t.push x).fences = t.fences := rfl
@[simp] theorem Thread.setFlags_pc (t : Thread) (x : Word) : (t.setFlags x).pc = t.pc := rfl
@[simp] theorem Thread.setFlags_live (t : Thread) (x : Word) : (t.setFlags x).live = t.live := rfl
@[simp] theorem Thread.setFlags_stopped (t : Thread) (x : Word) : (t.setFlags x).stopped = t.stopped := rfl
@[simp] theorem Thread.setFlags_breakPassed (t : Thread) (x : Word) : (t.setFlags x).breakPassed = t.breakPassed := rfl
@[simp] theorem Thread.setFlags_demoted (t : Thread) (x : Word) : (t.setFlags x).demoted = t.demoted := rfl
@[simp] theorem Thread.setFlags_yielded (t : Thread) (x : Word) : (t.setFlags x).yielded = t.yielded := rfl
@[simp] theorem Thread.setFlags_depth (t : Thread) (x : Word) : (t.setFlags x).depth = t.depth := rfl
@[simp] theorem Thread.setFlags_xstack (t : Thread) (x : Word) : (t.setFlags x).xstack = t.xstack := rfl
@[simp] theorem Thread.setFlags_wait (t : Thread) (x : Word) : (t.setFlags x).wait = t.wait := rfl
@[simp] theorem Thread.setFlags_next (t : Thread) (x : Word) : (t.setFlags x).next = t.next := rfl
@[simp] theorem Thread.setFlags_nap (t : Thread) (x : Word) : (t.setFlags x).nap = t.nap := rfl
@[simp] theorem Thread.setFlags_spin (t : Thread) (x : Word) : (t.setFlags x).spin = t.spin := rfl
@[simp] theorem Thread.setFlags_v (t : Thread) (x : Word) : (t.setFlags x).v = t.v := rfl
@[simp] theorem Thread.setFlags_o (t : Thread) (x : Word) : (t.setFlags x).o = t.o := rfl
@[simp] theorem Thread.setFlags_lq (t : Thread) (x : Word) : (t.setFlags x).lq = t.lq := rfl
@[simp] theorem Thread.setFlags_pend (t : Thread) (x : Word) : (t.setFlags x).pend = t.pend := rfl
@[simp] theorem Thread.setFlags_p (t : Thread) (x : Word) : (t.setFlags x).p = t.p := rfl
@[simp] theorem Thread.setFlags_fflags (t : Thread) (x : Word) : (t.setFlags x).fflags = t.fflags ||| x := rfl
@[simp] theorem Thread.setFlags_batch (t : Thread) (x : Word) : (t.setFlags x).batch = t.batch := rfl
@[simp] theorem Thread.setFlags_bdone (t : Thread) (x : Word) : (t.setFlags x).bdone = t.bdone := rfl
@[simp] theorem Thread.setFlags_openOps (t : Thread) (x : Word) : (t.setFlags x).openOps = t.openOps := rfl
@[simp] theorem Thread.setFlags_sealed (t : Thread) (x : Word) : (t.setFlags x).sealed = t.sealed := rfl
@[simp] theorem Thread.setFlags_ix (t : Thread) (x : Word) : (t.setFlags x).ix = t.ix := rfl
@[simp] theorem Thread.setFlags_iy (t : Thread) (x : Word) : (t.setFlags x).iy = t.iy := rfl
@[simp] theorem Thread.setFlags_iz (t : Thread) (x : Word) : (t.setFlags x).iz = t.iz := rfl
@[simp] theorem Thread.setFlags_canon (t : Thread) (x : Word) : (t.setFlags x).canon = t.canon := rfl
@[simp] theorem Thread.setFlags_record (t : Thread) (x : Word) : (t.setFlags x).record = t.record := rfl
@[simp] theorem Thread.setFlags_pcChanged (t : Thread) (x : Word) : (t.setFlags x).pcChanged = t.pcChanged := rfl
@[simp] theorem Thread.setFlags_vUnder (t : Thread) (x : Word) : (t.setFlags x).vUnder = t.vUnder := rfl
@[simp] theorem Thread.setFlags_woken (t : Thread) (x : Word) : (t.setFlags x).woken = t.woken := rfl
@[simp] theorem Thread.setFlags_fences (t : Thread) (x : Word) : (t.setFlags x).fences = t.fences := rfl
@[simp] theorem Thread.setP_pc (t : Thread) (i : BitVec 3) (x : Bool) : (t.setP i x).pc = t.pc := rfl
@[simp] theorem Thread.setP_live (t : Thread) (i : BitVec 3) (x : Bool) : (t.setP i x).live = t.live := rfl
@[simp] theorem Thread.setP_stopped (t : Thread) (i : BitVec 3) (x : Bool) : (t.setP i x).stopped = t.stopped := rfl
@[simp] theorem Thread.setP_breakPassed (t : Thread) (i : BitVec 3) (x : Bool) : (t.setP i x).breakPassed = t.breakPassed := rfl
@[simp] theorem Thread.setP_demoted (t : Thread) (i : BitVec 3) (x : Bool) : (t.setP i x).demoted = t.demoted := rfl
@[simp] theorem Thread.setP_yielded (t : Thread) (i : BitVec 3) (x : Bool) : (t.setP i x).yielded = t.yielded := rfl
@[simp] theorem Thread.setP_depth (t : Thread) (i : BitVec 3) (x : Bool) : (t.setP i x).depth = t.depth := rfl
@[simp] theorem Thread.setP_xstack (t : Thread) (i : BitVec 3) (x : Bool) : (t.setP i x).xstack = t.xstack := rfl
@[simp] theorem Thread.setP_wait (t : Thread) (i : BitVec 3) (x : Bool) : (t.setP i x).wait = t.wait := rfl
@[simp] theorem Thread.setP_next (t : Thread) (i : BitVec 3) (x : Bool) : (t.setP i x).next = t.next := rfl
@[simp] theorem Thread.setP_nap (t : Thread) (i : BitVec 3) (x : Bool) : (t.setP i x).nap = t.nap := rfl
@[simp] theorem Thread.setP_spin (t : Thread) (i : BitVec 3) (x : Bool) : (t.setP i x).spin = t.spin := rfl
@[simp] theorem Thread.setP_v (t : Thread) (i : BitVec 3) (x : Bool) : (t.setP i x).v = t.v := rfl
@[simp] theorem Thread.setP_o (t : Thread) (i : BitVec 3) (x : Bool) : (t.setP i x).o = t.o := rfl
@[simp] theorem Thread.setP_lq (t : Thread) (i : BitVec 3) (x : Bool) : (t.setP i x).lq = t.lq.push ⟨if x then 1 else 0, none, false⟩ := rfl
@[simp] theorem Thread.setP_pend (t : Thread) (i : BitVec 3) (x : Bool) : (t.setP i x).pend = t.pend := rfl
@[simp] theorem Thread.setP_p (t : Thread) (i : BitVec 3) (x : Bool) : (t.setP i x).p = if i == 7#3 then t.p else setBit7 t.p i x := rfl
@[simp] theorem Thread.setP_fflags (t : Thread) (i : BitVec 3) (x : Bool) : (t.setP i x).fflags = t.fflags := rfl
@[simp] theorem Thread.setP_batch (t : Thread) (i : BitVec 3) (x : Bool) : (t.setP i x).batch = t.batch := rfl
@[simp] theorem Thread.setP_bdone (t : Thread) (i : BitVec 3) (x : Bool) : (t.setP i x).bdone = t.bdone := rfl
@[simp] theorem Thread.setP_openOps (t : Thread) (i : BitVec 3) (x : Bool) : (t.setP i x).openOps = t.openOps := rfl
@[simp] theorem Thread.setP_sealed (t : Thread) (i : BitVec 3) (x : Bool) : (t.setP i x).sealed = t.sealed := rfl
@[simp] theorem Thread.setP_ix (t : Thread) (i : BitVec 3) (x : Bool) : (t.setP i x).ix = t.ix := rfl
@[simp] theorem Thread.setP_iy (t : Thread) (i : BitVec 3) (x : Bool) : (t.setP i x).iy = t.iy := rfl
@[simp] theorem Thread.setP_iz (t : Thread) (i : BitVec 3) (x : Bool) : (t.setP i x).iz = t.iz := rfl
@[simp] theorem Thread.setP_canon (t : Thread) (i : BitVec 3) (x : Bool) : (t.setP i x).canon = t.canon := rfl
@[simp] theorem Thread.setP_record (t : Thread) (i : BitVec 3) (x : Bool) : (t.setP i x).record = t.record := rfl
@[simp] theorem Thread.setP_pcChanged (t : Thread) (i : BitVec 3) (x : Bool) : (t.setP i x).pcChanged = t.pcChanged := rfl
@[simp] theorem Thread.setP_vUnder (t : Thread) (i : BitVec 3) (x : Bool) : (t.setP i x).vUnder = t.vUnder := rfl
@[simp] theorem Thread.setP_woken (t : Thread) (i : BitVec 3) (x : Bool) : (t.setP i x).woken = t.woken := rfl
@[simp] theorem Thread.setP_fences (t : Thread) (i : BitVec 3) (x : Bool) : (t.setP i x).fences = t.fences := rfl
@[simp] theorem Thread.advance_pc (t : Thread) (p : PC) : (t.advance p).pc = p := rfl
@[simp] theorem Thread.advance_live (t : Thread) (p : PC) : (t.advance p).live = t.live := rfl
@[simp] theorem Thread.advance_stopped (t : Thread) (p : PC) : (t.advance p).stopped = t.stopped := rfl
@[simp] theorem Thread.advance_breakPassed (t : Thread) (p : PC) : (t.advance p).breakPassed = t.breakPassed := rfl
@[simp] theorem Thread.advance_demoted (t : Thread) (p : PC) : (t.advance p).demoted = t.demoted := rfl
@[simp] theorem Thread.advance_yielded (t : Thread) (p : PC) : (t.advance p).yielded = t.yielded := rfl
@[simp] theorem Thread.advance_depth (t : Thread) (p : PC) : (t.advance p).depth = t.depth := rfl
@[simp] theorem Thread.advance_xstack (t : Thread) (p : PC) : (t.advance p).xstack = t.xstack := rfl
@[simp] theorem Thread.advance_wait (t : Thread) (p : PC) : (t.advance p).wait = .none := rfl
@[simp] theorem Thread.advance_next (t : Thread) (p : PC) : (t.advance p).next = t.next := rfl
@[simp] theorem Thread.advance_nap (t : Thread) (p : PC) : (t.advance p).nap = t.nap := rfl
@[simp] theorem Thread.advance_spin (t : Thread) (p : PC) : (t.advance p).spin = t.spin := rfl
@[simp] theorem Thread.advance_v (t : Thread) (p : PC) : (t.advance p).v = t.v := rfl
@[simp] theorem Thread.advance_o (t : Thread) (p : PC) : (t.advance p).o = t.o := rfl
@[simp] theorem Thread.advance_lq (t : Thread) (p : PC) : (t.advance p).lq = t.lq := rfl
@[simp] theorem Thread.advance_pend (t : Thread) (p : PC) : (t.advance p).pend = t.pend := rfl
@[simp] theorem Thread.advance_p (t : Thread) (p : PC) : (t.advance p).p = t.p := rfl
@[simp] theorem Thread.advance_fflags (t : Thread) (p : PC) : (t.advance p).fflags = t.fflags := rfl
@[simp] theorem Thread.advance_batch (t : Thread) (p : PC) : (t.advance p).batch = t.batch := rfl
@[simp] theorem Thread.advance_bdone (t : Thread) (p : PC) : (t.advance p).bdone = t.bdone := rfl
@[simp] theorem Thread.advance_openOps (t : Thread) (p : PC) : (t.advance p).openOps = t.openOps := rfl
@[simp] theorem Thread.advance_sealed (t : Thread) (p : PC) : (t.advance p).sealed = t.sealed := rfl
@[simp] theorem Thread.advance_ix (t : Thread) (p : PC) : (t.advance p).ix = t.ix := rfl
@[simp] theorem Thread.advance_iy (t : Thread) (p : PC) : (t.advance p).iy = t.iy := rfl
@[simp] theorem Thread.advance_iz (t : Thread) (p : PC) : (t.advance p).iz = t.iz := rfl
@[simp] theorem Thread.advance_canon (t : Thread) (p : PC) : (t.advance p).canon = t.canon := rfl
@[simp] theorem Thread.advance_record (t : Thread) (p : PC) : (t.advance p).record = t.record := rfl
@[simp] theorem Thread.advance_pcChanged (t : Thread) (p : PC) : (t.advance p).pcChanged = false := rfl
@[simp] theorem Thread.advance_vUnder (t : Thread) (p : PC) : (t.advance p).vUnder = t.vUnder := rfl
@[simp] theorem Thread.advance_woken (t : Thread) (p : PC) : (t.advance p).woken = t.woken := rfl
@[simp] theorem Thread.advance_fences (t : Thread) (p : PC) : (t.advance p).fences = t.fences := rfl
@[simp] theorem Thread.hold_pc (t : Thread) (w : Wait) (p : PC) : (t.hold w p).pc = t.pc := rfl
@[simp] theorem Thread.hold_live (t : Thread) (w : Wait) (p : PC) : (t.hold w p).live = t.live := rfl
@[simp] theorem Thread.hold_stopped (t : Thread) (w : Wait) (p : PC) : (t.hold w p).stopped = t.stopped := rfl
@[simp] theorem Thread.hold_breakPassed (t : Thread) (w : Wait) (p : PC) : (t.hold w p).breakPassed = t.breakPassed := rfl
@[simp] theorem Thread.hold_demoted (t : Thread) (w : Wait) (p : PC) : (t.hold w p).demoted = t.demoted := rfl
@[simp] theorem Thread.hold_yielded (t : Thread) (w : Wait) (p : PC) : (t.hold w p).yielded = t.yielded := rfl
@[simp] theorem Thread.hold_depth (t : Thread) (w : Wait) (p : PC) : (t.hold w p).depth = t.depth := rfl
@[simp] theorem Thread.hold_xstack (t : Thread) (w : Wait) (p : PC) : (t.hold w p).xstack = t.xstack := rfl
@[simp] theorem Thread.hold_wait (t : Thread) (w : Wait) (p : PC) : (t.hold w p).wait = w := rfl
@[simp] theorem Thread.hold_next (t : Thread) (w : Wait) (p : PC) : (t.hold w p).next = p := rfl
@[simp] theorem Thread.hold_nap (t : Thread) (w : Wait) (p : PC) : (t.hold w p).nap = t.nap := rfl
@[simp] theorem Thread.hold_spin (t : Thread) (w : Wait) (p : PC) : (t.hold w p).spin = t.spin := rfl
@[simp] theorem Thread.hold_v (t : Thread) (w : Wait) (p : PC) : (t.hold w p).v = t.v := rfl
@[simp] theorem Thread.hold_o (t : Thread) (w : Wait) (p : PC) : (t.hold w p).o = t.o := rfl
@[simp] theorem Thread.hold_lq (t : Thread) (w : Wait) (p : PC) : (t.hold w p).lq = t.lq := rfl
@[simp] theorem Thread.hold_pend (t : Thread) (w : Wait) (p : PC) : (t.hold w p).pend = t.pend := rfl
@[simp] theorem Thread.hold_p (t : Thread) (w : Wait) (p : PC) : (t.hold w p).p = t.p := rfl
@[simp] theorem Thread.hold_fflags (t : Thread) (w : Wait) (p : PC) : (t.hold w p).fflags = t.fflags := rfl
@[simp] theorem Thread.hold_batch (t : Thread) (w : Wait) (p : PC) : (t.hold w p).batch = t.batch := rfl
@[simp] theorem Thread.hold_bdone (t : Thread) (w : Wait) (p : PC) : (t.hold w p).bdone = t.bdone := rfl
@[simp] theorem Thread.hold_openOps (t : Thread) (w : Wait) (p : PC) : (t.hold w p).openOps = t.openOps := rfl
@[simp] theorem Thread.hold_sealed (t : Thread) (w : Wait) (p : PC) : (t.hold w p).sealed = t.sealed := rfl
@[simp] theorem Thread.hold_ix (t : Thread) (w : Wait) (p : PC) : (t.hold w p).ix = t.ix := rfl
@[simp] theorem Thread.hold_iy (t : Thread) (w : Wait) (p : PC) : (t.hold w p).iy = t.iy := rfl
@[simp] theorem Thread.hold_iz (t : Thread) (w : Wait) (p : PC) : (t.hold w p).iz = t.iz := rfl
@[simp] theorem Thread.hold_canon (t : Thread) (w : Wait) (p : PC) : (t.hold w p).canon = t.canon := rfl
@[simp] theorem Thread.hold_record (t : Thread) (w : Wait) (p : PC) : (t.hold w p).record = t.record := rfl
@[simp] theorem Thread.hold_pcChanged (t : Thread) (w : Wait) (p : PC) : (t.hold w p).pcChanged = t.pcChanged := rfl
@[simp] theorem Thread.hold_vUnder (t : Thread) (w : Wait) (p : PC) : (t.hold w p).vUnder = t.vUnder := rfl
@[simp] theorem Thread.hold_woken (t : Thread) (w : Wait) (p : PC) : (t.hold w p).woken = t.woken := rfl
@[simp] theorem Thread.hold_fences (t : Thread) (w : Wait) (p : PC) : (t.hold w p).fences = t.fences := rfl
@[simp] theorem Thread.release_pc (t : Thread) : (t.release).pc = t.next := rfl
@[simp] theorem Thread.release_live (t : Thread) : (t.release).live = t.live := rfl
@[simp] theorem Thread.release_stopped (t : Thread) : (t.release).stopped = t.stopped := rfl
@[simp] theorem Thread.release_breakPassed (t : Thread) : (t.release).breakPassed = t.breakPassed := rfl
@[simp] theorem Thread.release_demoted (t : Thread) : (t.release).demoted = t.demoted := rfl
@[simp] theorem Thread.release_yielded (t : Thread) : (t.release).yielded = t.yielded := rfl
@[simp] theorem Thread.release_depth (t : Thread) : (t.release).depth = t.depth := rfl
@[simp] theorem Thread.release_xstack (t : Thread) : (t.release).xstack = t.xstack := rfl
@[simp] theorem Thread.release_wait (t : Thread) : (t.release).wait = .none := rfl
@[simp] theorem Thread.release_next (t : Thread) : (t.release).next = t.next := rfl
@[simp] theorem Thread.release_nap (t : Thread) : (t.release).nap = t.nap := rfl
@[simp] theorem Thread.release_spin (t : Thread) : (t.release).spin = t.spin := rfl
@[simp] theorem Thread.release_v (t : Thread) : (t.release).v = t.v := rfl
@[simp] theorem Thread.release_o (t : Thread) : (t.release).o = t.o := rfl
@[simp] theorem Thread.release_lq (t : Thread) : (t.release).lq = t.lq := rfl
@[simp] theorem Thread.release_pend (t : Thread) : (t.release).pend = t.pend := rfl
@[simp] theorem Thread.release_p (t : Thread) : (t.release).p = t.p := rfl
@[simp] theorem Thread.release_fflags (t : Thread) : (t.release).fflags = t.fflags := rfl
@[simp] theorem Thread.release_batch (t : Thread) : (t.release).batch = t.batch := rfl
@[simp] theorem Thread.release_bdone (t : Thread) : (t.release).bdone = t.bdone := rfl
@[simp] theorem Thread.release_openOps (t : Thread) : (t.release).openOps = t.openOps := rfl
@[simp] theorem Thread.release_sealed (t : Thread) : (t.release).sealed = t.sealed := rfl
@[simp] theorem Thread.release_ix (t : Thread) : (t.release).ix = t.ix := rfl
@[simp] theorem Thread.release_iy (t : Thread) : (t.release).iy = t.iy := rfl
@[simp] theorem Thread.release_iz (t : Thread) : (t.release).iz = t.iz := rfl
@[simp] theorem Thread.release_canon (t : Thread) : (t.release).canon = t.canon := rfl
@[simp] theorem Thread.release_record (t : Thread) : (t.release).record = t.record := rfl
@[simp] theorem Thread.release_pcChanged (t : Thread) : (t.release).pcChanged = false := rfl
@[simp] theorem Thread.release_vUnder (t : Thread) : (t.release).vUnder = t.vUnder := rfl
@[simp] theorem Thread.release_woken (t : Thread) : (t.release).woken = t.woken := rfl
@[simp] theorem Thread.release_fences (t : Thread) : (t.release).fences = t.fences := rfl
@[simp] theorem Thread.retry_pc (t : Thread) : (t.retry).pc = t.pc := rfl
@[simp] theorem Thread.retry_live (t : Thread) : (t.retry).live = t.live := rfl
@[simp] theorem Thread.retry_stopped (t : Thread) : (t.retry).stopped = t.stopped := rfl
@[simp] theorem Thread.retry_breakPassed (t : Thread) : (t.retry).breakPassed = t.breakPassed := rfl
@[simp] theorem Thread.retry_demoted (t : Thread) : (t.retry).demoted = t.demoted := rfl
@[simp] theorem Thread.retry_yielded (t : Thread) : (t.retry).yielded = t.yielded := rfl
@[simp] theorem Thread.retry_depth (t : Thread) : (t.retry).depth = t.depth := rfl
@[simp] theorem Thread.retry_xstack (t : Thread) : (t.retry).xstack = t.xstack := rfl
@[simp] theorem Thread.retry_wait (t : Thread) : (t.retry).wait = .none := rfl
@[simp] theorem Thread.retry_next (t : Thread) : (t.retry).next = t.next := rfl
@[simp] theorem Thread.retry_nap (t : Thread) : (t.retry).nap = t.nap := rfl
@[simp] theorem Thread.retry_spin (t : Thread) : (t.retry).spin = t.spin := rfl
@[simp] theorem Thread.retry_v (t : Thread) : (t.retry).v = t.v := rfl
@[simp] theorem Thread.retry_o (t : Thread) : (t.retry).o = t.o := rfl
@[simp] theorem Thread.retry_lq (t : Thread) : (t.retry).lq = t.lq := rfl
@[simp] theorem Thread.retry_pend (t : Thread) : (t.retry).pend = t.pend := rfl
@[simp] theorem Thread.retry_p (t : Thread) : (t.retry).p = t.p := rfl
@[simp] theorem Thread.retry_fflags (t : Thread) : (t.retry).fflags = t.fflags := rfl
@[simp] theorem Thread.retry_batch (t : Thread) : (t.retry).batch = t.batch := rfl
@[simp] theorem Thread.retry_bdone (t : Thread) : (t.retry).bdone = t.bdone := rfl
@[simp] theorem Thread.retry_openOps (t : Thread) : (t.retry).openOps = t.openOps := rfl
@[simp] theorem Thread.retry_sealed (t : Thread) : (t.retry).sealed = t.sealed := rfl
@[simp] theorem Thread.retry_ix (t : Thread) : (t.retry).ix = t.ix := rfl
@[simp] theorem Thread.retry_iy (t : Thread) : (t.retry).iy = t.iy := rfl
@[simp] theorem Thread.retry_iz (t : Thread) : (t.retry).iz = t.iz := rfl
@[simp] theorem Thread.retry_canon (t : Thread) : (t.retry).canon = t.canon := rfl
@[simp] theorem Thread.retry_record (t : Thread) : (t.retry).record = t.record := rfl
@[simp] theorem Thread.retry_pcChanged (t : Thread) : (t.retry).pcChanged = t.pcChanged := rfl
@[simp] theorem Thread.retry_vUnder (t : Thread) : (t.retry).vUnder = t.vUnder := rfl
@[simp] theorem Thread.retry_woken (t : Thread) : (t.retry).woken = t.woken := rfl
@[simp] theorem Thread.retry_fences (t : Thread) : (t.retry).fences = t.fences := rfl

/-! ### Reads of other parts -/

@[simp] theorem core_of_modGroup (s : State) (i : Nat) (f : Group → Group) (k : Nat) : (s.modGroup i f).core k = s.core k := rfl
@[simp] theorem part_of_modGroup (s : State) (i : Nat) (f : Group → Group) (k : Nat) : (s.modGroup i f).part k = s.part k := rfl
@[simp] theorem die_of_modGroup (s : State) (i : Nat) (f : Group → Group) (k : Nat) : (s.modGroup i f).die k = s.die k := rfl
@[simp] theorem port_of_modGroup (s : State) (i : Nat) (f : Group → Group) (k : Nat) : (s.modGroup i f).port k = s.port k := rfl
@[simp] theorem ctx_of_modGroup (s : State) (i : Nat) (f : Group → Group) (k : Nat) : (s.modGroup i f).ctx? k = s.ctx? k := rfl
@[simp] theorem launch_of_modGroup (s : State) (i : Nat) (f : Group → Group) (k : Nat) : (s.modGroup i f).launch? k = s.launch? k := rfl
@[simp] theorem core_of_modBand (s : State) (i j : Nat) (f : Band → Band) (k : Nat) : (s.modBand i j f).core k = s.core k := rfl
@[simp] theorem part_of_modBand (s : State) (i j : Nat) (f : Band → Band) (k : Nat) : (s.modBand i j f).part k = s.part k := rfl
@[simp] theorem die_of_modBand (s : State) (i j : Nat) (f : Band → Band) (k : Nat) : (s.modBand i j f).die k = s.die k := rfl
@[simp] theorem port_of_modBand (s : State) (i j : Nat) (f : Band → Band) (k : Nat) : (s.modBand i j f).port k = s.port k := rfl
@[simp] theorem ctx_of_modBand (s : State) (i j : Nat) (f : Band → Band) (k : Nat) : (s.modBand i j f).ctx? k = s.ctx? k := rfl
@[simp] theorem launch_of_modBand (s : State) (i j : Nat) (f : Band → Band) (k : Nat) : (s.modBand i j f).launch? k = s.launch? k := rfl
@[simp] theorem core_of_modThread (s : State) (i j l : Nat) (f : Thread → Thread) (k : Nat) : (s.modThread i j l f).core k = s.core k := rfl
@[simp] theorem part_of_modThread (s : State) (i j l : Nat) (f : Thread → Thread) (k : Nat) : (s.modThread i j l f).part k = s.part k := rfl
@[simp] theorem die_of_modThread (s : State) (i j l : Nat) (f : Thread → Thread) (k : Nat) : (s.modThread i j l f).die k = s.die k := rfl
@[simp] theorem port_of_modThread (s : State) (i j l : Nat) (f : Thread → Thread) (k : Nat) : (s.modThread i j l f).port k = s.port k := rfl
@[simp] theorem ctx_of_modThread (s : State) (i j l : Nat) (f : Thread → Thread) (k : Nat) : (s.modThread i j l f).ctx? k = s.ctx? k := rfl
@[simp] theorem launch_of_modThread (s : State) (i j l : Nat) (f : Thread → Thread) (k : Nat) : (s.modThread i j l f).launch? k = s.launch? k := rfl
@[simp] theorem group_of_modCore (s : State) (i : Nat) (f : Core → Core) (k : Nat) : (s.modCore i f).group? k = s.group? k := rfl
@[simp] theorem band_of_modCore (s : State) (i : Nat) (f : Core → Core) (k q : Nat) : (s.modCore i f).band? k q = s.band? k q := rfl
@[simp] theorem thread_of_modCore (s : State) (i : Nat) (f : Core → Core) (k q r : Nat) : (s.modCore i f).thread? k q r = s.thread? k q r := rfl
@[simp] theorem part_of_modCore (s : State) (i : Nat) (f : Core → Core) (k : Nat) : (s.modCore i f).part k = s.part k := rfl
@[simp] theorem die_of_modCore (s : State) (i : Nat) (f : Core → Core) (k : Nat) : (s.modCore i f).die k = s.die k := rfl
@[simp] theorem port_of_modCore (s : State) (i : Nat) (f : Core → Core) (k : Nat) : (s.modCore i f).port k = s.port k := rfl
@[simp] theorem ctx_of_modCore (s : State) (i : Nat) (f : Core → Core) (k : Nat) : (s.modCore i f).ctx? k = s.ctx? k := rfl
@[simp] theorem launch_of_modCore (s : State) (i : Nat) (f : Core → Core) (k : Nat) : (s.modCore i f).launch? k = s.launch? k := rfl
@[simp] theorem group_of_modPart (s : State) (i : Nat) (f : Partition → Partition) (k : Nat) : (s.modPart i f).group? k = s.group? k := rfl
@[simp] theorem band_of_modPart (s : State) (i : Nat) (f : Partition → Partition) (k q : Nat) : (s.modPart i f).band? k q = s.band? k q := rfl
@[simp] theorem thread_of_modPart (s : State) (i : Nat) (f : Partition → Partition) (k q r : Nat) : (s.modPart i f).thread? k q r = s.thread? k q r := rfl
@[simp] theorem core_of_modPart (s : State) (i : Nat) (f : Partition → Partition) (k : Nat) : (s.modPart i f).core k = s.core k := rfl
@[simp] theorem die_of_modPart (s : State) (i : Nat) (f : Partition → Partition) (k : Nat) : (s.modPart i f).die k = s.die k := rfl
@[simp] theorem port_of_modPart (s : State) (i : Nat) (f : Partition → Partition) (k : Nat) : (s.modPart i f).port k = s.port k := rfl
@[simp] theorem ctx_of_modPart (s : State) (i : Nat) (f : Partition → Partition) (k : Nat) : (s.modPart i f).ctx? k = s.ctx? k := rfl
@[simp] theorem launch_of_modPart (s : State) (i : Nat) (f : Partition → Partition) (k : Nat) : (s.modPart i f).launch? k = s.launch? k := rfl
@[simp] theorem group_of_modDie (s : State) (i : Nat) (f : Die → Die) (k : Nat) : (s.modDie i f).group? k = s.group? k := rfl
@[simp] theorem band_of_modDie (s : State) (i : Nat) (f : Die → Die) (k q : Nat) : (s.modDie i f).band? k q = s.band? k q := rfl
@[simp] theorem thread_of_modDie (s : State) (i : Nat) (f : Die → Die) (k q r : Nat) : (s.modDie i f).thread? k q r = s.thread? k q r := rfl
@[simp] theorem core_of_modDie (s : State) (i : Nat) (f : Die → Die) (k : Nat) : (s.modDie i f).core k = s.core k := rfl
@[simp] theorem part_of_modDie (s : State) (i : Nat) (f : Die → Die) (k : Nat) : (s.modDie i f).part k = s.part k := rfl
@[simp] theorem port_of_modDie (s : State) (i : Nat) (f : Die → Die) (k : Nat) : (s.modDie i f).port k = s.port k := rfl
@[simp] theorem ctx_of_modDie (s : State) (i : Nat) (f : Die → Die) (k : Nat) : (s.modDie i f).ctx? k = s.ctx? k := rfl
@[simp] theorem launch_of_modDie (s : State) (i : Nat) (f : Die → Die) (k : Nat) : (s.modDie i f).launch? k = s.launch? k := rfl
@[simp] theorem group_of_modPort (s : State) (i : Nat) (f : Port → Port) (k : Nat) : (s.modPort i f).group? k = s.group? k := rfl
@[simp] theorem band_of_modPort (s : State) (i : Nat) (f : Port → Port) (k q : Nat) : (s.modPort i f).band? k q = s.band? k q := rfl
@[simp] theorem thread_of_modPort (s : State) (i : Nat) (f : Port → Port) (k q r : Nat) : (s.modPort i f).thread? k q r = s.thread? k q r := rfl
@[simp] theorem core_of_modPort (s : State) (i : Nat) (f : Port → Port) (k : Nat) : (s.modPort i f).core k = s.core k := rfl
@[simp] theorem part_of_modPort (s : State) (i : Nat) (f : Port → Port) (k : Nat) : (s.modPort i f).part k = s.part k := rfl
@[simp] theorem die_of_modPort (s : State) (i : Nat) (f : Port → Port) (k : Nat) : (s.modPort i f).die k = s.die k := rfl
@[simp] theorem ctx_of_modPort (s : State) (i : Nat) (f : Port → Port) (k : Nat) : (s.modPort i f).ctx? k = s.ctx? k := rfl
@[simp] theorem launch_of_modPort (s : State) (i : Nat) (f : Port → Port) (k : Nat) : (s.modPort i f).launch? k = s.launch? k := rfl
@[simp] theorem group_of_modCtx (s : State) (i : Nat) (f : Context → Context) (k : Nat) : (s.modCtx i f).group? k = s.group? k := rfl
@[simp] theorem band_of_modCtx (s : State) (i : Nat) (f : Context → Context) (k q : Nat) : (s.modCtx i f).band? k q = s.band? k q := rfl
@[simp] theorem thread_of_modCtx (s : State) (i : Nat) (f : Context → Context) (k q r : Nat) : (s.modCtx i f).thread? k q r = s.thread? k q r := rfl
@[simp] theorem core_of_modCtx (s : State) (i : Nat) (f : Context → Context) (k : Nat) : (s.modCtx i f).core k = s.core k := rfl
@[simp] theorem part_of_modCtx (s : State) (i : Nat) (f : Context → Context) (k : Nat) : (s.modCtx i f).part k = s.part k := rfl
@[simp] theorem die_of_modCtx (s : State) (i : Nat) (f : Context → Context) (k : Nat) : (s.modCtx i f).die k = s.die k := rfl
@[simp] theorem port_of_modCtx (s : State) (i : Nat) (f : Context → Context) (k : Nat) : (s.modCtx i f).port k = s.port k := rfl
@[simp] theorem launch_of_modCtx (s : State) (i : Nat) (f : Context → Context) (k : Nat) : (s.modCtx i f).launch? k = s.launch? k := rfl
@[simp] theorem group_of_modLaunch (s : State) (i : Nat) (f : Launch → Launch) (k : Nat) : (s.modLaunch i f).group? k = s.group? k := rfl
@[simp] theorem band_of_modLaunch (s : State) (i : Nat) (f : Launch → Launch) (k q : Nat) : (s.modLaunch i f).band? k q = s.band? k q := rfl
@[simp] theorem thread_of_modLaunch (s : State) (i : Nat) (f : Launch → Launch) (k q r : Nat) : (s.modLaunch i f).thread? k q r = s.thread? k q r := rfl
@[simp] theorem core_of_modLaunch (s : State) (i : Nat) (f : Launch → Launch) (k : Nat) : (s.modLaunch i f).core k = s.core k := rfl
@[simp] theorem part_of_modLaunch (s : State) (i : Nat) (f : Launch → Launch) (k : Nat) : (s.modLaunch i f).part k = s.part k := rfl
@[simp] theorem die_of_modLaunch (s : State) (i : Nat) (f : Launch → Launch) (k : Nat) : (s.modLaunch i f).die k = s.die k := rfl
@[simp] theorem port_of_modLaunch (s : State) (i : Nat) (f : Launch → Launch) (k : Nat) : (s.modLaunch i f).port k = s.port k := rfl
@[simp] theorem ctx_of_modLaunch (s : State) (i : Nat) (f : Launch → Launch) (k : Nat) : (s.modLaunch i f).ctx? k = s.ctx? k := rfl

end Sys2Proof.Machine
end

