-- ==== Sys2Proof/Laws/Memory.lean ====
section
/-! SUPPORT. Memory: what a byte reads as after a write, and that every way memory changes keeps its canonical form (log entry 6). -/

namespace Sys2Proof.Machine

/-- A longer bound is a stronger form. -/
theorem Memory.wfFrom_mono {m : List Host.Cell} {a b : Nat} (hab : a ≤ b) (h : Memory.wfFrom b m = true) : Memory.wfFrom a m = true := by
  cases m with
  | nil => rfl
  | cons p t =>
    obtain ⟨k, x⟩ := p
    simp only [Memory.wfFrom, Bool.and_eq_true, decide_eq_true_eq] at h ⊢
    exact ⟨⟨by omega, h.1.2⟩, h.2⟩

/-- A byte below the bound is not listed. -/
theorem memGet_below {m : List Host.Cell} {n k : Nat} (h : Memory.wfFrom n m = true) (hk : k < n) : memGet m k = 0 := by
  induction m generalizing n with
  | nil => rfl
  | cons p t ih =>
    obtain ⟨j, x⟩ := p
    simp only [Memory.wfFrom, Bool.and_eq_true, decide_eq_true_eq] at h
    have hj : j ≠ k := by omega
    simp only [memGet, beq_iff_eq, hj, if_false]
    exact ih h.2 (by omega)

theorem Memory.wfFrom_memSet {m : List Host.Cell} {n k : Nat} (b : Byte) (hk : n ≤ k) (h : Memory.wfFrom n m = true) :
    Memory.wfFrom n (memSet m k b) = true := by
  induction m generalizing n with
  | nil =>
    by_cases hb : b = 0#8
    · simp [memSet, hb, Memory.wfFrom]
    · simp [memSet, hb, Memory.wfFrom, hk]
  | cons p t ih =>
    obtain ⟨j, x⟩ := p
    have h' := h
    simp only [Memory.wfFrom, Bool.and_eq_true, decide_eq_true_eq] at h
    simp only [memSet]
    by_cases h1 : k < j
    · by_cases hb : b = 0#8
      · simpa [h1, hb] using h'
      · simpa [h1, hb, Memory.wfFrom, hk, Nat.succ_le_of_lt h1, h.2] using h.1.2
    · by_cases h2 : k = j
      · by_cases hb : b = 0#8
        · simpa [h2, hb] using Memory.wfFrom_mono (by omega) h.2
        · subst h2; simpa [hb, Memory.wfFrom, h.2] using h.1.1
      · simp only [h1, if_false, beq_iff_eq, h2, Memory.wfFrom, Bool.and_eq_true, decide_eq_true_eq]
        exact ⟨⟨h.1.1, h.1.2⟩, ih (by omega) h.2⟩

/-- Writing a byte keeps the canonical form. -/
theorem Memory.wf_memSet {m : List Host.Cell} (k : Key) (b : Byte) (h : Memory.wf m = true) : Memory.wf (memSet m k b) = true :=
  Memory.wfFrom_memSet b (Nat.zero_le _) h

/-- Writing bytes keeps the canonical form. -/
theorem Memory.wf_memPut {m : List Host.Cell} (bs : List (Key × Byte)) (h : Memory.wf m = true) : Memory.wf (memPut m bs) = true := by
  induction bs generalizing m with
  | nil => exact h
  | cons p t ih => exact ih (Memory.wf_memSet _ _ h)

theorem Memory.wfFrom_filter {m : List Host.Cell} {n : Nat} (f : Host.Cell → Bool) (h : Memory.wfFrom n m = true) :
    Memory.wfFrom n (m.filter f) = true := by
  induction m generalizing n with
  | nil => rfl
  | cons p t ih =>
    obtain ⟨k, x⟩ := p
    simp only [Memory.wfFrom, Bool.and_eq_true, decide_eq_true_eq] at h
    by_cases hf : f (k, x)
    · simp only [List.filter_cons, hf, if_true, Memory.wfFrom, Bool.and_eq_true, decide_eq_true_eq]
      exact ⟨h.1, ih h.2⟩
    · simpa [List.filter_cons, hf] using Memory.wfFrom_mono (by omega) (ih h.2)

/-- Forgetting bytes keeps the canonical form. -/
theorem Memory.wf_filter {m : List Host.Cell} (f : Host.Cell → Bool) (h : Memory.wf m = true) : Memory.wf (m.filter f) = true :=
  Memory.wfFrom_filter f h

/-- The memory after reset is canonical. -/
theorem Memory.wf_reset : Memory.wf State.reset.mem = true := rfl

theorem memGet_memSet_from {m : List Host.Cell} {n : Nat} (k j : Key) (b : Byte) (h : Memory.wfFrom n m = true) :
    memGet (memSet m k b) j = if k = j then b else memGet m j := by
  induction m generalizing n with
  | nil =>
    by_cases hb : b = 0#8
    · by_cases hj : k = j <;> simp [memSet, hb, memGet, hj]
    · by_cases hj : k = j <;> simp [memSet, hb, memGet, hj]
  | cons p t ih =>
    obtain ⟨i, x⟩ := p
    have h' := h
    simp only [Memory.wfFrom, Bool.and_eq_true, decide_eq_true_eq] at h
    simp only [memSet]
    by_cases h1 : k < i
    · have hki : i ≠ k := fun e => absurd (e ▸ h1) (Nat.lt_irrefl _)
      by_cases hj : k = j
      · subst hj
        by_cases hb : b = 0#8
        · simpa [h1, hb, memGet, hki] using memGet_below h.2 (Nat.lt_succ_of_lt h1)
        · simp [h1, hb, memGet]
      · by_cases hb : b = 0#8 <;> simp [h1, hb, memGet, hj]
    · by_cases h2 : k = i
      · subst h2
        by_cases hj : k = j
        · subst hj
          by_cases hb : b = 0#8
          · simpa [hb] using memGet_below h.2 (Nat.lt_succ_self _)
          · simp [hb, memGet]
        · by_cases hb : b = 0#8 <;> simp [hb, memGet, hj]
      · have h3 : (k == i) = false := by simpa using h2
        simp only [h1, if_false, h3, Bool.false_eq_true, memGet, beq_iff_eq, ih h.2]
        by_cases hij : i = j
        · subst hij; simp [h2]
        · simp [hij]

/-- A byte after a write to memory: the byte written at its key, and any other as before. -/
theorem memGet_memSet {m : List Host.Cell} (h : Memory.wf m = true) (k j : Key) (b : Byte) :
    memGet (memSet m k b) j = if k = j then b else memGet m j := memGet_memSet_from k j b h

end Sys2Proof.Machine
end

