-- ==== Sys2Proof/Laws/PerInstr.lean ====
section
/-! SUPPORT. The family F: what the encodings say of one instruction. The word of a well-formed program instruction decodes to it; an event
has no word. -/

namespace Sys2Proof.Laws

set_option Elab.async false

/-- The encoder and the decoder agree on an instruction. -/
def F.Statement (i : Instr) : Prop := i.isProgram = true → i.wf = true → decodeWord (encodeWord i) = .ok i

theorem F.nop (h : Hdr) : F.Statement (.nop h) := fun _ hw => by
  simp [decodeWord, encodeWord, Raw.ofWord_toWord, encodeRaw, decodeRaw, decodeMove, Xm.ofBits_bits, check, finish, hw]
theorem F.mov (h : Hdr) (ty : Ty) (d : Opd) (b : Opd) : F.Statement (.mov h ty d b) := fun _ hw => by
  simp [decodeWord, encodeWord, Raw.ofWord_toWord, encodeRaw, decodeRaw, decodeMove, Xm.ofBits_bits, check, finish, hw]
theorem F.movLong (h : Hdr) (d : Opd) (imm : Word) : F.Statement (.movLong h d imm) := fun _ hw => by
  simp [decodeWord, encodeWord, Raw.ofWord_toWord, encodeRaw, decodeRaw, decodeMove, check, finish, hw]
theorem F.sel (h : Hdr) (ty : Ty) (d : Opd) (a : Opd) (b : Opd) (c : Opd) : F.Statement (.sel h ty d a b c) := fun _ hw => by
  simp [decodeWord, encodeWord, Raw.ofWord_toWord, encodeRaw, decodeRaw, decodeMove, Xc.ofBits_bits, check, finish, hw]
theorem F.plog (h : Hdr) (op : Opl) (d : Opd) (a : Opd) (b : Opd) : F.Statement (.plog h op d a b) := fun _ hw => by
  simp [decodeWord, encodeWord, Raw.ofWord_toWord, encodeRaw, decodeRaw, decodeMove, Xm.ofBits_bits, check, finish, hw]
theorem F.iadd (h : Hdr) (ty : Ty) (sat : Bool) (d : Opd) (a : Opd) (b : Opd) : F.Statement (.iadd h ty sat d a b) := fun _ hw => by
  simp [decodeWord, encodeWord, Raw.ofWord_toWord, encodeRaw, decodeRaw, decodeMove, Xm.ofBits_bits, check, finish, hw]
theorem F.iaddLong (h : Hdr) (d : Opd) (a : Opd) (imm : Word) : F.Statement (.iaddLong h d a imm) := fun _ hw => by
  simp [decodeWord, encodeWord, Raw.ofWord_toWord, encodeRaw, decodeRaw, decodeMove, check, finish, hw]
theorem F.isub (h : Hdr) (ty : Ty) (sat : Bool) (d : Opd) (a : Opd) (b : Opd) : F.Statement (.isub h ty sat d a b) := fun _ hw => by
  simp [decodeWord, encodeWord, Raw.ofWord_toWord, encodeRaw, decodeRaw, decodeMove, Xm.ofBits_bits, check, finish, hw]
theorem F.isubLong (h : Hdr) (d : Opd) (a : Opd) (imm : Word) : F.Statement (.isubLong h d a imm) := fun _ hw => by
  simp [decodeWord, encodeWord, Raw.ofWord_toWord, encodeRaw, decodeRaw, decodeMove, check, finish, hw]
theorem F.imul (h : Hdr) (ty : Ty) (sat : Bool) (d : Opd) (a : Opd) (b : Opd) : F.Statement (.imul h ty sat d a b) := fun _ hw => by
  simp [decodeWord, encodeWord, Raw.ofWord_toWord, encodeRaw, decodeRaw, decodeMove, Xm.ofBits_bits, check, finish, hw]
theorem F.imulLong (h : Hdr) (d : Opd) (a : Opd) (imm : Word) : F.Statement (.imulLong h d a imm) := fun _ hw => by
  simp [decodeWord, encodeWord, Raw.ofWord_toWord, encodeRaw, decodeRaw, decodeMove, check, finish, hw]
theorem F.imulh (h : Hdr) (ty : Ty) (d : Opd) (a : Opd) (b : Opd) : F.Statement (.imulh h ty d a b) := fun _ hw => by
  simp [decodeWord, encodeWord, Raw.ofWord_toWord, encodeRaw, decodeRaw, decodeMove, Xm.ofBits_bits, check, finish, hw]
theorem F.imad (h : Hdr) (ty : Ty) (sat : Bool) (d : Opd) (a : Opd) (b : Opd) (c : Opd) : F.Statement (.imad h ty sat d a b c) := fun _ hw => by
  simp [decodeWord, encodeWord, Raw.ofWord_toWord, encodeRaw, decodeRaw, decodeMove, Xc.ofBits_bits, check, finish, hw]
theorem F.idiv (h : Hdr) (ty : Ty) (sat : Bool) (d : Opd) (a : Opd) (b : Opd) : F.Statement (.idiv h ty sat d a b) := fun _ hw => by
  simp [decodeWord, encodeWord, Raw.ofWord_toWord, encodeRaw, decodeRaw, decodeMove, Xm.ofBits_bits, check, finish, hw]
theorem F.irem (h : Hdr) (ty : Ty) (d : Opd) (a : Opd) (b : Opd) : F.Statement (.irem h ty d a b) := fun _ hw => by
  simp [decodeWord, encodeWord, Raw.ofWord_toWord, encodeRaw, decodeRaw, decodeMove, Xm.ofBits_bits, check, finish, hw]
theorem F.imin (h : Hdr) (ty : Ty) (d : Opd) (a : Opd) (b : Opd) : F.Statement (.imin h ty d a b) := fun _ hw => by
  simp [decodeWord, encodeWord, Raw.ofWord_toWord, encodeRaw, decodeRaw, decodeMove, Xm.ofBits_bits, check, finish, hw]
theorem F.imax (h : Hdr) (ty : Ty) (d : Opd) (a : Opd) (b : Opd) : F.Statement (.imax h ty d a b) := fun _ hw => by
  simp [decodeWord, encodeWord, Raw.ofWord_toWord, encodeRaw, decodeRaw, decodeMove, Xm.ofBits_bits, check, finish, hw]
theorem F.iabs (h : Hdr) (ty : Ty) (sat : Bool) (d : Opd) (a : Opd) : F.Statement (.iabs h ty sat d a) := fun _ hw => by
  simp [decodeWord, encodeWord, Raw.ofWord_toWord, encodeRaw, decodeRaw, decodeMove, Xm.ofBits_bits, check, finish, hw]
theorem F.ineg (h : Hdr) (ty : Ty) (sat : Bool) (d : Opd) (a : Opd) : F.Statement (.ineg h ty sat d a) := fun _ hw => by
  simp [decodeWord, encodeWord, Raw.ofWord_toWord, encodeRaw, decodeRaw, decodeMove, Xm.ofBits_bits, check, finish, hw]
theorem F.icmp (h : Hdr) (ty : Ty) (cc : Cc) (d : Opd) (a : Opd) (b : Opd) : F.Statement (.icmp h ty cc d a b) := fun _ hw => by
  simp [decodeWord, encodeWord, Raw.ofWord_toWord, encodeRaw, decodeRaw, decodeMove, Xm.ofBits_bits, check, finish, hw]
theorem F.and (h : Hdr) (ty : Ty) (d : Opd) (a : Opd) (b : Opd) : F.Statement (.and h ty d a b) := fun _ hw => by
  simp [decodeWord, encodeWord, Raw.ofWord_toWord, encodeRaw, decodeRaw, decodeLogic, Xm.ofBits_bits, check, finish, hw]
theorem F.andLong (h : Hdr) (d : Opd) (a : Opd) (imm : Word) : F.Statement (.andLong h d a imm) := fun _ hw => by
  simp [decodeWord, encodeWord, Raw.ofWord_toWord, encodeRaw, decodeRaw, decodeLogic, check, finish, hw]
theorem F.or (h : Hdr) (ty : Ty) (d : Opd) (a : Opd) (b : Opd) : F.Statement (.or h ty d a b) := fun _ hw => by
  simp [decodeWord, encodeWord, Raw.ofWord_toWord, encodeRaw, decodeRaw, decodeLogic, Xm.ofBits_bits, check, finish, hw]
theorem F.orLong (h : Hdr) (d : Opd) (a : Opd) (imm : Word) : F.Statement (.orLong h d a imm) := fun _ hw => by
  simp [decodeWord, encodeWord, Raw.ofWord_toWord, encodeRaw, decodeRaw, decodeLogic, check, finish, hw]
theorem F.xor (h : Hdr) (ty : Ty) (d : Opd) (a : Opd) (b : Opd) : F.Statement (.xor h ty d a b) := fun _ hw => by
  simp [decodeWord, encodeWord, Raw.ofWord_toWord, encodeRaw, decodeRaw, decodeLogic, Xm.ofBits_bits, check, finish, hw]
theorem F.xorLong (h : Hdr) (d : Opd) (a : Opd) (imm : Word) : F.Statement (.xorLong h d a imm) := fun _ hw => by
  simp [decodeWord, encodeWord, Raw.ofWord_toWord, encodeRaw, decodeRaw, decodeLogic, check, finish, hw]
theorem F.andn (h : Hdr) (ty : Ty) (d : Opd) (a : Opd) (b : Opd) : F.Statement (.andn h ty d a b) := fun _ hw => by
  simp [decodeWord, encodeWord, Raw.ofWord_toWord, encodeRaw, decodeRaw, decodeLogic, Xm.ofBits_bits, check, finish, hw]
theorem F.not (h : Hdr) (ty : Ty) (d : Opd) (a : Opd) : F.Statement (.not h ty d a) := fun _ hw => by
  simp [decodeWord, encodeWord, Raw.ofWord_toWord, encodeRaw, decodeRaw, decodeLogic, Xm.ofBits_bits, check, finish, hw]
theorem F.shl (h : Hdr) (ty : Ty) (d : Opd) (a : Opd) (b : Opd) : F.Statement (.shl h ty d a b) := fun _ hw => by
  simp [decodeWord, encodeWord, Raw.ofWord_toWord, encodeRaw, decodeRaw, decodeLogic, Xm.ofBits_bits, check, finish, hw]
theorem F.shr (h : Hdr) (ty : Ty) (d : Opd) (a : Opd) (b : Opd) : F.Statement (.shr h ty d a b) := fun _ hw => by
  simp [decodeWord, encodeWord, Raw.ofWord_toWord, encodeRaw, decodeRaw, decodeLogic, Xm.ofBits_bits, check, finish, hw]
theorem F.sar (h : Hdr) (ty : Ty) (d : Opd) (a : Opd) (b : Opd) : F.Statement (.sar h ty d a b) := fun _ hw => by
  simp [decodeWord, encodeWord, Raw.ofWord_toWord, encodeRaw, decodeRaw, decodeLogic, Xm.ofBits_bits, check, finish, hw]
theorem F.rol (h : Hdr) (ty : Ty) (d : Opd) (a : Opd) (b : Opd) : F.Statement (.rol h ty d a b) := fun _ hw => by
  simp [decodeWord, encodeWord, Raw.ofWord_toWord, encodeRaw, decodeRaw, decodeLogic, Xm.ofBits_bits, check, finish, hw]
theorem F.popc (h : Hdr) (ty : Ty) (d : Opd) (a : Opd) : F.Statement (.popc h ty d a) := fun _ hw => by
  simp [decodeWord, encodeWord, Raw.ofWord_toWord, encodeRaw, decodeRaw, decodeLogic, Xm.ofBits_bits, check, finish, hw]
theorem F.clz (h : Hdr) (ty : Ty) (d : Opd) (a : Opd) : F.Statement (.clz h ty d a) := fun _ hw => by
  simp [decodeWord, encodeWord, Raw.ofWord_toWord, encodeRaw, decodeRaw, decodeLogic, Xm.ofBits_bits, check, finish, hw]
theorem F.ctz (h : Hdr) (ty : Ty) (d : Opd) (a : Opd) : F.Statement (.ctz h ty d a) := fun _ hw => by
  simp [decodeWord, encodeWord, Raw.ofWord_toWord, encodeRaw, decodeRaw, decodeLogic, Xm.ofBits_bits, check, finish, hw]
theorem F.brev (h : Hdr) (ty : Ty) (d : Opd) (a : Opd) : F.Statement (.brev h ty d a) := fun _ hw => by
  simp [decodeWord, encodeWord, Raw.ofWord_toWord, encodeRaw, decodeRaw, decodeLogic, Xm.ofBits_bits, check, finish, hw]
theorem F.bfx (h : Hdr) (ty : Ty) (d : Opd) (a : Opd) (b : Opd) : F.Statement (.bfx h ty d a b) := fun _ hw => by
  simp [decodeWord, encodeWord, Raw.ofWord_toWord, encodeRaw, decodeRaw, decodeLogic, Xm.ofBits_bits, check, finish, hw]
theorem F.bfxLong (h : Hdr) (d : Opd) (a : Opd) (imm : Word) : F.Statement (.bfxLong h d a imm) := fun _ hw => by
  simp [decodeWord, encodeWord, Raw.ofWord_toWord, encodeRaw, decodeRaw, decodeLogic, check, finish, hw]
theorem F.bfi (h : Hdr) (ty : Ty) (d : Opd) (a : Opd) (b : Opd) (c : Opd) : F.Statement (.bfi h ty d a b c) := fun _ hw => by
  simp [decodeWord, encodeWord, Raw.ofWord_toWord, encodeRaw, decodeRaw, decodeLogic, Xc.ofBits_bits, check, finish, hw]
theorem F.hadd (h : Hdr) (ty : Ty) (scl : BitVec 3) (d : Opd) (a : Opd) (b : Opd) : F.Statement (.hadd h ty scl d a b) := fun _ hw => by
  simp [decodeWord, encodeWord, Raw.ofWord_toWord, encodeRaw, decodeRaw, decodeLogic, Xm.ofBits_bits, check, finish, hw]
theorem F.haddLong (h : Hdr) (d : Opd) (a : Opd) (imm : Word) : F.Statement (.haddLong h d a imm) := fun _ hw => by
  simp [decodeWord, encodeWord, Raw.ofWord_toWord, encodeRaw, decodeRaw, decodeLogic, check, finish, hw]
theorem F.hsub (h : Hdr) (d : Opd) (a : Opd) (b : Opd) : F.Statement (.hsub h d a b) := fun _ hw => by
  simp [decodeWord, encodeWord, Raw.ofWord_toWord, encodeRaw, decodeRaw, decodeLogic, Xm.ofBits_bits, check, finish, hw]
theorem F.hsel (h : Hdr) (d : Opd) (a : Opd) : F.Statement (.hsel h d a) := fun _ hw => by
  simp [decodeWord, encodeWord, Raw.ofWord_toWord, encodeRaw, decodeRaw, decodeLogic, Xm.ofBits_bits, check, finish, hw]
theorem F.hoff (h : Hdr) (d : Opd) (a : Opd) : F.Statement (.hoff h d a) := fun _ hw => by
  simp [decodeWord, encodeWord, Raw.ofWord_toWord, encodeRaw, decodeRaw, decodeLogic, Xm.ofBits_bits, check, finish, hw]
theorem F.hmake (h : Hdr) (d : Opd) (a : Opd) (b : Opd) : F.Statement (.hmake h d a b) := fun _ hw => by
  simp [decodeWord, encodeWord, Raw.ofWord_toWord, encodeRaw, decodeRaw, decodeLogic, Xm.ofBits_bits, check, finish, hw]
theorem F.hcmp (h : Hdr) (cc : Cc) (d : Opd) (a : Opd) (b : Opd) : F.Statement (.hcmp h cc d a b) := fun _ hw => by
  simp [decodeWord, encodeWord, Raw.ofWord_toWord, encodeRaw, decodeRaw, decodeLogic, Xm.ofBits_bits, check, finish, hw]
theorem F.badd (h : Hdr) (ty : Ty) (sat : Bool) (d : Opd) (a : Opd) (b : Opd) : F.Statement (.badd h ty sat d a b) := fun _ hw => by
  simp [decodeWord, encodeWord, Raw.ofWord_toWord, encodeRaw, decodeRaw, decodeBand, Xm.ofBits_bits, check, finish, hw]
theorem F.baddLong (h : Hdr) (d : Opd) (a : Opd) (imm : Word) : F.Statement (.baddLong h d a imm) := fun _ hw => by
  simp [decodeWord, encodeWord, Raw.ofWord_toWord, encodeRaw, decodeRaw, decodeBand, check, finish, hw]
theorem F.bsub (h : Hdr) (ty : Ty) (sat : Bool) (d : Opd) (a : Opd) (b : Opd) : F.Statement (.bsub h ty sat d a b) := fun _ hw => by
  simp [decodeWord, encodeWord, Raw.ofWord_toWord, encodeRaw, decodeRaw, decodeBand, Xm.ofBits_bits, check, finish, hw]
theorem F.bmul (h : Hdr) (ty : Ty) (sat : Bool) (d : Opd) (a : Opd) (b : Opd) : F.Statement (.bmul h ty sat d a b) := fun _ hw => by
  simp [decodeWord, encodeWord, Raw.ofWord_toWord, encodeRaw, decodeRaw, decodeBand, Xm.ofBits_bits, check, finish, hw]
theorem F.band (h : Hdr) (ty : Ty) (d : Opd) (a : Opd) (b : Opd) : F.Statement (.band h ty d a b) := fun _ hw => by
  simp [decodeWord, encodeWord, Raw.ofWord_toWord, encodeRaw, decodeRaw, decodeBand, Xm.ofBits_bits, check, finish, hw]
theorem F.bor (h : Hdr) (ty : Ty) (d : Opd) (a : Opd) (b : Opd) : F.Statement (.bor h ty d a b) := fun _ hw => by
  simp [decodeWord, encodeWord, Raw.ofWord_toWord, encodeRaw, decodeRaw, decodeBand, Xm.ofBits_bits, check, finish, hw]
theorem F.bxor (h : Hdr) (ty : Ty) (d : Opd) (a : Opd) (b : Opd) : F.Statement (.bxor h ty d a b) := fun _ hw => by
  simp [decodeWord, encodeWord, Raw.ofWord_toWord, encodeRaw, decodeRaw, decodeBand, Xm.ofBits_bits, check, finish, hw]
theorem F.bshl (h : Hdr) (ty : Ty) (d : Opd) (a : Opd) (b : Opd) : F.Statement (.bshl h ty d a b) := fun _ hw => by
  simp [decodeWord, encodeWord, Raw.ofWord_toWord, encodeRaw, decodeRaw, decodeBand, Xm.ofBits_bits, check, finish, hw]
theorem F.bshr (h : Hdr) (ty : Ty) (d : Opd) (a : Opd) (b : Opd) : F.Statement (.bshr h ty d a b) := fun _ hw => by
  simp [decodeWord, encodeWord, Raw.ofWord_toWord, encodeRaw, decodeRaw, decodeBand, Xm.ofBits_bits, check, finish, hw]
theorem F.bsar (h : Hdr) (ty : Ty) (d : Opd) (a : Opd) (b : Opd) : F.Statement (.bsar h ty d a b) := fun _ hw => by
  simp [decodeWord, encodeWord, Raw.ofWord_toWord, encodeRaw, decodeRaw, decodeBand, Xm.ofBits_bits, check, finish, hw]
theorem F.bmin (h : Hdr) (ty : Ty) (d : Opd) (a : Opd) (b : Opd) : F.Statement (.bmin h ty d a b) := fun _ hw => by
  simp [decodeWord, encodeWord, Raw.ofWord_toWord, encodeRaw, decodeRaw, decodeBand, Xm.ofBits_bits, check, finish, hw]
theorem F.bmax (h : Hdr) (ty : Ty) (d : Opd) (a : Opd) (b : Opd) : F.Statement (.bmax h ty d a b) := fun _ hw => by
  simp [decodeWord, encodeWord, Raw.ofWord_toWord, encodeRaw, decodeRaw, decodeBand, Xm.ofBits_bits, check, finish, hw]
theorem F.bmov (h : Hdr) (ty : Ty) (d : Opd) (b : Opd) : F.Statement (.bmov h ty d b) := fun _ hw => by
  simp [decodeWord, encodeWord, Raw.ofWord_toWord, encodeRaw, decodeRaw, decodeBand, Xm.ofBits_bits, check, finish, hw]
theorem F.bmovLong (h : Hdr) (d : Opd) (imm : Word) : F.Statement (.bmovLong h d imm) := fun _ hw => by
  simp [decodeWord, encodeWord, Raw.ofWord_toWord, encodeRaw, decodeRaw, decodeBand, check, finish, hw]
theorem F.bcmp (h : Hdr) (ty : Ty) (cc : Cc) (d : Opd) (a : Opd) (b : Opd) : F.Statement (.bcmp h ty cc d a b) := fun _ hw => by
  simp [decodeWord, encodeWord, Raw.ofWord_toWord, encodeRaw, decodeRaw, decodeBand, Xm.ofBits_bits, check, finish, hw]
theorem F.bsel (h : Hdr) (ty : Ty) (d : Opd) (a : Opd) (b : Opd) (c : Opd) : F.Statement (.bsel h ty d a b c) := fun _ hw => by
  simp [decodeWord, encodeWord, Raw.ofWord_toWord, encodeRaw, decodeRaw, decodeBand, Xc.ofBits_bits, check, finish, hw]
theorem F.qlog (h : Hdr) (op : Opl) (d : Opd) (a : Opd) (b : Opd) : F.Statement (.qlog h op d a b) := fun _ hw => by
  simp [decodeWord, encodeWord, Raw.ofWord_toWord, encodeRaw, decodeRaw, decodeBand, Xm.ofBits_bits, check, finish, hw]
theorem F.bget (h : Hdr) (ty : Ty) (d : Opd) (a : Opd) : F.Statement (.bget h ty d a) := fun _ hw => by
  simp [decodeWord, encodeWord, Raw.ofWord_toWord, encodeRaw, decodeRaw, decodeBand, Xm.ofBits_bits, check, finish, hw]
theorem F.bred (h : Hdr) (ty : Ty) (sat : Bool) (red : Red) (d : Opd) (a : Opd) : F.Statement (.bred h ty sat red d a) := fun _ hw => by
  simp [decodeWord, encodeWord, Raw.ofWord_toWord, encodeRaw, decodeRaw, decodeBand, Xm.ofBits_bits, check, finish, hw]
theorem F.acq (h : Hdr) (tr : Bool) (d : Opd) (a : Opd) : F.Statement (.acq h tr d a) := fun _ hw => by
  simp [decodeWord, encodeWord, Raw.ofWord_toWord, encodeRaw, decodeRaw, decodeBand, Xm.ofBits_bits, check, finish, hw]
theorem F.rel (h : Hdr) (a : Opd) : F.Statement (.rel h a) := fun _ hw => by
  simp [decodeWord, encodeWord, Raw.ofWord_toWord, encodeRaw, decodeRaw, decodeBand, Xm.ofBits_bits, check, finish, hw]
theorem F.fadd (h : Hdr) (ty : Ty) (rnd : Rnd) (ftz : Bool) (d : Opd) (a : Opd) (b : Opd) : F.Statement (.fadd h ty rnd ftz d a b) := fun _ hw => by
  simp [decodeWord, encodeWord, Raw.ofWord_toWord, encodeRaw, decodeRaw, decodeFloat, Xm.ofBits_bits, check, finish, hw]
theorem F.faddLong (h : Hdr) (d : Opd) (a : Opd) (imm : Word) : F.Statement (.faddLong h d a imm) := fun _ hw => by
  simp [decodeWord, encodeWord, Raw.ofWord_toWord, encodeRaw, decodeRaw, decodeFloat, check, finish, hw]
theorem F.fsub (h : Hdr) (ty : Ty) (rnd : Rnd) (ftz : Bool) (d : Opd) (a : Opd) (b : Opd) : F.Statement (.fsub h ty rnd ftz d a b) := fun _ hw => by
  simp [decodeWord, encodeWord, Raw.ofWord_toWord, encodeRaw, decodeRaw, decodeFloat, Xm.ofBits_bits, check, finish, hw]
theorem F.fmul (h : Hdr) (ty : Ty) (rnd : Rnd) (ftz : Bool) (d : Opd) (a : Opd) (b : Opd) : F.Statement (.fmul h ty rnd ftz d a b) := fun _ hw => by
  simp [decodeWord, encodeWord, Raw.ofWord_toWord, encodeRaw, decodeRaw, decodeFloat, Xm.ofBits_bits, check, finish, hw]
theorem F.fmulLong (h : Hdr) (d : Opd) (a : Opd) (imm : Word) : F.Statement (.fmulLong h d a imm) := fun _ hw => by
  simp [decodeWord, encodeWord, Raw.ofWord_toWord, encodeRaw, decodeRaw, decodeFloat, check, finish, hw]
theorem F.ffma (h : Hdr) (ty : Ty) (rnd : Rnd) (ftz : Bool) (d : Opd) (a : Opd) (b : Opd) (c : Opd) : F.Statement (.ffma h ty rnd ftz d a b c) := fun _ hw => by
  simp [decodeWord, encodeWord, Raw.ofWord_toWord, encodeRaw, decodeRaw, decodeFloat, Xc.ofBits_bits, check, finish, hw]
theorem F.fmin (h : Hdr) (ty : Ty) (ftz : Bool) (d : Opd) (a : Opd) (b : Opd) : F.Statement (.fmin h ty ftz d a b) := fun _ hw => by
  simp [decodeWord, encodeWord, Raw.ofWord_toWord, encodeRaw, decodeRaw, decodeFloat, Xm.ofBits_bits, check, finish, hw]
theorem F.fmax (h : Hdr) (ty : Ty) (ftz : Bool) (d : Opd) (a : Opd) (b : Opd) : F.Statement (.fmax h ty ftz d a b) := fun _ hw => by
  simp [decodeWord, encodeWord, Raw.ofWord_toWord, encodeRaw, decodeRaw, decodeFloat, Xm.ofBits_bits, check, finish, hw]
theorem F.fabs (h : Hdr) (ty : Ty) (d : Opd) (a : Opd) : F.Statement (.fabs h ty d a) := fun _ hw => by
  simp [decodeWord, encodeWord, Raw.ofWord_toWord, encodeRaw, decodeRaw, decodeFloat, Xm.ofBits_bits, check, finish, hw]
theorem F.fneg (h : Hdr) (ty : Ty) (d : Opd) (a : Opd) : F.Statement (.fneg h ty d a) := fun _ hw => by
  simp [decodeWord, encodeWord, Raw.ofWord_toWord, encodeRaw, decodeRaw, decodeFloat, Xm.ofBits_bits, check, finish, hw]
theorem F.fcmp (h : Hdr) (ty : Ty) (ftz : Bool) (cc : Fcc) (d : Opd) (a : Opd) (b : Opd) : F.Statement (.fcmp h ty ftz cc d a b) := fun _ hw => by
  simp [decodeWord, encodeWord, Raw.ofWord_toWord, encodeRaw, decodeRaw, decodeFloat, Xm.ofBits_bits, check, finish, hw]
theorem F.fclass (h : Hdr) (ty : Ty) (d : Opd) (a : Opd) : F.Statement (.fclass h ty d a) := fun _ hw => by
  simp [decodeWord, encodeWord, Raw.ofWord_toWord, encodeRaw, decodeRaw, decodeFloat, Xm.ofBits_bits, check, finish, hw]
theorem F.frnd (h : Hdr) (ty : Ty) (rnd : Rnd) (d : Opd) (a : Opd) : F.Statement (.frnd h ty rnd d a) := fun _ hw => by
  simp [decodeWord, encodeWord, Raw.ofWord_toWord, encodeRaw, decodeRaw, decodeFloat, Xm.ofBits_bits, check, finish, hw]
theorem F.fscl (h : Hdr) (ty : Ty) (rnd : Rnd) (ftz : Bool) (d : Opd) (a : Opd) (b : Opd) : F.Statement (.fscl h ty rnd ftz d a b) := fun _ hw => by
  simp [decodeWord, encodeWord, Raw.ofWord_toWord, encodeRaw, decodeRaw, decodeFloat, Xm.ofBits_bits, check, finish, hw]
theorem F.fadd2 (h : Hdr) (ty : Ty) (rnd : Rnd) (ftz : Bool) (d : Opd) (a : Opd) (b : Opd) : F.Statement (.fadd2 h ty rnd ftz d a b) := fun _ hw => by
  simp [decodeWord, encodeWord, Raw.ofWord_toWord, encodeRaw, decodeRaw, decodeFloat, Xm.ofBits_bits, check, finish, hw]
theorem F.fsub2 (h : Hdr) (ty : Ty) (rnd : Rnd) (ftz : Bool) (d : Opd) (a : Opd) (b : Opd) : F.Statement (.fsub2 h ty rnd ftz d a b) := fun _ hw => by
  simp [decodeWord, encodeWord, Raw.ofWord_toWord, encodeRaw, decodeRaw, decodeFloat, Xm.ofBits_bits, check, finish, hw]
theorem F.fmul2 (h : Hdr) (ty : Ty) (rnd : Rnd) (ftz : Bool) (d : Opd) (a : Opd) (b : Opd) : F.Statement (.fmul2 h ty rnd ftz d a b) := fun _ hw => by
  simp [decodeWord, encodeWord, Raw.ofWord_toWord, encodeRaw, decodeRaw, decodeFloat, Xm.ofBits_bits, check, finish, hw]
theorem F.ffma2 (h : Hdr) (ty : Ty) (rnd : Rnd) (ftz : Bool) (d : Opd) (a : Opd) (b : Opd) (c : Opd) : F.Statement (.ffma2 h ty rnd ftz d a b c) := fun _ hw => by
  simp [decodeWord, encodeWord, Raw.ofWord_toWord, encodeRaw, decodeRaw, decodeFloat, Xc.ofBits_bits, check, finish, hw]
theorem F.fmin2 (h : Hdr) (ty : Ty) (ftz : Bool) (d : Opd) (a : Opd) (b : Opd) : F.Statement (.fmin2 h ty ftz d a b) := fun _ hw => by
  simp [decodeWord, encodeWord, Raw.ofWord_toWord, encodeRaw, decodeRaw, decodeFloat, Xm.ofBits_bits, check, finish, hw]
theorem F.fmax2 (h : Hdr) (ty : Ty) (ftz : Bool) (d : Opd) (a : Opd) (b : Opd) : F.Statement (.fmax2 h ty ftz d a b) := fun _ hw => by
  simp [decodeWord, encodeWord, Raw.ofWord_toWord, encodeRaw, decodeRaw, decodeFloat, Xm.ofBits_bits, check, finish, hw]
theorem F.fcmp2 (h : Hdr) (ty : Ty) (ftz : Bool) (cc : Fcc) (d : Opd) (a : Opd) (b : Opd) : F.Statement (.fcmp2 h ty ftz cc d a b) := fun _ hw => by
  simp [decodeWord, encodeWord, Raw.ofWord_toWord, encodeRaw, decodeRaw, decodeFloat, Xm.ofBits_bits, check, finish, hw]
theorem F.fdot2 (h : Hdr) (ty : Ty) (rnd : Rnd) (ftz : Bool) (d : Opd) (a : Opd) (b : Opd) (c : Opd) : F.Statement (.fdot2 h ty rnd ftz d a b c) := fun _ hw => by
  simp [decodeWord, encodeWord, Raw.ofWord_toWord, encodeRaw, decodeRaw, decodeFloat, Xc.ofBits_bits, check, finish, hw]
theorem F.cvt (h : Hdr) (ty : Ty) (ty2 : Ty) (rnd : Rnd) (ftz : Bool) (ovf : Bool) (rx : Bool) (d : Opd) (a : Opd) : F.Statement (.cvt h ty ty2 rnd ftz ovf rx d a) := fun _ hw => by
  have hw' := hw
  simp only [Instr.wf, Bool.and_eq_true] at hw'
  simp [decodeWord, encodeWord, Raw.ofWord_toWord, encodeRaw, decodeRaw, decodeFloat, Xm.ofBits_bits, check, finish, hw]
  simp_all
theorem F.pack (h : Hdr) (ty : Ty) (rnd : Rnd) (ftz : Bool) (ovf : Bool) (pos : BitVec 3) (d : Opd) (a : Opd) (b : Opd) : F.Statement (.pack h ty rnd ftz ovf pos d a b) := fun _ hw => by
  simp [decodeWord, encodeWord, Raw.ofWord_toWord, encodeRaw, decodeRaw, decodeFloat, Xm.ofBits_bits, check, finish, hw]
theorem F.unpk (h : Hdr) (ty : Ty) (pos : BitVec 3) (scl : Bool) (d : Opd) (a : Opd) (b : Opd) : F.Statement (.unpk h ty pos scl d a b) := fun _ hw => by
  have hw' := hw
  simp only [Instr.wf, Bool.and_eq_true] at hw'
  simp [decodeWord, encodeWord, Raw.ofWord_toWord, encodeRaw, decodeRaw, decodeFloat, Xm.ofBits_bits, check, finish, hw]
  intro h
  simp_all
theorem F.fdiv (h : Hdr) (ty : Ty) (rnd : Rnd) (ftz : Bool) (d : Opd) (a : Opd) (b : Opd) : F.Statement (.fdiv h ty rnd ftz d a b) := fun _ hw => by
  simp [decodeWord, encodeWord, Raw.ofWord_toWord, encodeRaw, decodeRaw, decodeFloat, Xm.ofBits_bits, check, finish, hw]
theorem F.fsqrt (h : Hdr) (ty : Ty) (rnd : Rnd) (ftz : Bool) (d : Opd) (a : Opd) : F.Statement (.fsqrt h ty rnd ftz d a) := fun _ hw => by
  simp [decodeWord, encodeWord, Raw.ofWord_toWord, encodeRaw, decodeRaw, decodeFloat, Xm.ofBits_bits, check, finish, hw]
theorem F.rcp (h : Hdr) (ty : Ty) (ftz : Bool) (d : Opd) (a : Opd) : F.Statement (.rcp h ty ftz d a) := fun _ hw => by
  simp [decodeWord, encodeWord, Raw.ofWord_toWord, encodeRaw, decodeRaw, decodeFloat, Xm.ofBits_bits, check, finish, hw]
theorem F.rsq (h : Hdr) (ty : Ty) (ftz : Bool) (d : Opd) (a : Opd) : F.Statement (.rsq h ty ftz d a) := fun _ hw => by
  simp [decodeWord, encodeWord, Raw.ofWord_toWord, encodeRaw, decodeRaw, decodeFloat, Xm.ofBits_bits, check, finish, hw]
theorem F.ex2 (h : Hdr) (ty : Ty) (ftz : Bool) (d : Opd) (a : Opd) : F.Statement (.ex2 h ty ftz d a) := fun _ hw => by
  simp [decodeWord, encodeWord, Raw.ofWord_toWord, encodeRaw, decodeRaw, decodeFloat, Xm.ofBits_bits, check, finish, hw]
theorem F.lg2 (h : Hdr) (ty : Ty) (ftz : Bool) (d : Opd) (a : Opd) : F.Statement (.lg2 h ty ftz d a) := fun _ hw => by
  simp [decodeWord, encodeWord, Raw.ofWord_toWord, encodeRaw, decodeRaw, decodeFloat, Xm.ofBits_bits, check, finish, hw]
theorem F.sinpi (h : Hdr) (ty : Ty) (ftz : Bool) (d : Opd) (a : Opd) : F.Statement (.sinpi h ty ftz d a) := fun _ hw => by
  simp [decodeWord, encodeWord, Raw.ofWord_toWord, encodeRaw, decodeRaw, decodeFloat, Xm.ofBits_bits, check, finish, hw]
theorem F.cospi (h : Hdr) (ty : Ty) (ftz : Bool) (d : Opd) (a : Opd) : F.Statement (.cospi h ty ftz d a) := fun _ hw => by
  simp [decodeWord, encodeWord, Raw.ofWord_toWord, encodeRaw, decodeRaw, decodeFloat, Xm.ofBits_bits, check, finish, hw]
theorem F.tanh (h : Hdr) (ty : Ty) (ftz : Bool) (d : Opd) (a : Opd) : F.Statement (.tanh h ty ftz d a) := fun _ hw => by
  simp [decodeWord, encodeWord, Raw.ofWord_toWord, encodeRaw, decodeRaw, decodeFloat, Xm.ofBits_bits, check, finish, hw]
theorem F.shfl (h : Hdr) (ty : Ty) (mode : ShMode) (seg : ShSeg) (d : Opd) (a : Opd) (b : Opd) : F.Statement (.shfl h ty mode seg d a b) := fun _ hw => by
  simp [decodeWord, encodeWord, Raw.ofWord_toWord, encodeRaw, decodeRaw, decodeExchange, Xm.ofBits_bits, check, finish, hw]
theorem F.vote (h : Hdr) (vm : VoteMode) (d : Opd) (a : Opd) : F.Statement (.vote h vm d a) := fun _ hw => by
  simp [decodeWord, encodeWord, Raw.ofWord_toWord, encodeRaw, decodeRaw, decodeExchange, Xm.ofBits_bits, check, finish, hw]
theorem F.lred (h : Hdr) (ty : Ty) (rnd : Rnd) (ftz : Bool) (sat : Bool) (red : Red) (d : Opd) (a : Opd) : F.Statement (.lred h ty rnd ftz sat red d a) := fun _ hw => by
  simp [decodeWord, encodeWord, Raw.ofWord_toWord, encodeRaw, decodeRaw, decodeExchange, Xm.ofBits_bits, check, finish, hw]
theorem F.scan (h : Hdr) (ty : Ty) (rnd : Rnd) (ftz : Bool) (sat : Bool) (red : Red) (exc : Bool) (d : Opd) (a : Opd) : F.Statement (.scan h ty rnd ftz sat red exc d a) := fun _ hw => by
  simp [decodeWord, encodeWord, Raw.ofWord_toWord, encodeRaw, decodeRaw, decodeExchange, Xm.ofBits_bits, check, finish, hw]
theorem F.bra (h : Hdr) (off : Word) : F.Statement (.bra h off) := fun _ hw => by
  simp [decodeWord, encodeWord, Raw.ofWord_toWord, encodeRaw, decodeRaw, decodeFlow, check, finish, hw]
theorem F.braq (h : Hdr) (off : Word) : F.Statement (.braq h off) := fun _ hw => by
  simp [decodeWord, encodeWord, Raw.ofWord_toWord, encodeRaw, decodeRaw, decodeFlow, check, finish, hw]
theorem F.jmpi (h : Hdr) (a : Opd) : F.Statement (.jmpi h a) := fun _ hw => by
  simp [decodeWord, encodeWord, Raw.ofWord_toWord, encodeRaw, decodeRaw, decodeFlow, Xm.ofBits_bits, check, finish, hw]
theorem F.call (h : Hdr) (d : Opd) (off : Word) : F.Statement (.call h d off) := fun _ hw => by
  simp [decodeWord, encodeWord, Raw.ofWord_toWord, encodeRaw, decodeRaw, decodeFlow, check, finish, hw]
theorem F.callx (h : Hdr) (slot : BitVec 12) (d : Opd) : F.Statement (.callx h slot d) := fun _ hw => by
  simp [decodeWord, encodeWord, Raw.ofWord_toWord, encodeRaw, decodeRaw, decodeFlow, Xm.ofBits_bits, check, finish, hw]
theorem F.ret (h : Hdr) (a : Opd) : F.Statement (.ret h a) := fun _ hw => by
  simp [decodeWord, encodeWord, Raw.ofWord_toWord, encodeRaw, decodeRaw, decodeFlow, Xm.ofBits_bits, check, finish, hw]
theorem F.join (h : Hdr) (a : Opd) : F.Statement (.join h a) := fun _ hw => by
  simp [decodeWord, encodeWord, Raw.ofWord_toWord, encodeRaw, decodeRaw, decodeFlow, Xm.ofBits_bits, check, finish, hw]
theorem F.exit (h : Hdr) : F.Statement (.exit h) := fun _ hw => by
  simp [decodeWord, encodeWord, Raw.ofWord_toWord, encodeRaw, decodeRaw, decodeFlow, Xm.ofBits_bits, check, finish, hw]
theorem F.nap (h : Hdr) (a : Opd) : F.Statement (.nap h a) := fun _ hw => by
  simp [decodeWord, encodeWord, Raw.ofWord_toWord, encodeRaw, decodeRaw, decodeFlow, Xm.ofBits_bits, check, finish, hw]
theorem F.brk (h : Hdr) (code : BitVec 15) : F.Statement (.brk h code) := fun _ hw => by
  simp [decodeWord, encodeWord, Raw.ofWord_toWord, encodeRaw, decodeRaw, decodeFlow, Xm.ofBits_bits, check, finish, hw]
theorem F.trapi (h : Hdr) (code : BitVec 15) (d : Opd) : F.Statement (.trapi h code d) := fun _ hw => by
  simp [decodeWord, encodeWord, Raw.ofWord_toWord, encodeRaw, decodeRaw, decodeFlow, Xm.ofBits_bits, check, finish, hw]
theorem F.ld (h : Hdr) (ty : Ty) (sc : Scope) (ord : Ord) (lk : Bool) (slot : BitVec 12) (d : Opd) (a : Opd) (b : Opd) : F.Statement (.ld h ty sc ord lk slot d a b) := fun _ hw => by
  have hw' := hw
  simp only [Instr.wf, Bool.and_eq_true] at hw'
  simp [decodeWord, encodeWord, Raw.ofWord_toWord, encodeRaw, decodeRaw, decodeMemory, Xm.ofBits_bits, check, finish, hw]
  cases lk <;> simp_all
theorem F.ldLong (h : Hdr) (d : Opd) (a : Opd) (imm : Word) : F.Statement (.ldLong h d a imm) := fun _ hw => by
  simp [decodeWord, encodeWord, Raw.ofWord_toWord, encodeRaw, decodeRaw, decodeMemory, check, finish, hw]
theorem F.st (h : Hdr) (ty : Ty) (sc : Scope) (ord : Ord) (lk : Bool) (slot : BitVec 12) (d : Opd) (a : Opd) (b : Opd) : F.Statement (.st h ty sc ord lk slot d a b) := fun _ hw => by
  have hw' := hw
  simp only [Instr.wf, Bool.and_eq_true] at hw'
  simp [decodeWord, encodeWord, Raw.ofWord_toWord, encodeRaw, decodeRaw, decodeMemory, Xm.ofBits_bits, check, finish, hw]
  cases lk <;> simp_all
theorem F.stLong (h : Hdr) (d : Opd) (a : Opd) (imm : Word) : F.Statement (.stLong h d a imm) := fun _ hw => by
  simp [decodeWord, encodeWord, Raw.ofWord_toWord, encodeRaw, decodeRaw, decodeMemory, check, finish, hw]
theorem F.aadd (h : Hdr) (ty : Ty) (sc : Scope) (ord : Ord) (d : Opd) (a : Opd) (b : Opd) : F.Statement (.aadd h ty sc ord d a b) := fun _ hw => by
  have hw' := hw
  simp only [Instr.wf, Bool.and_eq_true] at hw'
  simp [decodeWord, encodeWord, Raw.ofWord_toWord, encodeRaw, decodeRaw, decodeMemory, Xm.ofBits_bits, check, finish, hw]
  intro h
  simp_all
theorem F.amin (h : Hdr) (ty : Ty) (sc : Scope) (ord : Ord) (d : Opd) (a : Opd) (b : Opd) : F.Statement (.amin h ty sc ord d a b) := fun _ hw => by
  have hw' := hw
  simp only [Instr.wf, Bool.and_eq_true] at hw'
  simp [decodeWord, encodeWord, Raw.ofWord_toWord, encodeRaw, decodeRaw, decodeMemory, Xm.ofBits_bits, check, finish, hw]
  intro h
  simp_all
theorem F.amax (h : Hdr) (ty : Ty) (sc : Scope) (ord : Ord) (d : Opd) (a : Opd) (b : Opd) : F.Statement (.amax h ty sc ord d a b) := fun _ hw => by
  have hw' := hw
  simp only [Instr.wf, Bool.and_eq_true] at hw'
  simp [decodeWord, encodeWord, Raw.ofWord_toWord, encodeRaw, decodeRaw, decodeMemory, Xm.ofBits_bits, check, finish, hw]
  intro h
  simp_all
theorem F.aand (h : Hdr) (ty : Ty) (sc : Scope) (ord : Ord) (d : Opd) (a : Opd) (b : Opd) : F.Statement (.aand h ty sc ord d a b) := fun _ hw => by
  have hw' := hw
  simp only [Instr.wf, Bool.and_eq_true] at hw'
  simp [decodeWord, encodeWord, Raw.ofWord_toWord, encodeRaw, decodeRaw, decodeMemory, Xm.ofBits_bits, check, finish, hw]
  intro h
  simp_all
theorem F.aor (h : Hdr) (ty : Ty) (sc : Scope) (ord : Ord) (d : Opd) (a : Opd) (b : Opd) : F.Statement (.aor h ty sc ord d a b) := fun _ hw => by
  have hw' := hw
  simp only [Instr.wf, Bool.and_eq_true] at hw'
  simp [decodeWord, encodeWord, Raw.ofWord_toWord, encodeRaw, decodeRaw, decodeMemory, Xm.ofBits_bits, check, finish, hw]
  intro h
  simp_all
theorem F.axor (h : Hdr) (ty : Ty) (sc : Scope) (ord : Ord) (d : Opd) (a : Opd) (b : Opd) : F.Statement (.axor h ty sc ord d a b) := fun _ hw => by
  have hw' := hw
  simp only [Instr.wf, Bool.and_eq_true] at hw'
  simp [decodeWord, encodeWord, Raw.ofWord_toWord, encodeRaw, decodeRaw, decodeMemory, Xm.ofBits_bits, check, finish, hw]
  intro h
  simp_all
theorem F.axch (h : Hdr) (ty : Ty) (sc : Scope) (ord : Ord) (d : Opd) (a : Opd) (b : Opd) : F.Statement (.axch h ty sc ord d a b) := fun _ hw => by
  have hw' := hw
  simp only [Instr.wf, Bool.and_eq_true] at hw'
  simp [decodeWord, encodeWord, Raw.ofWord_toWord, encodeRaw, decodeRaw, decodeMemory, Xm.ofBits_bits, check, finish, hw]
  intro h
  simp_all
theorem F.acas (h : Hdr) (ty : Ty) (sc : Scope) (ar : Bool) (d : Opd) (a : Opd) (b : Opd) (c : Opd) : F.Statement (.acas h ty sc ar d a b c) := fun _ hw => by
  have hw' := hw
  simp only [Instr.wf, Bool.and_eq_true] at hw'
  simp [decodeWord, encodeWord, Raw.ofWord_toWord, encodeRaw, decodeRaw, decodeMemory, Xc.ofBits_bits, check, finish, hw]
  intro h
  simp_all
theorem F.afadd (h : Hdr) (ty : Ty) (sc : Scope) (ord : Ord) (d : Opd) (a : Opd) (b : Opd) : F.Statement (.afadd h ty sc ord d a b) := fun _ hw => by
  have hw' := hw
  simp only [Instr.wf, Bool.and_eq_true] at hw'
  simp [decodeWord, encodeWord, Raw.ofWord_toWord, encodeRaw, decodeRaw, decodeMemory, Xm.ofBits_bits, check, finish, hw]
  intro h
  simp_all
theorem F.ldsp (h : Hdr) (ty : Ty) (sc : Scope) (ord : Ord) (d : Opd) (a : Opd) (b : Opd) : F.Statement (.ldsp h ty sc ord d a b) := fun _ hw => by
  have hw' := hw
  simp only [Instr.wf, Bool.and_eq_true] at hw'
  simp [decodeWord, encodeWord, Raw.ofWord_toWord, encodeRaw, decodeRaw, decodeMemory, Xm.ofBits_bits, check, finish, hw]
  intro h
  simp_all
theorem F.ldspLong (h : Hdr) (d : Opd) (a : Opd) (imm : Word) : F.Statement (.ldspLong h d a imm) := fun _ hw => by
  simp [decodeWord, encodeWord, Raw.ofWord_toWord, encodeRaw, decodeRaw, decodeMemory, check, finish, hw]
theorem F.stsp (h : Hdr) (ty : Ty) (sc : Scope) (ord : Ord) (d : Opd) (a : Opd) (b : Opd) : F.Statement (.stsp h ty sc ord d a b) := fun _ hw => by
  have hw' := hw
  simp only [Instr.wf, Bool.and_eq_true] at hw'
  simp [decodeWord, encodeWord, Raw.ofWord_toWord, encodeRaw, decodeRaw, decodeMemory, Xm.ofBits_bits, check, finish, hw]
  intro h
  simp_all
theorem F.stspLong (h : Hdr) (d : Opd) (a : Opd) (imm : Word) : F.Statement (.stspLong h d a imm) := fun _ hw => by
  simp [decodeWord, encodeWord, Raw.ofWord_toWord, encodeRaw, decodeRaw, decodeMemory, check, finish, hw]
theorem F.ldsg (h : Hdr) (ty : Ty) (sc : Scope) (ord : Ord) (d : Opd) (a : Opd) (b : Opd) : F.Statement (.ldsg h ty sc ord d a b) := fun _ hw => by
  have hw' := hw
  simp only [Instr.wf, Bool.and_eq_true] at hw'
  simp [decodeWord, encodeWord, Raw.ofWord_toWord, encodeRaw, decodeRaw, decodeMemory, Xm.ofBits_bits, check, finish, hw]
  intro h
  simp_all
theorem F.stsg (h : Hdr) (ty : Ty) (sc : Scope) (ord : Ord) (d : Opd) (a : Opd) (b : Opd) : F.Statement (.stsg h ty sc ord d a b) := fun _ hw => by
  have hw' := hw
  simp only [Instr.wf, Bool.and_eq_true] at hw'
  simp [decodeWord, encodeWord, Raw.ofWord_toWord, encodeRaw, decodeRaw, decodeMemory, Xm.ofBits_bits, check, finish, hw]
  intro h
  simp_all
theorem F.symst (h : Hdr) (ty : Ty) (cpx : Bool) (d : Opd) (a : Opd) (b : Opd) : F.Statement (.symst h ty cpx d a b) := fun _ hw => by
  simp [decodeWord, encodeWord, Raw.ofWord_toWord, encodeRaw, decodeRaw, decodeMemory, Xm.ofBits_bits, check, finish, hw]
theorem F.push (h : Hdr) (cnt : BitVec 4) (d : Opd) (a : Opd) : F.Statement (.push h cnt d a) := fun _ hw => by
  simp [decodeWord, encodeWord, Raw.ofWord_toWord, encodeRaw, decodeRaw, decodeMemory, Xm.ofBits_bits, check, finish, hw]
theorem F.pop (h : Hdr) (cnt : BitVec 4) (d : Opd) (a : Opd) : F.Statement (.pop h cnt d a) := fun _ hw => by
  simp [decodeWord, encodeWord, Raw.ofWord_toWord, encodeRaw, decodeRaw, decodeMemory, Xm.ofBits_bits, check, finish, hw]
theorem F.pfet (h : Hdr) (tr : Bool) (a : Opd) (b : Opd) : F.Statement (.pfet h tr a b) := fun _ hw => by
  simp [decodeWord, encodeWord, Raw.ofWord_toWord, encodeRaw, decodeRaw, decodeMemory, Xm.ofBits_bits, check, finish, hw]
theorem F.fence (h : Hdr) (sc : Scope) (fk : FenceKind) : F.Statement (.fence h sc fk) := fun _ hw => by
  simp [decodeWord, encodeWord, Raw.ofWord_toWord, encodeRaw, decodeRaw, decodeMemory, Xm.ofBits_bits, check, finish, hw]
theorem F.copyl (h : Hdr) (sz : CopySz) (d : Opd) (a : Opd) : F.Statement (.copyl h sz d a) := fun _ hw => by
  simp [decodeWord, encodeWord, Raw.ofWord_toWord, encodeRaw, decodeRaw, decodeEngine, Xm.ofBits_bits, check, finish, hw]
theorem F.copyt (h : Hdr) (a : Opd) : F.Statement (.copyt h a) := fun _ hw => by
  simp [decodeWord, encodeWord, Raw.ofWord_toWord, encodeRaw, decodeRaw, decodeEngine, Xm.ofBits_bits, check, finish, hw]
theorem F.copyg (h : Hdr) (a : Opd) : F.Statement (.copyg h a) := fun _ hw => by
  simp [decodeWord, encodeWord, Raw.ofWord_toWord, encodeRaw, decodeRaw, decodeEngine, Xm.ofBits_bits, check, finish, hw]
theorem F.mma (h : Hdr) (ty : Ty) (ty2 : Ty) (scl : Bool) (d : Opd) (a : Opd) (b : Opd) (c : Opd) : F.Statement (.mma h ty ty2 scl d a b c) := fun _ hw => by
  have hw' := hw
  simp only [Instr.wf, Bool.and_eq_true] at hw'
  simp [decodeWord, encodeWord, Raw.ofWord_toWord, encodeRaw, decodeRaw, decodeEngine, Xc.ofBits_bits, check, finish, hw]
  intro h
  simp_all
theorem F.mchb (h : Hdr) (d : Opd) (a : Opd) : F.Statement (.mchb h d a) := fun _ hw => by
  simp [decodeWord, encodeWord, Raw.ofWord_toWord, encodeRaw, decodeRaw, decodeEngine, Xm.ofBits_bits, check, finish, hw]
theorem F.mche (h : Hdr) (d : Opd) : F.Statement (.mche h d) := fun _ hw => by
  simp [decodeWord, encodeWord, Raw.ofWord_toWord, encodeRaw, decodeRaw, decodeEngine, Xm.ofBits_bits, check, finish, hw]
theorem F.accz (h : Hdr) (d : Opd) : F.Statement (.accz h d) := fun _ hw => by
  simp [decodeWord, encodeWord, Raw.ofWord_toWord, encodeRaw, decodeRaw, decodeEngine, Xm.ofBits_bits, check, finish, hw]
theorem F.accsc (h : Hdr) (d : Opd) (a : Opd) : F.Statement (.accsc h d a) := fun _ hw => by
  simp [decodeWord, encodeWord, Raw.ofWord_toWord, encodeRaw, decodeRaw, decodeEngine, Xm.ofBits_bits, check, finish, hw]
theorem F.acccvt (h : Hdr) (ty : Ty) (scl : Bool) (a : Opd) (b : Opd) (c : Opd) : F.Statement (.acccvt h ty scl a b c) := fun _ hw => by
  have hw' := hw
  simp only [Instr.wf, Bool.and_eq_true] at hw'
  simp [decodeWord, encodeWord, Raw.ofWord_toWord, encodeRaw, decodeRaw, decodeEngine, Xc.ofBits_bits, check, finish, hw]
  intro h
  simp_all
theorem F.lda (h : Hdr) (d : Opd) (a : Opd) (b : Opd) : F.Statement (.lda h d a b) := fun _ hw => by
  simp [decodeWord, encodeWord, Raw.ofWord_toWord, encodeRaw, decodeRaw, decodeEngine, Xm.ofBits_bits, check, finish, hw]
theorem F.sta (h : Hdr) (d : Opd) (a : Opd) (b : Opd) : F.Statement (.sta h d a b) := fun _ hw => by
  simp [decodeWord, encodeWord, Raw.ofWord_toWord, encodeRaw, decodeRaw, decodeEngine, Xm.ofBits_bits, check, finish, hw]
theorem F.guide (h : Hdr) (d : Opd) (a : Opd) (b : Opd) : F.Statement (.guide h d a b) := fun _ hw => by
  simp [decodeWord, encodeWord, Raw.ofWord_toWord, encodeRaw, decodeRaw, decodeEngine, Xm.ofBits_bits, check, finish, hw]
theorem F.pairx (h : Hdr) (rj : Bool) : F.Statement (.pairx h rj) := fun _ hw => by
  simp [decodeWord, encodeWord, Raw.ofWord_toWord, encodeRaw, decodeRaw, decodeEngine, Xm.ofBits_bits, check, finish, hw]
theorem F.mbxtake (h : Hdr) (tr : Bool) (d : Opd) (a : Opd) (b : Opd) : F.Statement (.mbxtake h tr d a b) := fun _ hw => by
  simp [decodeWord, encodeWord, Raw.ofWord_toWord, encodeRaw, decodeRaw, decodeQueue, Xm.ofBits_bits, check, finish, hw]
theorem F.mbxpost (h : Hdr) (tr : Bool) (d : Opd) (a : Opd) (b : Opd) : F.Statement (.mbxpost h tr d a b) := fun _ hw => by
  simp [decodeWord, encodeWord, Raw.ofWord_toWord, encodeRaw, decodeRaw, decodeQueue, Xm.ofBits_bits, check, finish, hw]
theorem F.mbxdone (h : Hdr) (d : Opd) (a : Opd) (b : Opd) : F.Statement (.mbxdone h d a b) := fun _ hw => by
  simp [decodeWord, encodeWord, Raw.ofWord_toWord, encodeRaw, decodeRaw, decodeQueue, Xm.ofBits_bits, check, finish, hw]
theorem F.recEmit (h : Hdr) (gr : BitVec 8) (d : Opd) (a : Opd) : F.Statement (.recEmit h gr d a) := fun _ hw => by
  simp [decodeWord, encodeWord, Raw.ofWord_toWord, encodeRaw, decodeRaw, decodeQueue, Xm.ofBits_bits, check, finish, hw]
theorem F.recget (h : Hdr) (d : Opd) (a : Opd) : F.Statement (.recget h d a) := fun _ hw => by
  simp [decodeWord, encodeWord, Raw.ofWord_toWord, encodeRaw, decodeRaw, decodeQueue, Xm.ofBits_bits, check, finish, hw]
theorem F.fork (h : Hdr) (d : Opd) (a : Opd) (b : Opd) : F.Statement (.fork h d a b) := fun _ hw => by
  simp [decodeWord, encodeWord, Raw.ofWord_toWord, encodeRaw, decodeRaw, decodeQueue, Xm.ofBits_bits, check, finish, hw]
theorem F.phase (h : Hdr) : F.Statement (.phase h) := fun _ hw => by
  simp [decodeWord, encodeWord, Raw.ofWord_toWord, encodeRaw, decodeRaw, decodeQueue, Xm.ofBits_bits, check, finish, hw]
theorem F.roleqRes (h : Hdr) (d : Opd) (a : Opd) : F.Statement (.roleqRes h d a) := fun _ hw => by
  simp [decodeWord, encodeWord, Raw.ofWord_toWord, encodeRaw, decodeRaw, decodeQueue, Xm.ofBits_bits, check, finish, hw]
theorem F.roleqPub (h : Hdr) (a : Opd) (b : Opd) : F.Statement (.roleqPub h a b) := fun _ hw => by
  simp [decodeWord, encodeWord, Raw.ofWord_toWord, encodeRaw, decodeRaw, decodeQueue, Xm.ofBits_bits, check, finish, hw]
theorem F.roleqTake (h : Hdr) (d : Opd) (a : Opd) : F.Statement (.roleqTake h d a) := fun _ hw => by
  simp [decodeWord, encodeWord, Raw.ofWord_toWord, encodeRaw, decodeRaw, decodeQueue, Xm.ofBits_bits, check, finish, hw]
theorem F.roleqFree (h : Hdr) (a : Opd) (b : Opd) : F.Statement (.roleqFree h a b) := fun _ hw => by
  simp [decodeWord, encodeWord, Raw.ofWord_toWord, encodeRaw, decodeRaw, decodeQueue, Xm.ofBits_bits, check, finish, hw]
theorem F.drain (h : Hdr) (a : Opd) : F.Statement (.drain h a) := fun _ hw => by
  simp [decodeWord, encodeWord, Raw.ofWord_toWord, encodeRaw, decodeRaw, decodeQueue, Xm.ofBits_bits, check, finish, hw]
theorem F.lref (h : Hdr) (slot : BitVec 12) (d : Opd) : F.Statement (.lref h slot d) := fun _ hw => by
  simp [decodeWord, encodeWord, Raw.ofWord_toWord, encodeRaw, decodeRaw, decodeTable, Xm.ofBits_bits, check, finish, hw]
theorem F.lbind (h : Hdr) (slot : BitVec 12) (d : Opd) (a : Option Opd) (b : Opd) : F.Statement (.lbind h slot d a b) := fun _ hw => by
  simp [decodeWord, encodeWord, Raw.ofWord_toWord, encodeRaw, decodeRaw, decodeTable, Xm.ofBits_bits, check, finish, Opd.decOpt_encOpt a (by simp_all [Instr.wf]), hw]
theorem F.lunb (h : Hdr) (slot : BitVec 12) (d : Opd) (a : Option Opd) : F.Statement (.lunb h slot d a) := fun _ hw => by
  simp [decodeWord, encodeWord, Raw.ofWord_toWord, encodeRaw, decodeRaw, decodeTable, Xm.ofBits_bits, check, finish, Opd.decOpt_encOpt a (by simp_all [Instr.wf]), hw]
theorem F.lqry (h : Hdr) (slot : BitVec 12) (d : Opd) (a : Option Opd) : F.Statement (.lqry h slot d a) := fun _ hw => by
  simp [decodeWord, encodeWord, Raw.ofWord_toWord, encodeRaw, decodeRaw, decodeTable, Xm.ofBits_bits, check, finish, Opd.decOpt_encOpt a (by simp_all [Instr.wf]), hw]
theorem F.sega (h : Hdr) (d : Opd) (a : Opd) : F.Statement (.sega h d a) := fun _ hw => by
  simp [decodeWord, encodeWord, Raw.ofWord_toWord, encodeRaw, decodeRaw, decodeTable, Xm.ofBits_bits, check, finish, hw]
theorem F.segf (h : Hdr) (a : Opd) : F.Statement (.segf h a) := fun _ hw => by
  simp [decodeWord, encodeWord, Raw.ofWord_toWord, encodeRaw, decodeRaw, decodeTable, Xm.ofBits_bits, check, finish, hw]
theorem F.segq (h : Hdr) (wd : BitVec 4) (d : Opd) (a : Opd) : F.Statement (.segq h wd d a) := fun _ hw => by
  simp [decodeWord, encodeWord, Raw.ofWord_toWord, encodeRaw, decodeRaw, decodeTable, Xm.ofBits_bits, check, finish, hw]
theorem F.segrt (h : Hdr) (a : Opd) (b : Opd) : F.Statement (.segrt h a b) := fun _ hw => by
  simp [decodeWord, encodeWord, Raw.ofWord_toWord, encodeRaw, decodeRaw, decodeTable, Xm.ofBits_bits, check, finish, hw]
theorem F.seal (h : Hdr) : F.Statement (.seal h) := fun _ hw => by
  simp [decodeWord, encodeWord, Raw.ofWord_toWord, encodeRaw, decodeRaw, decodeCounter, Xm.ofBits_bits, check, finish, hw]
theorem F.waitb (h : Hdr) (a : Opd) : F.Statement (.waitb h a) := fun _ hw => by
  simp [decodeWord, encodeWord, Raw.ofWord_toWord, encodeRaw, decodeRaw, decodeCounter, Xm.ofBits_bits, check, finish, hw]
theorem F.bar (h : Hdr) : F.Statement (.bar h) := fun _ hw => by
  simp [decodeWord, encodeWord, Raw.ofWord_toWord, encodeRaw, decodeRaw, decodeCounter, Xm.ofBits_bits, check, finish, hw]
theorem F.cbar (h : Hdr) : F.Statement (.cbar h) := fun _ hw => by
  simp [decodeWord, encodeWord, Raw.ofWord_toWord, encodeRaw, decodeRaw, decodeCounter, Xm.ofBits_bits, check, finish, hw]
theorem F.arrive (h : Hdr) (rm : Bool) (a : Opd) (b : Opd) (c : Opd) : F.Statement (.arrive h rm a b c) := fun _ hw => by
  have hw' := hw
  simp only [Instr.wf, Bool.and_eq_true] at hw'
  simp [decodeWord, encodeWord, Raw.ofWord_toWord, encodeRaw, decodeRaw, decodeCounter, Xc.ofBits_bits, check, finish, hw]
  intro h
  simp_all
theorem F.await (h : Hdr) (a : Opd) (b : Opd) : F.Statement (.await h a b) := fun _ hw => by
  simp [decodeWord, encodeWord, Raw.ofWord_toWord, encodeRaw, decodeRaw, decodeCounter, Xm.ofBits_bits, check, finish, hw]
theorem F.sread (h : Hdr) (ac : Bool) (d : Opd) (a : Opd) : F.Statement (.sread h ac d a) := fun _ hw => by
  simp [decodeWord, encodeWord, Raw.ofWord_toWord, encodeRaw, decodeRaw, decodeCounter, Xm.ofBits_bits, check, finish, hw]
theorem F.swrite (h : Hdr) (d : Opd) (b : Opd) : F.Statement (.swrite h d b) := fun _ hw => by
  simp [decodeWord, encodeWord, Raw.ofWord_toWord, encodeRaw, decodeRaw, decodeCounter, Xm.ofBits_bits, check, finish, hw]
theorem F.acqGrant (core : Nat) (slice : Nat) (lid : Nat) : F.Statement (.acqGrant core slice lid) := fun h => by simp [Instr.isProgram] at h
theorem F.acqDenial (core : Nat) (slice : Nat) (lid : Nat) : F.Statement (.acqDenial core slice lid) := fun h => by simp [Instr.isProgram] at h
theorem F.joinRelease (gid : Nat) (band : Nat) : F.Statement (.joinRelease gid band) := fun h => by simp [Instr.isProgram] at h
theorem F.collectiveExecute (gid : Nat) (band : Nat) : F.Statement (.collectiveExecute gid band) := fun h => by simp [Instr.isProgram] at h
theorem F.napExpiry (gid : Nat) (band : Nat) (lane : Nat) : F.Statement (.napExpiry gid band lane) := fun h => by simp [Instr.isProgram] at h
theorem F.loadReturn (id : Nat) (late : Nat) (ecc : Nat) : F.Statement (.loadReturn id late ecc) := fun h => by simp [Instr.isProgram] at h
theorem F.atomicReturn (id : Nat) : F.Statement (.atomicReturn id) := fun h => by simp [Instr.isProgram] at h
theorem F.remoteWriteApply (wid : Nat) (die : Nat) : F.Statement (.remoteWriteApply wid die) := fun h => by simp [Instr.isProgram] at h
theorem F.fenceComplete (gid : Nat) (band : Nat) (lane : Nat) : F.Statement (.fenceComplete gid band lane) := fun h => by simp [Instr.isProgram] at h
theorem F.pageMigration (ctx : Nat) (sel : Nat) (page : Nat) (die : Nat) : F.Statement (.pageMigration ctx sel page die) := fun h => by simp [Instr.isProgram] at h
theorem F.patrolScrub (die : Nat) (kind : Nat) (bad : Option Nat) : F.Statement (.patrolScrub die kind bad) := fun h => by simp [Instr.isProgram] at h
theorem F.demandPageService (ctx : Nat) (sel : Nat) (page : Nat) (grant : Bool) : F.Statement (.demandPageService ctx sel page grant) := fun h => by simp [Instr.isProgram] at h
theorem F.privateGrowthService (gid : Nat) (band : Nat) (grant : Bool) : F.Statement (.privateGrowthService gid band grant) := fun h => by simp [Instr.isProgram] at h
theorem F.twinWaitResolve (gid : Nat) (band : Nat) : F.Statement (.twinWaitResolve gid band) := fun h => by simp [Instr.isProgram] at h
theorem F.copyLanding (id : Nat) (how : CopyStep) : F.Statement (.copyLanding id how) := fun h => by simp [Instr.isProgram] at h
theorem F.copyFault (id : Nat) (piece : Nat) : F.Statement (.copyFault id piece) := fun h => by simp [Instr.isProgram] at h
theorem F.mmaStep (core : Nat) (how : CmdStep) : F.Statement (.mmaStep core how) := fun h => by simp [Instr.isProgram] at h
theorem F.mchbApply (core : Nat) (cmd : Nat) : F.Statement (.mchbApply core cmd) := fun h => by simp [Instr.isProgram] at h
theorem F.mcheApply (core : Nat) (cmd : Nat) : F.Statement (.mcheApply core cmd) := fun h => by simp [Instr.isProgram] at h
theorem F.acczApply (core : Nat) (cmd : Nat) : F.Statement (.acczApply core cmd) := fun h => by simp [Instr.isProgram] at h
theorem F.accscApply (core : Nat) (how : CmdStep) : F.Statement (.accscApply core how) := fun h => by simp [Instr.isProgram] at h
theorem F.acccvtApply (core : Nat) (cmd : Nat) : F.Statement (.acccvtApply core cmd) := fun h => by simp [Instr.isProgram] at h
theorem F.staApply (core : Nat) (cmd : Nat) : F.Statement (.staApply core cmd) := fun h => by simp [Instr.isProgram] at h
theorem F.guideApply (core : Nat) (cmd : Nat) : F.Statement (.guideApply core cmd) := fun h => by simp [Instr.isProgram] at h
theorem F.mbxtakeWake (gid : Nat) (band : Nat) : F.Statement (.mbxtakeWake gid band) := fun h => by simp [Instr.isProgram] at h
theorem F.mbxpostWake (gid : Nat) (band : Nat) : F.Statement (.mbxpostWake gid band) := fun h => by simp [Instr.isProgram] at h
theorem F.nodeCountdownExpiry (part : Nat) (gather : Nat) (pol : Policy) : F.Statement (.nodeCountdownExpiry part gather pol) := fun h => by simp [Instr.isProgram] at h
theorem F.childAdmit (part : Nat) (pol : Policy) : F.Statement (.childAdmit part pol) := fun h => by simp [Instr.isProgram] at h
theorem F.spillRefill (ctx : Nat) (part : Nat) : F.Statement (.spillRefill ctx part) := fun h => by simp [Instr.isProgram] at h
theorem F.forkResume (gid : Nat) (core : Nat) (cls : Nat) : F.Statement (.forkResume gid core cls) := fun h => by simp [Instr.isProgram] at h
theorem F.inlineChildEnd (gid : Nat) : F.Statement (.inlineChildEnd gid) := fun h => by simp [Instr.isProgram] at h
theorem F.phaseReseat (core : Nat) : F.Statement (.phaseReseat core) := fun h => by simp [Instr.isProgram] at h
theorem F.roleqWake (gid : Nat) (band : Nat) : F.Statement (.roleqWake gid band) := fun h => by simp [Instr.isProgram] at h
theorem F.pennantPass (ctx : Nat) (graph : Nat) : F.Statement (.pennantPass ctx graph) := fun h => by simp [Instr.isProgram] at h
theorem F.nameResolution (ctx : Nat) (sel : Nat) (slot : Nat) : F.Statement (.nameResolution ctx sel slot) := fun h => by simp [Instr.isProgram] at h
theorem F.sealRelease (gid : Nat) (band : Nat) (lane : Nat) : F.Statement (.sealRelease gid band lane) := fun h => by simp [Instr.isProgram] at h
theorem F.waitbRelease (gid : Nat) (band : Nat) (lane : Nat) : F.Statement (.waitbRelease gid band lane) := fun h => by simp [Instr.isProgram] at h
theorem F.barRelease (gid : Nat) : F.Statement (.barRelease gid) := fun h => by simp [Instr.isProgram] at h
theorem F.cbarRelease (cid : Nat) : F.Statement (.cbarRelease cid) := fun h => by simp [Instr.isProgram] at h
theorem F.arriveApply (id : Nat) : F.Statement (.arriveApply id) := fun h => by simp [Instr.isProgram] at h
theorem F.awaitRelease (gid : Nat) (band : Nat) : F.Statement (.awaitRelease gid band) := fun h => by simp [Instr.isProgram] at h
theorem F.bandSelect (picks : List (Nat × Nat)) : F.Statement (.bandSelect picks) := fun h => by simp [Instr.isProgram] at h
theorem F.admissionCommit (part : Nat) : F.Statement (.admissionCommit part) := fun h => by simp [Instr.isProgram] at h
theorem F.seating (core : Nat) : F.Statement (.seating core) := fun h => by simp [Instr.isProgram] at h
theorem F.groupRestore (core : Nat) : F.Statement (.groupRestore core) := fun h => by simp [Instr.isProgram] at h
theorem F.groupPreempt (gid : Nat) : F.Statement (.groupPreempt gid) := fun h => by simp [Instr.isProgram] at h
theorem F.partitionSave (part : Nat) (slot : Nat) : F.Statement (.partitionSave part slot) := fun h => by simp [Instr.isProgram] at h
theorem F.partitionRestore (part : Nat) (slot : Nat) : F.Statement (.partitionRestore part slot) := fun h => by simp [Instr.isProgram] at h
theorem F.partitionExchange (part : Nat) (slot : Nat) : F.Statement (.partitionExchange part slot) := fun h => by simp [Instr.isProgram] at h
theorem F.haltLineArrival (ctx : Nat) (core : Nat) : F.Statement (.haltLineArrival ctx core) := fun h => by simp [Instr.isProgram] at h
theorem F.haltSettled (ctx : Nat) : F.Statement (.haltSettled ctx) := fun h => by simp [Instr.isProgram] at h
theorem F.unbindComplete (ctx : Nat) (sel : Nat) (slot : Nat) : F.Statement (.unbindComplete ctx sel slot) := fun h => by simp [Instr.isProgram] at h
theorem F.moveComplete (gid : Nat) : F.Statement (.moveComplete gid) := fun h => by simp [Instr.isProgram] at h
theorem F.scrubComplete : F.Statement (.scrubComplete) := fun h => by simp [Instr.isProgram] at h
theorem F.serviceWindowAccess (addr : Nat) (size : Nat) (wr : Option (BitVec 64)) : F.Statement (.serviceWindowAccess addr size wr) := fun h => by simp [Instr.isProgram] at h
theorem F.mailboxSubmit (ctx : Nat) (mbx : Nat) (store : List Byte) : F.Statement (.mailboxSubmit ctx mbx store) := fun h => by simp [Instr.isProgram] at h
theorem F.recordAccept (ctx : Nat) (mbx : Nat) : F.Statement (.recordAccept ctx mbx) := fun h => by simp [Instr.isProgram] at h
theorem F.launchRecord (ctx : Nat) (mbx : Nat) (pol : Policy) : F.Statement (.launchRecord ctx mbx pol) := fun h => by simp [Instr.isProgram] at h
theorem F.ctxCreate (r : Req) (image : List Byte) : F.Statement (.ctxCreate r image) := fun h => by simp [Instr.isProgram] at h
theorem F.ctxDestroy (r : Req) : F.Statement (.ctxDestroy r) := fun h => by simp [Instr.isProgram] at h
theorem F.segCreate (r : Req) (desc : List Byte) : F.Statement (.segCreate r desc) := fun h => by simp [Instr.isProgram] at h
theorem F.segFree (r : Req) (sel : BitVec 16) : F.Statement (.segFree r sel) := fun h => by simp [Instr.isProgram] at h
theorem F.codeInstall (r : Req) (image : List Byte) : F.Statement (.codeInstall r image) := fun h => by simp [Instr.isProgram] at h
theorem F.codeRemove (r : Req) (sel : BitVec 16) : F.Statement (.codeRemove r sel) := fun h => by simp [Instr.isProgram] at h
theorem F.mailboxSet (r : Req) (mbx : Nat) (desc : List Byte) : F.Statement (.mailboxSet r mbx desc) := fun h => by simp [Instr.isProgram] at h
theorem F.unbind (r : Req) (args : List Byte) : F.Statement (.unbind r args) := fun h => by simp [Instr.isProgram] at h
theorem F.stop (r : Req) : F.Statement (.stop r) := fun h => by simp [Instr.isProgram] at h
theorem F.resumeCtx (r : Req) : F.Statement (.resumeCtx r) := fun h => by simp [Instr.isProgram] at h
theorem F.teardown (r : Req) : F.Statement (.teardown r) := fun h => by simp [Instr.isProgram] at h
theorem F.readHalt (r : Req) (addr : BitVec 64) : F.Statement (.readHalt r addr) := fun h => by simp [Instr.isProgram] at h
theorem F.reply (r : Req) (seq : Word) (value : ReplyVal) : F.Statement (.reply r seq value) := fun h => by simp [Instr.isProgram] at h
theorem F.eventRing (r : Req) (ring : BitVec 64) (produced : BitVec 64) (k : Nat) : F.Statement (.eventRing r ring produced k) := fun h => by simp [Instr.isProgram] at h
theorem F.eventRingConsumed (port : Nat) (index : Word) : F.Statement (.eventRingConsumed port index) := fun h => by simp [Instr.isProgram] at h
theorem F.leaseRenew (r : Req) (n : Word) : F.Statement (.leaseRenew r n) := fun h => by simp [Instr.isProgram] at h
theorem F.leaseTake (r : Req) (n : Word) : F.Statement (.leaseTake r n) := fun h => by simp [Instr.isProgram] at h
theorem F.leaseCountdown : F.Statement (.leaseCountdown) := fun h => by simp [Instr.isProgram] at h
theorem F.setMode (r : Req) (mode : BitVec 6) : F.Statement (.setMode r mode) := fun h => by simp [Instr.isProgram] at h
theorem F.powerCap (r : Req) (watts : Nat) : F.Statement (.powerCap r watts) := fun h => by simp [Instr.isProgram] at h
theorem F.sealKey (r : Req) (slot : Nat) (sel : BitVec 16) (key : List Byte) (tags : BitVec 64) : F.Statement (.sealKey r slot sel key tags) := fun h => by simp [Instr.isProgram] at h
theorem F.aperture (r : Req) (sel : BitVec 16) : F.Statement (.aperture r sel) := fun h => by simp [Instr.isProgram] at h
theorem F.bind (r : Req) (args : List Byte) : F.Statement (.bind r args) := fun h => by simp [Instr.isProgram] at h
theorem F.bar2Access (port : Nat) (off : Nat) (n : Nat) (op : Bar2Op) (ide : Bool) : F.Statement (.bar2Access port off n op ide) := fun h => by simp [Instr.isProgram] at h
theorem F.bar0WriteOther (port : Nat) (op : Bar0Op) : F.Statement (.bar0WriteOther port op) := fun h => by simp [Instr.isProgram] at h
theorem F.peerTimeout (id : Nat) : F.Statement (.peerTimeout id) := fun h => by simp [Instr.isProgram] at h
theorem F.fabricPortFail (port : Nat) : F.Statement (.fabricPortFail port) := fun h => by simp [Instr.isProgram] at h
theorem F.lockstepMismatch (die : Nat) : F.Statement (.lockstepMismatch die) := fun h => by simp [Instr.isProgram] at h
theorem F.heartbeat : F.Statement (.heartbeat) := fun h => by simp [Instr.isProgram] at h
theorem F.ensignTakeover : F.Statement (.ensignTakeover) := fun h => by simp [Instr.isProgram] at h
theorem F.coldBoot (boot : BootConfig) : F.Statement (.coldBoot boot) := fun h => by simp [Instr.isProgram] at h
theorem F.warmReset (pass : List Nat) : F.Statement (.warmReset pass) := fun h => by simp [Instr.isProgram] at h
theorem F.dieReset (die : Nat) : F.Statement (.dieReset die) := fun h => by simp [Instr.isProgram] at h
theorem F.levelRaise : F.Statement (.levelRaise) := fun h => by simp [Instr.isProgram] at h
theorem F.spdmRequest (port : Nat) (m : SpdmMsg) : F.Statement (.spdmRequest port m) := fun h => by simp [Instr.isProgram] at h
theorem F.tdiConfigChange (port : Nat) : F.Statement (.tdiConfigChange port) := fun h => by simp [Instr.isProgram] at h
theorem F.pageSeal (ctx : Nat) (sel : Nat) (page : Nat) : F.Statement (.pageSeal ctx sel page) := fun h => by simp [Instr.isProgram] at h
theorem F.powerThrottle (watts : Nat) (hot : Bool) : F.Statement (.powerThrottle watts hot) := fun h => by simp [Instr.isProgram] at h
theorem F.powerRestore (watts : Nat) : F.Statement (.powerRestore watts) := fun h => by simp [Instr.isProgram] at h
theorem F.peerRequest (p : PeerAccess) : F.Statement (.peerRequest p) := fun h => by simp [Instr.isProgram] at h
theorem F.peerGrant (ctx : Nat) (dev : Nat) (peerCtx : Nat) (outgoing : Bool) : F.Statement (.peerGrant ctx dev peerCtx outgoing) := fun h => by simp [Instr.isProgram] at h
theorem F.tdispRequest (port : Nat) (m : TdispMsg) : F.Statement (.tdispRequest port m) := fun h => by simp [Instr.isProgram] at h
theorem F.fabricPortRetrained (port : Nat) : F.Statement (.fabricPortRetrained port) := fun h => by simp [Instr.isProgram] at h

end Sys2Proof.Laws
end

