-- ==== Sys2Proof/Laws/Results.lean ====
section
/-! SUPPORT. What the shared operations do, once each: predicate results, integer results, a split that goes on or waits, a response, a halt
line that rises, and a band that takes a halt. -/

namespace Sys2Proof.Machine

open Sys2Proof.Safety

/-! ### Results -/

/-- putP gives the predicate result, with flags. -/
theorem putP_result (t : Thread) (p : BitVec 3) (x : Bool) (f : Word) (to_ : PC) :
    ResultP (.p p) x f t (((t.setFlags f).putP (.p p) x).advance to_) := by
  constructor
  · intro k
    by_cases hk : k = 7#3
    · subst hk; simp [isPred, Thread.getP]
    · by_cases hp : p = 7#3
      · subst hp; simp [Thread.putP, Thread.advance, Thread.setP, Thread.push, isPred, Thread.getP, Thread.setFlags, hk, Ne.symm hk]
      · simp only [Thread.putP, Thread.advance, Thread.setP, Thread.push, Thread.getP, Thread.setFlags, isPred]
        have := getLsbD_setBit7 t.p p x k hp hk
        by_cases h : p = k
        · subst h; simp_all
        · simp_all
  · simp [Thread.putP, Thread.advance, Thread.setP, Thread.push, LQueue.push, Thread.setFlags]
  · simp [Thread.putP, Thread.advance, Thread.setP, Thread.push, LQueue.push, Thread.setFlags]
  · simp [Thread.putP, Thread.advance, Thread.setP, Thread.push, LQueue.push, Thread.setFlags]
/-- putP gives the predicate result. -/
theorem putP_result0 (t : Thread) (p : BitVec 3) (x : Bool) (to_ : PC) :
    ResultP (.p p) x 0 t ((t.putP (.p p) x).advance to_) := by
  have := putP_result t p x 0 to_
  simpa [Thread.setFlags] using this

/-- An integer instruction of two operands (R122). -/
theorem intOp2_result {s c g b h t sat d x y z i} {f : Int → Int → Int} {f' : Int → Int → Int → Int} (he : exec i s = intOp2 s h t sat d x y f) (hs : Issuing s c g b) (ht : IntType t)
   (hu : InAllotment g b [(d, width t.is64), (x, width t.is64), (y, width t.is64), (z, width t.is64)]) (hf : ∀ p q r, f' p q r = f p q) :
   IntResult s c g b h t sat d x y z i f' := by
  have hf : f' = fun p q _ => f p q := by funext p q r; exact hf p q r
  subst hf
  simp only [intOp2] at he
  refine laneOp_result he hs (fun u hu' => hu u (by simp at hu' ⊢; rcases hu' with h | h | h <;> simp [h])) fun e => ?_
  exact ⟨_, by
    have := elementwise_intEval t ht sat (fun p q _ => f p q) (e.int t x) (e.int t y) (e.int t z)
    exact this, put_result ..⟩
/-- An integer instruction of one operand (R122). -/
theorem intOp1_result {s c g b h t sat d x y z i} {f : Int → Int} {f' : Int → Int → Int → Int} (he : exec i s = intOp1 s h t sat d x f) (hs : Issuing s c g b) (ht : IntType t)
   (hu : InAllotment g b [(d, width t.is64), (x, width t.is64), (y, width t.is64), (z, width t.is64)]) (hf : ∀ p q r, f' p q r = f p) :
   IntResult s c g b h t sat d x y z i f' := by
  have hf : f' = fun p q _ => f p := by funext p q r; exact hf p q r
  subst hf
  simp only [intOp1] at he
  refine laneOp_result he hs (fun u hu' => hu u (by simp at hu' ⊢; rcases hu' with h | h <;> simp [h])) fun e => ?_
  exact ⟨_, by
    have := elementwise_intEval t ht sat (fun p q _ => f p) (e.int t x) (e.int t y) (e.int t z)
    exact this, put_result ..⟩


/-! ### Splits that go on or wait -/

/-- Every lane of the split goes on, and nothing else changes (R58). -/
theorem advanceSplit_result {s : State} {c : Slot} {g : Group} {b : Band} {i : Instr} (hs : Issuing s c g b)
    (he : exec i s = .next (s.advanceSplit c)) : SplitResult s c b i fun _ => WentOn c.next :=
  ⟨_, _, he, onlyBand_modBand hs.group hs.band _, lanes_onLanes _ _ _ fun _ _ _ => rfl⟩

/-- Every lane of the split waits, and nothing else changes. -/
theorem holdLanes_result {s : State} {c : Slot} {g : Group} {b : Band} {i : Instr} {w : Wait} (hs : Issuing s c g b)
    (he : exec i s = .next (s.holdLanes c c.active w)) : SplitResult s c b i fun _ => Waits w c.next :=
  ⟨_, _, he, onlyBand_modBand hs.group hs.band _, lanes_onLanes _ _ _ fun _ _ _ => rfl⟩

/-! ### Responses and halt lines -/

/-- A response is the last one added (R344). -/
theorem respond_resps (s : State) (r : Req) (status : Nat) (v : W64) :
    (s.respond r status v).resps = s.resps ++ [⟨r.party, r.tag, status, v⟩] := by
  unfold State.respond; cases partyPort r.party <;> rfl
/-- A response leaves contexts, groups and cores as they were. -/
theorem respond_rest (s : State) (r : Req) (status : Nat) (v : W64) :
    (s.respond r status v).ctxs = s.ctxs ∧ (s.respond r status v).groups = s.groups ∧ (s.respond r status v).cores = s.cores := by
  unfold State.respond; cases partyPort r.party <;> exact ⟨rfl, rfl, rfl⟩
/-- A response keeps memory canonical. -/
theorem respond_wf (s : State) (r : Req) (status : Nat) (v : W64) (h : Memory.wf s.mem = true) :
    Memory.wf (s.respond r status v).mem = true := by
  unfold State.respond; cases partyPort r.party with
  | none => exact h
  | some q => exact Memory.wf_memPut _ h
/-- A response whose value the spec does not state is the last one added. -/
theorem answer_resps (s : State) (r : Req) (status : Nat) :
    ∃ v, (s.answer r status).resps = s.resps ++ [⟨r.party, r.tag, status, v⟩] := ⟨_, respond_resps ..⟩

/-- A halt line that is low rises, with its reason, its PC and one halt sequence more (R323). -/
theorem raiseLine_low {s : State} {ctx : Nat} {x : Context} (reason : Nat) (pc : W64) (hx : s.ctx? ctx = some x) (hl : x.line = false) :
    (s.raiseLine ctx reason pc).ctx? ctx = some { x with
      line := true, arrived := [], halt := .halting, haltSeq := x.haltSeq + 1, haltReason := reason, haltPc := pc, haltBy := none, area := [] } := by
  simp only [State.ctx?] at hx ⊢
  simp [State.raiseLine, State.modCtx, tabGet_tabMod, hx, hl]
/-- A halt line that is high stays as it is. -/
theorem raiseLine_high {s : State} {ctx : Nat} {x : Context} (reason : Nat) (pc : W64) (hx : s.ctx? ctx = some x) (hl : x.line = true) :
    (s.raiseLine ctx reason pc).ctx? ctx = some x := by
  simp only [State.ctx?] at hx ⊢
  simp [State.raiseLine, State.modCtx, tabGet_tabMod, hx, hl]
/-- Taking a halt changes neither memory nor a write in flight (R324). -/
theorem takeHalt_memory (s : State) (gid band reason : Nat) (active : Word) (pc : PC) (word : W96) (byteOff : Word) (arg : W64) :
    (s.takeHalt gid band reason active pc word byteOff arg).mem = s.mem ∧
      (s.takeHalt gid band reason active pc word byteOff arg).writes = s.writes := by
  unfold State.takeHalt State.raiseFault
  repeat' split
  all_goals exact ⟨rfl, rfl⟩

end Sys2Proof.Machine
end

