-- ==== Sys2Proof/Machine/Image.lean ====
section
/-! DEFINITION. A group save image as bytes (R337): a view of what a group's record, its scratchpad and its engine operations hold. No step
reads these bytes: programs never address them, and a restore takes the record itself. -/

namespace Sys2Proof.Machine

/-- The bytes of a 32-bit word. -/
def wordBytes (x : Word) : List Byte := bytesOfNat 4 x.toNat
/-- The rows that a band's threads hold, the base set and then the held chunks (R334). -/
def bandRows (g : Group) (b : Band) : List Nat :=
  (List.range g.budget).map (b.row0 + ·) ++ b.allChunks.flatMap fun r => (List.range 16).map (r + ·)
/-- A thread's V registers in the order of its rows. -/
def vSection (g : Group) (b : Band) (t : Thread) : List Byte :=
  (bandRows g b).flatMap fun row =>
    match rowReg g b row with
    | some (0, k) => wordBytes (t.getV k)
    | some (d + 1, k) => wordBytes (tabGetD (t.vUnder.getD d []) k 0)
    | none => wordBytes 0
/-- A thread's O file and then its L file. -/
def olSection (t : Thread) : List Byte :=
  (List.range 16).flatMap (fun k => wordBytes (t.getO k)) ++ (List.range 4).flatMap fun k => wordBytes (t.lq.get (BitVec.ofNat 2 k)).val
/-- A band's seat record, its row fields zero, and its B registers. -/
def bandSection (g : Group) (i : Nat) (b : Band) : List Byte :=
  seatRecord g i { b with row0 := 0, chunks := List.replicate 15 0, under := [] } ++ (List.range 64).flatMap fun k => wordBytes (b.getB k)
/-- A tile and its chain state, whose layout the spec leaves open (log entry 92). -/
def tileSection (x : Tile) : List Byte :=
  (List.range 4096).flatMap (fun k => wordBytes (tabGetD x.acc k 0)) ++ Config.chainBytes x.ovf (x.chain.map fun c => (c.anchor, c.acc0, c.sums, c.spec))
/-- The engine's operations of a group: queued commands, tile and gather snapshots, and pending follow-ons, each in a layout that the spec
leaves open (log entry 92). -/
def State.engineSection (s : State) (gid : Nat) (g : Group) : List Byte :=
  (g.saveQ.map (·.id) ++ (s.copies.filter fun cp => cp.gid == gid && cp.away).map (·.id) ++ g.follows.map (·.id)).flatMap Config.snapshotBytes
/-- The seven sections, in the order of the header's offsets. -/
def State.imageSections (s : State) (gid : Nat) (g : Group) : List (List Byte) :=
  let threads (f : Band → Thread → List Byte) : List Byte := (g.bands.flatMap fun b => b.threads.map (f b)).take g.n |>.flatten
  [threads fun _ t => t.control, (mapIdx (fun i b => bandSection g i b) g.bands 0).flatten, threads fun b t => vSection g b t,
    threads fun _ t => olSection t, (List.range g.scratch).map fun o => memGet s.mem (scratchKey gid o),
    (g.tiles.filter fun p => g.accMask.getLsbD p.1).flatMap (tileSection ·.2), s.engineSection gid g]
/-- Where each section begins, when each follows the one before at once (log entry 92). -/
def offsets (at_ : Nat) : List (List Byte) → List Nat
  | [] => []
  | x :: t => at_ :: offsets (at_ + x.length) t
/-- The header (R337). -/
def State.imageHeader (s : State) (g : Group) (secs : List (List Byte)) : List Byte :=
  [if g.place == .forked then 1 else 2, BitVec.ofNat 8 (bitAt g.halted 0 + bitAt (!g.moving) 1)] ++ bytesOfNat 2 g.ctx ++
    bytesOfNat 4 (((tabGet s.clusters g.cid).map (·.number)).getD 0) ++ [BitVec.ofNat 8 g.number, BitVec.ofNat 8 g.bands.length] ++
    bytesOfNat 2 g.n ++ bytesOfNat 2 g.budget ++ bytesOfNat 2 g.accMask.toNat ++
    bytesOfNat 8 (((s.launch? g.lid).map (·.handle.toNat)).getD 0) ++ bytesOfNat 4 g.scratch ++ bytesOfNat 4 (256 + secs.flatten.length) ++
    (offsets 256 secs).flatMap (bytesOfNat 4) ++ wordBytes g.cbarCount ++ (List.range 8).flatMap (fun i => wordBytes (tabGetD g.arrive i 0)) ++
    List.replicate 160 0
/-- The save image of a group swapped out by FORK or pre-empted. -/
def State.groupImage (s : State) (gid : Nat) : List Byte :=
  match s.group? gid with
  | some g => s.imageHeader g (s.imageSections gid g) ++ (s.imageSections gid g).flatten
  | none => []

end Sys2Proof.Machine
end

