-- ==== Sys2Proof/Tests/Slice0.lean ====
section
/-! SUPPORT. Tests of single instructions: words written out from the encodings of the spec and the instructions they decode to, an ill-formed
term for each check, and one step on a small state whose result is worked out by hand from the rule named. -/

namespace Sys2Proof.Tests

open Sys2Proof.Machine

set_option Elab.async false

/-- A header with no guard, no lookahead and no hint. -/
def hd : Hdr := ⟨7, false, 0, .none⟩
/-- The instruction some packed bytes decode to, and its length. -/
def dec (bs : List Byte) : Option (Instr × Nat) := (decode bs).toOption.map fun p => (p.1, p.2.1)

/-! ### Decoding: the worked words of spec/03, spec/04 and the programs, and words put together from R53 to R72 -/

theorem test_decode_iadd : dec [0xD7, 0x08, 0x10, 0xA8, 0x50, 0x0C, 0xF9, 0x3F, 0x02] =
    some (.iadd ⟨2, true, 2, .none⟩ .i32 false (.v 5) (.v 3) (.imm (-7)), 9) := by decide +kernel
theorem test_decode_imul : dec [0xE7, 0x00, 0x14, 0x1C, 0x20, 0xC0, 0x03, 0x38] =
    some (.imul hd .dflt false (.v 2) (.s .thread) (.imm 3), 8) := by decide +kernel
theorem test_decode_and : dec [0xF7, 0x00, 0x40, 0x1C, 0x30, 0x04, 0xC0, 0x03, 0x38] =
    some (.and hd .dflt (.v 3) (.s .lane) (.imm 3), 9) := by decide +kernel
theorem test_decode_icmp : dec [0xF7, 0x01, 0x1E, 0x1C, 0x10, 0x06, 0xC0, 0x18, 0x38, 0x05] =
    some (.icmp hd .dflt .ge (.p 1) (.s .lane) (.imm 24), 10) := by decide +kernel
theorem test_decode_bred : dec [0x1F, 0x00, 0x52, 0x1D, 0x40, 0x80, 0x09] =
    some (.bred hd .dflt false .add (.b 4) (.v 2), 7) := by decide +kernel
theorem test_decode_bmov : dec [0xDF, 0x00, 0x4C, 0x1D, 0x40, 0x80, 0x01, 0x11, 0x30] =
    some (.bmov hd .dflt (.b 4) (.s .active), 9) := by decide +kernel
theorem test_decode_cvt : dec [0x37, 0x0E, 0xE0, 0x1C, 0x10, 0x04, 0xC0, 0x80, 0x04, 0x06] =
    some (.cvt hd .f32 .n32 .rn false false false (.v 1) (.s .lane), 10) := by decide +kernel
theorem test_decode_sinpi : dec [0x1F, 0x00, 0xF6, 0x1C, 0xC0, 0x01, 0x60] =
    some (.sinpi hd .dflt false (.v 28) (.v 24), 7) := by decide +kernel
theorem test_decode_shfl : dec [0xD6, 0x01, 0x1D, 0x20, 0x04, 0x01, 0x38, 0x02] =
    some (.shfl hd .dflt .down .w32 (.v 2) (.v 1) (.imm 1), 8) := by decide +kernel
theorem test_decode_lred : dec [0x17, 0x08, 0x08, 0x1D, 0x30, 0x08, 0x06] =
    some (.lred hd .f32 .rn false false .add (.v 3) (.v 2), 7) := by decide +kernel
theorem test_decode_bra : dec [0x03, 0x01, 0x80, 0x1D, 0x07] = some (.bra hd 7, 5) := by decide +kernel
theorem test_decode_join : dec [0x33, 0x00, 0x86, 0x1D, 0x14, 0x60] = some (.join hd (.b 5), 6) := by decide +kernel
theorem test_decode_ld : dec [0xD7, 0x0D, 0xC0, 0x1D, 0x40, 0x20, 0x10, 0x38, 0x01, 0x40, 0x02] =
    some (.ld hd .i32 .dv .acq false 0 (.v 4) (.v 8) (.imm 16), 11) := by decide +kernel
theorem test_decode_symst : dec [0x57, 0x08, 0x10, 0x1E, 0xC0, 0x08, 0x06, 0x06] =
    some (.symst hd .f32 false (.v 12) (.v 2) (.v 6), 8) := by decide +kernel
theorem test_decode_mma : dec [0xFF, 0x0F, 0x80, 0x1E, 0x30, 0x80, 0x2A, 0x60, 0x0B, 0x18, 0x0C, 0xD8, 0x88, 0x08] =
    some (.mma hd .e2m1 .e2m1 true (.acc 3) (.b 10) (.b 11) (.b 12), 14) := by decide +kernel
theorem test_decode_mbxtake : dec [0xBF, 0x00, 0xC0, 0x1E, 0x40, 0x80, 0x0D, 0xE0, 0x3A] =
    some (.mbxtake hd false (.b 4) (.imm 3) (.imm 512), 9) := by decide +kernel
theorem test_decode_lref : dec [0x06, 0x01, 0x1F, 0x40, 0x05] = some (.lref hd 5 (.v 4), 5) := by decide +kernel
theorem test_decode_arrive : dec [0xE3, 0x03, 0x50, 0x1F, 0xE0, 0x01, 0x38, 0x01, 0x78] =
    some (.arrive hd true (.imm 0) (.imm 1) (.imm 1), 9) := by decide +kernel
theorem test_decode_sread : dec [0x37, 0x00, 0x58, 0x1F, 0xD0, 0x04, 0xC1] =
    some (.sread hd false (.v 13) (.s .bdone), 7) := by decide +kernel
/-- A code no entry names (R78), a set reserved mask bit (R70), a reserved type code (R63), an odd pair (R56), and bytes that end early. -/
theorem test_decode_refuses : (decode [0x03, 0x00, 0xFF, 0x1F]).toOption = none ∧ (decode [0x03, 0x10, 0x40, 0x1F]).toOption = none ∧
    (decode [0x17, 0x08, 0x10, 0x1C, 0x30, 0x80, 0x0F]).toOption = none ∧ (decode [0x06, 0x01, 0x1F, 0x50, 0x05]).toOption = none ∧
    (decode [0x33, 0x00, 0x86, 0x1D, 0x14]).toOption = none := by decide +kernel
/-- A row of the opcode table: EXIT's word. -/
theorem test_table_word : decodeTableWord 96 0x1D87 = some (.exit ⟨7, false, 0, .none⟩) := by decide +kernel

/-! ### Ill-formed terms: one for each kind of check of WellFormed -/

/-- The types an entry accepts (R118, R142, R192, R206). -/
theorem test_wf_types : (Instr.and hd .f32 (.v 0) (.v 1) (.v 2)).wf = false ∧ (Instr.iadd hd .f16 false (.v 0) (.v 1) (.v 2)).wf = false ∧
    (Instr.imul hd .i8 false (.v 0) (.v 1) (.v 2)).wf = false ∧ (Instr.badd hd .i64 false (.b 0) (.b 1) (.b 2)).wf = false ∧
    (Instr.fadd hd .f16 .rn false (.v 0) (.v 1) (.v 2)).wf = false ∧ (Instr.fadd2 hd .f32 .rn false (.v 0) (.v 1) (.v 2)).wf = false ∧
    (Instr.rcp hd .f64 false (.v 0) (.v 2)).wf = false ∧ (Instr.ldLong hd (.v 0) (.v 3) 0).wf = false ∧
    (Instr.ld hd .f32 .bd .none false 0 (.v 0) (.v 2) (.imm 0)).wf = false ∧ (Instr.afadd hd .i32 .bd .none (.v 0) (.v 2) (.v 4)).wf = false ∧
    (Instr.mma hd .dflt .i8 false (.acc 0) (.imm 0) (.imm 0) (.v 0)).wf = false := by decide
/-- Destinations and sources by class and width (R55, R56, R114, R131, R207). -/
theorem test_wf_operands : (Instr.mov hd .i64 (.v 1) (.v 2)).wf = false ∧ (Instr.mov hd .i32 (.b 0) (.v 2)).wf = false ∧
    (Instr.mov hd .i64 (.v 0) (.v 3)).wf = false ∧ (Instr.mov hd .i32 (.v 0) (.s .cyc)).wf = false ∧
    (Instr.sel hd .i32 (.v 0) (.v 1) (.v 2) (.v 3)).wf = false ∧ (Instr.icmp hd .i32 .eq (.q 0) (.v 1) (.v 2)).wf = false ∧
    (Instr.badd hd .i32 false (.b 0) (.v 1) (.imm 2)).wf = false ∧ (Instr.badd hd .i32 false (.b 0) (.s .lane) (.imm 2)).wf = false ∧
    (Instr.bcmp hd .i32 .eq (.p 0) (.b 1) (.b 2)).wf = false ∧ (Instr.hsel hd (.v 0) (.v 3)).wf = false ∧
    (Instr.acq hd false (.q 0) (.s .slice)).wf = false ∧ (Instr.st hd .i32 .bd .none false 0 (.s .lane) (.v 2) (.imm 0)).wf = false ∧
    (Instr.push hd 0 (.b 0) (.v 1)).wf = false ∧ (Instr.symst hd .f32 false (.v 0) (.v 2) (.v 254)).wf = false ∧
    (Instr.mche hd (.v 0)).wf = false ∧ (Instr.mbxtake hd false (.b 1) (.imm 0) (.imm 0)).wf = false ∧
    (Instr.recget hd (.v 0) (.p 7)).wf = false ∧ (Instr.join hd (.v 0)).wf = false ∧ (Instr.lbind hd 0 (.q 0) (some (.v 1)) (.b 0)).wf = false ∧
    (Instr.swrite hd (.s .lane) (.v 0)).wf = false ∧ (Instr.sread hd false (.v 1) (.s .cyc)).wf = false := by decide
/-- Modifiers that an entry does not accept, and fields that a modifier leaves unused (R54, R56, R142, R152 to R154, R192). -/
theorem test_wf_modifiers : (Instr.bred hd .i32 true .min (.b 0) (.v 1)).wf = false ∧
    (Instr.lred hd .i32 .rz false false .add (.v 0) (.v 1)).wf = false ∧ (Instr.cvt hd .i32 .i32 .rn false false false (.v 0) (.v 1)).wf = false ∧
    (Instr.cvt hd .f32 .i32 .rn false false true (.v 0) (.v 1)).wf = false ∧ (Instr.pack hd .e4m3 .rn false false 1 (.v 0) (.v 1) (.v 2)).wf = false ∧
    (Instr.unpk hd .f16 2 false (.v 0) (.v 1) (.v 0)).wf = false ∧ (Instr.unpk hd .f16 0 false (.v 0) (.v 1) (.v 3)).wf = false ∧
    (Instr.ld hd .i32 .bd .rel false 0 (.v 0) (.v 2) (.imm 0)).wf = false ∧ (Instr.ld hd .i32 .dv .none false 0 (.v 0) (.v 2) (.imm 0)).wf = false ∧
    (Instr.ld hd .i32 .bd .none false 3 (.v 0) (.v 2) (.imm 0)).wf = false ∧ (Instr.st hd .i32 .bd .acq false 0 (.v 0) (.v 2) (.imm 0)).wf = false ∧
    (Instr.arrive hd false (.imm 0) (.imm 1) (.imm 2)).wf = false ∧ (Instr.acccvt hd .e2m1 false (.acc 0) (.imm 0) (.v 0)).wf = false := by decide
/-- A word whose fields break a check is refused by the decoder. -/
theorem test_wf_refused : (decodeWord (encodeWord (.mov hd .i64 (.v 1) (.v 2)))).toOption = none ∧
    (decodeWord (encodeWord (.join hd (.v 0)))).toOption = none := by decide +kernel

/-! ### A small state: one band of 32 threads, in the code segment of context 1, with a data segment under selector 2 -/

/-- The context. -/
def ctx1 : Context := { placedContext 8 with
  segs := [(1, { Desc.zero with kind := 4, limit := 8, rights := kindRights 4 }), (2, { Desc.zero with kind := 1, limit := 4096, rights := kindRights 1 })] }
/-- The issuing split: the whole band, at offset 0 of the code segment. -/
def slot0 : Slot := ⟨0, 0, BitVec.allOnes 32, ⟨1, 0⟩, ⟨1, 4⟩, 0, false⟩
/-- The state: two EXITs as code, with headers at 0 and 4. -/
def st0 : State := { State.reset.placed [0x03, 0x00, 0x87, 0x1D, 0x03, 0x00, 0x87, 0x1D] [0x11] with
  issueQ := [], cur := some slot0, ctxs := [(1, ctx1)] }
/-- The state with every thread of the band changed. -/
def mapLanes (s : State) (f : Nat → Thread → Thread) : State :=
  s.modBand 0 0 fun b => b.onLanes (BitVec.allOnes 32) f
/-- The state with V registers set in every lane. -/
def withV (vs : List (Nat × Word)) : State := mapLanes st0 fun _ t => { t with v := vs }
/-- The state with V register 1 holding the lane number. -/
def withLanes : State := mapLanes st0 fun i t => { t with v := [(1, BitVec.ofNat 32 i)] }
/-- The state with B registers set. -/
def withB (bs : List (Nat × Word)) : State := st0.modBand 0 0 fun b => { b with b := bs }
/-- The state after an instruction. -/
def after (i : Instr) (s : State) : Option State :=
  match exec i s with
  | .next t => some t
  | _ => none
/-- The thread of a lane after an instruction. -/
def thr (i : Instr) (s : State) (l : Nat := 0) : Option Thread := (after i s).bind fun t => t.thread? 0 0 l
/-- A V register after an instruction, in lane 0 unless said. -/
def rv (i : Instr) (s : State) (k : Nat) (l : Nat := 0) : Option Word := (thr i s l).map (·.getV k)
/-- A P register after an instruction. -/
def rp (i : Instr) (s : State) (k : BitVec 3) : Option Bool := (thr i s).map (·.getP k)
/-- A B register after an instruction. -/
def rb (i : Instr) (s : State) (k : Nat) : Option Word := (after i s).bind fun t => (t.band? 0 0).map (·.getB k)
/-- S.FFLAGS after an instruction. -/
def rf (i : Instr) (s : State) : Option Word := (thr i s).map (·.fflags)

/-! ### Integers, logic and handles (R115 to R130) -/

theorem test_mov_pushes : (thr (.mov hd .i32 (.v 3) (.imm (-1))) (withV [])).map (fun t => (t.getV 3, t.lq.l0.val)) =
    some (0xFFFFFFFF, 0xFFFFFFFF) := by decide +kernel
theorem test_iadd_wraps : rv (.iadd hd .i32 false (.v 3) (.v 1) (.imm 1)) (withV [(1, 0xFFFFFFFF)]) 3 = some 0 := by decide +kernel
theorem test_iadd_saturates : rv (.iadd hd .i32 true (.v 3) (.v 1) (.imm 1)) (withV [(1, 0x7FFFFFFF)]) 3 = some 0x7FFFFFFF := by decide +kernel
theorem test_iadd_elements : rv (.iadd hd .n8 false (.v 3) (.v 1) (.v 2)) (withV [(1, 0x000000FF), (2, 0x01010101)]) 3 = some 0x01010100 := by
  decide +kernel
theorem test_isub_source_is_destination : rv (.isub hd .i32 false (.v 1) (.imm 0) (.v 1)) (withV [(1, 1)]) 1 = some 0xFFFFFFFF := by decide +kernel
theorem test_imulh_signs : rv (.imulh hd .i32 (.v 3) (.v 1) (.imm 2)) (withV [(1, 0xFFFFFFFF)]) 3 = some 0xFFFFFFFF ∧
    rv (.imulh hd .n32 (.v 3) (.v 1) (.v 1)) (withV [(1, 0xFFFFFFFF)]) 3 = some 0xFFFFFFFE := by decide +kernel
theorem test_imad : rv (.imad hd .i32 false (.v 3) (.v 1) (.imm 4) (.imm (-5))) (withV [(1, 3)]) 3 = some 7 := by decide +kernel
theorem test_idiv_truncates : rv (.idiv hd .i32 false (.v 3) (.v 1) (.imm 2)) (withV [(1, 0xFFFFFFF9)]) 3 = some 0xFFFFFFFD := by decide +kernel
theorem test_idiv_by_zero : rv (.idiv hd .i32 false (.v 3) (.v 1) (.imm 0)) (withV [(1, 5)]) 3 = some 0xFFFFFFFF ∧
    rv (.irem hd .i32 (.v 3) (.v 1) (.imm 0)) (withV [(1, 5)]) 3 = some 5 := by decide +kernel
theorem test_irem_sign : rv (.irem hd .i32 (.v 3) (.v 1) (.imm 2)) (withV [(1, 0xFFFFFFF9)]) 3 = some 0xFFFFFFFF := by decide +kernel
theorem test_imin_imax : rv (.imin hd .i32 (.v 3) (.v 1) (.imm 1)) (withV [(1, 0xFFFFFFFF)]) 3 = some 0xFFFFFFFF ∧
    rv (.imax hd .n32 (.v 3) (.v 1) (.imm 1)) (withV [(1, 0xFFFFFFFF)]) 3 = some 0xFFFFFFFF := by decide +kernel
theorem test_iabs_least : rv (.iabs hd .i32 false (.v 3) (.v 1)) (withV [(1, 0x80000000)]) 3 = some 0x80000000 ∧
    rv (.iabs hd .i32 true (.v 3) (.v 1)) (withV [(1, 0x80000000)]) 3 = some 0x7FFFFFFF := by decide +kernel
theorem test_icmp_signs : rp (.icmp hd .i32 .lt (.p 1) (.v 1) (.imm 1)) (withV [(1, 0xFFFFFFFF)]) 1 = some true ∧
    rp (.icmp hd .n32 .lt (.p 1) (.v 1) (.imm 1)) (withV [(1, 0xFFFFFFFF)]) 1 = some false := by decide +kernel
theorem test_icmp_p7 : (thr (.icmp hd .i32 .ne (.p 7) (.v 1) (.v 1)) (withV [])).map (fun t => (t.p, t.lq.l0.val)) = some (0, 0) := by
  decide +kernel
theorem test_andn : rv (.andn hd .i32 (.v 3) (.v 1) (.v 2)) (withV [(1, 0xFF), (2, 0x0F)]) 3 = some 0xF0 := by decide +kernel
theorem test_shl_by_width : rv (.shl hd .i32 (.v 3) (.v 1) (.imm 32)) (withV [(1, 1)]) 3 = some 0 := by decide +kernel
theorem test_sar_by_more : rv (.sar hd .i32 (.v 3) (.v 1) (.imm 40)) (withV [(1, 0x80000000)]) 3 = some 0xFFFFFFFF := by decide +kernel
theorem test_rol_modulo : rv (.rol hd .i32 (.v 3) (.v 1) (.imm 36)) (withV [(1, 0x80000001)]) 3 = some 0x18 := by decide +kernel
theorem test_counts_of_zero : rv (.clz hd .i32 (.v 3) (.v 1)) (withV []) 3 = some 32 ∧ rv (.ctz hd .i64 (.v 3) (.v 4)) (withV []) 3 = some 64 ∧
    rv (.popc hd .i64 (.v 3) (.v 4)) (withV [(4, 3), (5, 0x80000000)]) 3 = some 3 := by decide +kernel
theorem test_brev : rv (.brev hd .i32 (.v 3) (.v 1)) (withV [(1, 1)]) 3 = some 0x80000000 := by decide +kernel
theorem test_bfx_sign : rv (.bfx hd .i32 (.v 3) (.v 1) (.v 2)) (withV [(1, 0xF00), (2, 0x0408)]) 3 = some 0xFFFFFFFF ∧
    rv (.bfx hd .n32 (.v 3) (.v 1) (.v 2)) (withV [(1, 0xF00), (2, 0x0408)]) 3 = some 0xF := by decide +kernel
theorem test_bfi : rv (.bfi hd .n32 (.v 3) (.v 1) (.v 2) (.v 4)) (withV [(1, 0xA), (2, 0x0404), (4, 0xFFFFFFFF)]) 3 = some 0xFFFFFFAF := by
  decide +kernel
theorem test_hadd_wraps : (thr (.hadd hd .i32 0 (.v 2) (.v 4) (.imm 1)) (withV [(4, 0xFFFFFFFF), (5, 0x0001FFFF)])).map (·.getVPair 2) =
    some 0x0001000000000000 := by decide +kernel
theorem test_hsub_other_selector : (thr (.hsub hd (.v 2) (.v 4) (.v 6)) (withV [(5, 0x00010000), (7, 0x00020000)])).map (·.getVPair 2) =
    some 0x8000000000000000 := by decide +kernel
theorem test_hmake : (thr (.hmake hd (.v 2) (.imm 9) (.v 4)) (withV [(4, 5), (5, 0xABCD0001)])).map (·.getVPair 2) =
    some 0x0009000100000005 := by decide +kernel

/-! ### Band scalars (R131 to R136) -/

theorem test_badd_guarded_off : rb (.badd ⟨0, false, 0, .none⟩ .i32 false (.b 1) (.b 2) (.imm 1)) (withB [(2, 5)]) 1 = some 0 := by decide +kernel
theorem test_badd : rb (.badd hd .i32 false (.b 1) (.b 2) (.imm 1)) (withB [(2, 5)]) 1 = some 6 := by decide +kernel
theorem test_bget_lowest : rb (.bget hd .i32 (.b 1) (.v 1)) { withLanes with cur := some { slot0 with active := 0xFFFFFFF0 } } 1 = some 4 := by
  decide +kernel
theorem test_bred_sum : rb (.bred hd .i32 false .add (.b 1) (.v 1)) withLanes 1 = some 496 := by decide +kernel

/-! ### Floating point (R138 to R159) -/

theorem test_fadd : rv (.fadd hd .f32 .rn false (.v 3) (.v 1) (.v 1)) (withV [(1, 0x3F800000)]) 3 = some 0x40000000 := by decide +kernel
theorem test_fmul_overflow : rv (.fmul hd .f32 .rn false (.v 3) (.v 1) (.v 1)) (withV [(1, 0x7F7FFFFF)]) 3 = some 0x7F800000 ∧
    rf (.fmul hd .f32 .rn false (.v 3) (.v 1) (.v 1)) (withV [(1, 0x7F7FFFFF)]) = some (fOF ||| fNX) := by decide +kernel
theorem test_ffma_rounds_once : rv (.ffma hd .f32 .rn false (.v 3) (.v 1) (.v 1) (.v 2)) (withV [(1, 0x3F800001), (2, 0xBF800002)]) 3 =
    some 0x28800000 := by decide +kernel
theorem test_fdiv_by_zero : rv (.fdiv hd .f32 .rn false (.v 3) (.v 1) (.v 2)) (withV [(1, 0xBF800000)]) 3 = some 0xFF800000 ∧
    rf (.fdiv hd .f32 .rn false (.v 3) (.v 1) (.v 2)) (withV [(1, 0xBF800000)]) = some fDZ := by decide +kernel
theorem test_fsqrt : rv (.fsqrt hd .f32 .rn false (.v 3) (.v 1)) (withV [(1, 0x40800000)]) 3 = some 0x40000000 ∧
    rf (.fsqrt hd .f32 .rn false (.v 3) (.v 1)) (withV [(1, 0xBF800000)]) = some fNV := by decide +kernel
theorem test_frnd_even : rv (.frnd hd .f32 .rn (.v 3) (.v 1)) (withV [(1, 0x40200000)]) 3 = some 0x40000000 := by decide +kernel
theorem test_fscl : rv (.fscl hd .f32 .rn false (.v 3) (.v 1) (.imm 3)) (withV [(1, 0x3F800000)]) 3 = some 0x41000000 := by decide +kernel
theorem test_fcmp_unordered : rp (.fcmp hd .f32 false .un (.p 1) (.v 1) (.v 2)) (withV [(1, 0x7FC00000)]) 1 = some true ∧
    rp (.fcmp hd .f32 false .eq (.p 1) (.v 1) (.v 1)) (withV [(1, 0x7FC00000)]) 1 = some false := by decide +kernel
theorem test_fadd2 : rv (.fadd2 hd .f16 .rn false (.v 3) (.v 1) (.v 1)) (withV [(1, 0x40003C00)]) 3 = some 0x44004000 := by decide +kernel
theorem test_fdot2 : rv (.fdot2 hd .f16 .rn false (.v 3) (.v 1) (.v 1) (.v 2)) (withV [(1, 0x40003C00), (2, 0x3F800000)]) 3 = some 0x40C00000 := by
  decide +kernel
theorem test_cvt_from_int : rv (.cvt hd .f32 .i32 .rn false false false (.v 3) (.v 1)) (withV [(1, 0xFFFFFFFF)]) 3 = some 0xBF800000 := by
  decide +kernel
theorem test_pack_and_unpk : rv (.pack hd .f16 .rn false false 0 (.v 3) (.v 1) (.v 2)) (withV [(1, 0x3F800000), (2, 0x40000000)]) 3 =
    some 0x40003C00 ∧ rv (.unpk hd .f16 1 false (.v 3) (.v 1) (.v 0)) (withV [(1, 0x40003C00)]) 3 = some 0x40000000 := by decide +kernel
theorem test_special_exact : rv (.rcp hd .f32 false (.v 3) (.v 1)) (withV [(1, 0x40000000)]) 3 = some 0x3F000000 ∧
    rv (.ex2 hd .f32 false (.v 3) (.v 1)) (withV [(1, 0x40400000)]) 3 = some 0x41000000 ∧
    rv (.sinpi hd .f32 false (.v 3) (.v 1)) (withV [(1, 0x3F000000)]) 3 = some 0x3F800000 := by decide +kernel
theorem test_shfl_down : rv (.shfl hd .i32 .down .w32 (.v 2) (.v 1) (.imm 1)) withLanes 2 0 = some 1 ∧
    rv (.shfl hd .i32 .down .w32 (.v 2) (.v 1) (.imm 1)) withLanes 2 31 = some 31 := by decide +kernel
theorem test_vote_bal : rv (.vote hd .bal (.v 2) (.p 1)) (mapLanes st0 fun i t => { t with p := if i == 3 then 2 else 0 }) 2 = some 8 := by
  decide +kernel
theorem test_lred_and_scan : rv (.lred hd .i32 .rn false false .add (.v 2) (.v 1)) withLanes 2 9 = some 496 ∧
    rv (.scan hd .i32 .rn false false .add false (.v 2) (.v 1)) withLanes 2 3 = some 6 ∧
    rv (.scan hd .i32 .rn false false .add true (.v 2) (.v 1)) withLanes 2 3 = some 3 := by decide +kernel

/-! ### Flow (R161 to R178) -/

theorem test_bra : (thr (.bra hd 4) st0).map (·.pc) = some ⟨1, 4⟩ := by decide +kernel
/-- A target that is no header's first byte halts the band (R74, R165). -/
theorem test_bra_misaligned : (after (.bra hd 2) st0).bind (fun t => (t.band? 0 0).bind fun b => b.fault.map (·.reason)) = some rMisaligned := by
  decide +kernel
theorem test_call_and_ret : (thr (.call hd (.v 2) 4) st0).map (fun t => (t.getVPair 2, t.depth, t.pc)) = some (0x0001000000000004, 1, ⟨1, 4⟩) ∧
    (thr (.ret hd (.v 2)) (mapLanes st0 fun _ t => { t with v := [(2, 4), (3, 0x10000)], depth := 1 })).map (fun t => (t.pc, t.depth)) =
      some (⟨1, 4⟩, 0) := by decide +kernel
theorem test_join_waits : (thr (.join hd (.b 1)) (withB [(1, 3)])).map (fun t => (t.wait, t.pc)) = some (.join 3 ⟨1, 0⟩, ⟨1, 0⟩) := by decide +kernel
theorem test_nap_bound : (thr (.nap hd (.v 1)) (withV [(1, 0xFFFFFFFF)])).map (·.nap) = some 1048575 := by decide +kernel
theorem test_exit : (thr (.exit hd) st0).map (·.live) = some false := by decide +kernel
theorem test_brk_halts : (after (.brk hd 5) st0).bind (fun t => (t.ctx? 1).map fun x => (x.line, x.haltReason)) = some (true, rBreak) := by
  decide +kernel
/-- With no owner of the SOFTWARE class TRAPI reads all ones (R178). -/
theorem test_trapi_unowned : rv (.trapi hd 5 (.v 1)) st0 1 = some 0xFFFFFFFF := by decide +kernel

/-! ### Memory (R179 to R204) -/

/-- The state with a handle of the data segment in V2:V3 of each lane, four bytes apart, and a value in V1. -/
def withHandles : State := mapLanes st0 fun i t => { t with v := [(1, 0xAABBCCDD), (2, BitVec.ofNat 32 (4 * i)), (3, 0x20000)] }
theorem test_st_little_endian : (after (.st hd .i32 .bd .none false 0 (.v 1) (.v 2) (.imm 4)) withHandles).map (fun t =>
    [4, 5, 6, 7, 3].map fun k => t.readByte 0 0 0 0 .device (segKey 1 2 k)) = some [0xDD, 0xCC, 0xBB, 0xAA, 0] := by decide +kernel
/-- An offset at the limit halts with reason LIMIT (R190). -/
theorem test_st_limit : (after (.st hd .i32 .bd .none false 0 (.v 1) (.v 2) (.v 4)) (withV [(2, 4096), (3, 0x20000)])).bind
    (fun t => (t.band? 0 0).bind fun b => b.fault.map (·.reason)) = some rLimit := by decide +kernel
theorem test_ld_pends : (thr (.ld hd .i32 .bd .none false 0 (.v 5) (.v 2) (.imm 0)) withHandles).map (fun t => (t.pend, t.pc)) =
    some ([(5, 1)], ⟨1, 4⟩) := by decide +kernel
theorem test_push_and_pop : (thr (.push hd 0 (.v 6) (.v 1)) (withV [(1, 7)])).map (·.getV 6) = some 4 ∧
    rv (.pop hd 0 (.v 6) (.v 1)) (withV [(6, 4)]) 6 = some 0 := by decide +kernel
theorem test_aadd : (after (.aadd hd .i32 .bd .none (.v 5) (.v 2) (.imm 5)) { withV [(3, 0x20000)] with cur := some { slot0 with active := 1 } }).map
    (fun t => t.readByte 0 0 0 0 .device (segKey 1 2 0)) = some 5 := by decide +kernel

/-! ### Engines, queues, tables and counters -/

theorem test_accz_queued : (after (.accz hd (.acc 3)) st0).map (fun t => (t.core 0).mq.map (·.kind)) = some [.accz 3] := by decide +kernel
theorem test_seal : (thr (.seal hd) st0).map (fun t => (t.batch, t.bdone)) = some (1, 1) := by decide +kernel
theorem test_waitb_waits : (thr (.waitb hd (.imm 0)) (mapLanes st0 fun _ t => { t with batch := 1, sealed := [1] })).map (·.wait) =
    some (.waitb 0) := by decide +kernel
theorem test_await_wraps : (thr (.await hd (.imm 0) (.imm 1)) st0).map (·.wait) = some (.await 0 1) ∧
    (thr (.await hd (.imm 0) (.imm 0)) st0).map (·.wait) = some .none := by decide +kernel
theorem test_sread_lane : rv (.sread hd false (.v 1) (.s .lane)) st0 1 9 = some 9 := by decide +kernel
theorem test_swrite_fflags : rf (.swrite hd (.s .fflags) (.v 1)) (withV [(1, 0xFFFFFFFF)]) = some 0x3F := by decide +kernel
theorem test_segq_limit : rb (.segq hd 0 (.b 1) (.imm 2)) st0 1 = some 4096 := by decide +kernel
theorem test_arrive : (after (.arrive hd false (.imm 2) (.imm 5) (.v 0)) st0).map (fun t => t.arrivals.map fun a => (a.gid, a.index, a.n)) =
    some [(0, 2, 5)] := by decide +kernel

/-- The header of the save image of a group swapped out by FORK (R337): kind 1, complete, context 1, cluster and group 0, one band of 32
threads, its budget, write mask, launch handle and 1,024 bytes of scratchpad; the first section begins after the header. -/
theorem test_image_header : ((({ st0 with groups := [(0, { placedGroup with place := .forked, n := 32, scratch := 1024, accMask := 5 })] } : State).groupImage 0).take 12) =
    [1, 2, 1, 0, 0, 0, 0, 0, 0, 1, 32, 0] ∧ offsets 256 [[1, 2], [3], []] = [256, 258, 259] := by decide +kernel

/-- The example of FIPS 180-4 that the message "abc" has. -/
theorem test_sha384 : sha384 [0x61, 0x62, 0x63] =
    [0xCB, 0x00, 0x75, 0x3F, 0x45, 0xA3, 0x5E, 0x8B, 0xB5, 0xA0, 0x3D, 0x69, 0x9A, 0xC6, 0x50, 0x07, 0x27, 0x2C, 0x32, 0xAB, 0x0E, 0xDE, 0xD1, 0x63,
      0x1A, 0x8B, 0x60, 0x5A, 0x43, 0xFF, 0x5B, 0xED, 0x80, 0x86, 0x07, 0x2B, 0xA1, 0xE7, 0xCC, 0x23, 0x58, 0xBA, 0xEC, 0xA1, 0x34, 0xC8, 0x25, 0xA7] := by decide +kernel

/-! ### The step -/

/-- A step fetches and runs the word placed at the PC: EXIT ends the threads. -/
theorem test_step_exit : (match step (State.reset.withFetchWord 96 0x1D87) with
    | .next t => (t.thread? 0 0 0).map (·.live)
    | _ => none) = some false := by decide +kernel
/-- Nothing happens of itself right after reset. -/
theorem test_step_reset : (match step State.reset with
    | .next t => some (t.groups.length, t.ctxs.length)
    | _ => none) = some (0, 0) := by decide +kernel

end Sys2Proof.Tests
end

