-- ==== Sys2Proof/Tests/Witnesses.lean ====
section
/-! SUPPORT. For every statement of Certificates/Slice0/Obligations.lean that has hypotheses: a concrete state and operands that meet them, clause
by clause. -/

namespace Sys2Proof.Tests

open Sys2Proof.Machine Sys2Proof.Safety

set_option Elab.async false

/-- The issuing split of the small state. -/
theorem iss0 : Issuing st0 slot0 placedGroup placedBand := ⟨rfl, rfl, rfl⟩
/-- It is the whole live band, with a true guard. -/
theorem whole0 : Whole hd slot0 placedBand := ⟨by decide +kernel, by decide +kernel⟩
/-- Operands that lie in the band's allotment. -/
theorem allot0 {uses : List (Opd × Nat)} (h : (uses.all fun u => fits (allotment placedGroup placedBand) u.1 u.2) = true) :
    InAllotment placedGroup placedBand uses := by simpa [InAllotment, List.all_eq_true] using h

/-! ### Moves, predicates, integers, logic, handles -/

theorem witness_RegisterMoves : Issuing st0 slot0 placedGroup placedBand ∧
    InAllotment placedGroup placedBand [(.v 254, width Ty.i64.is64), (.v 0, width Ty.i64.is64), (.imm 1, width Ty.i64.is64)] ∧
    InAllotment placedGroup placedBand [(.v 254, 1)] := ⟨iss0, allot0 (by decide +kernel), allot0 (by decide +kernel)⟩
theorem witness_PredicateResults : Issuing st0 slot0 placedGroup placedBand ∧ Ty.n64 = Ty.n64.or .i32 ∧
    InAllotment placedGroup placedBand [(.v 254, width Ty.n64.is64), (.v 0, width Ty.n64.is64)] ∧
    InAllotment placedGroup placedBand [(.v 254, 2), (.v 0, 2)] := ⟨iss0, rfl, allot0 (by decide +kernel), allot0 (by decide +kernel)⟩
theorem witness_IntegerResults : Issuing st0 slot0 placedGroup placedBand ∧ Ty.i64 = Ty.i64.or .i32 ∧ IntType .i64 ∧
    InAllotment placedGroup placedBand [(.v 254, width Ty.i64.is64), (.v 0, width Ty.i64.is64), (.v 2, width Ty.i64.is64), (.v 4, width Ty.i64.is64)] :=
  ⟨iss0, rfl, by unfold IntType; decide, allot0 (by decide +kernel)⟩
theorem witness_LongResults : Issuing st0 slot0 placedGroup placedBand ∧ InAllotment placedGroup placedBand [(.v 255, 1), (.v 0, 1)] :=
  ⟨iss0, allot0 (by decide +kernel)⟩
theorem witness_LogicAndShiftResults : Issuing st0 slot0 placedGroup placedBand ∧
    InAllotment placedGroup placedBand [(.v 254, width Ty.i64.is64), (.v 0, width Ty.i64.is64), (.v 2, width Ty.i64.is64)] ∧
    InAllotment placedGroup placedBand [(.v 254, 1), (.v 0, 1)] ∧
    InAllotment placedGroup placedBand [(.v 254, width Ty.i64.is64), (.v 0, width Ty.i64.is64), (.v 255, 1)] :=
  ⟨iss0, allot0 (by decide +kernel), allot0 (by decide +kernel), allot0 (by decide +kernel)⟩
theorem witness_BitCountResults : Issuing st0 slot0 placedGroup placedBand ∧ (64 : Nat) = (if Ty.i64.is64 then 64 else 32) ∧
    InAllotment placedGroup placedBand [(.v 255, 1), (.v 0, width Ty.i64.is64)] ∧
    InAllotment placedGroup placedBand [(.v 254, width Ty.i64.is64), (.v 0, width Ty.i64.is64)] :=
  ⟨iss0, rfl, allot0 (by decide +kernel), allot0 (by decide +kernel)⟩
theorem witness_BitFieldResults : Issuing st0 slot0 placedGroup placedBand ∧ Ty.n64 = Ty.n64.or .n32 ∧ Ty.n64 ∈ [Ty.i32, .i64, .n32, .n64] ∧
    (64 : Nat) = Ty.n64.bits ∧ InAllotment placedGroup placedBand [(.v 254, width Ty.n64.is64), (.v 0, width Ty.n64.is64), (.v 2, 1), (.v 4, width Ty.n64.is64)] ∧
    InAllotment placedGroup placedBand [(.v 254, 1), (.v 0, 1)] := ⟨iss0, rfl, by decide, rfl, allot0 (by decide +kernel), allot0 (by decide +kernel)⟩
theorem witness_HandleResults : Issuing st0 slot0 placedGroup placedBand ∧ Ty.n32 = Ty.n32.or .i32 ∧ Ty.n32 ∈ [Ty.i32, .i64, .n32, .n64] ∧
    InAllotment placedGroup placedBand [(.v 254, 2), (.v 0, 2), (.v 255, width Ty.n32.is64)] ∧ InAllotment placedGroup placedBand [(.v 254, 2), (.v 0, 2)] ∧
    InAllotment placedGroup placedBand [(.v 254, 2), (.v 0, 2), (.v 2, 2)] ∧ InAllotment placedGroup placedBand [(.v 255, 1), (.v 0, 2)] ∧
    InAllotment placedGroup placedBand [(.v 254, 2), (.v 255, 1), (.v 2, 2)] :=
  ⟨iss0, rfl, by decide, allot0 (by decide +kernel), allot0 (by decide +kernel), allot0 (by decide +kernel), allot0 (by decide +kernel), allot0 (by decide +kernel)⟩

/-! ### Band scalars and chunks -/

theorem witness_BandScalarResults : Issuing st0 slot0 placedGroup placedBand ∧ true = tySigned (Ty.dflt.or .i32) ∧ (Ty.dflt.or .i32) ∈ [Ty.i32, .n32] :=
  ⟨iss0, by decide, by decide⟩
theorem witness_BandPredicatesAndReductions : Issuing st0 slot0 placedGroup placedBand ∧ InAllotment placedGroup placedBand [(.v 255, 1)] ∧
    (slot0.active.getLsbD 0 = true ∧ (∀ j < 0, slot0.active.getLsbD j = false) ∧ placedBand.threads[0]? = some placedThread) ∧
    ∀ i, slot0.active.getLsbD i = true → i < placedBand.threads.length :=
  ⟨iss0, allot0 (by decide +kernel), ⟨by decide, fun _ h => absurd h (Nat.not_lt_zero _), rfl⟩, fun i hi => by
    have : i < 32 := BitVec.lt_of_getLsbD hi
    simpa [placedBand] using this⟩
/-- The small state in a context whose cores keep a pool of chunks, with a budget of 16 registers. -/
def poolState (pool held : Nat) : State := { st0 with
  ctxs := [(1, { ctx1 with pool := pool })]
  groups := [(0, { placedGroup with budget := 16, bands := [{ placedBand with held := held, chunks := List.range held }] })] }
theorem witness_ChunkRequests_denied : ∃ g b, Issuing (poolState 14 0) slot0 g b ∧ Whole hd slot0 b ∧
    15 = ((bandEnv (poolState 14 0) slot0 g b).read32 (.imm 15)).toInt ∧ (g.curBudget + 16 * (b.held + 15) : Int) ≤ 256 ∧
    ((poolState 14 0).poolOf g : Int) < 15 :=
  ⟨_, _, ⟨rfl, rfl, rfl⟩, ⟨by decide +kernel, by decide +kernel⟩, by decide +kernel, by decide +kernel, by decide +kernel⟩
theorem witness_ChunkRequests_granted : ∃ g b, Issuing (poolState 15 0) slot0 g b ∧ Whole hd slot0 b ∧
    15 = ((bandEnv (poolState 15 0) slot0 g b).read32 (.imm 15)).toInt ∧ (g.curBudget + 16 * (b.held + 15) : Int) ≤ 256 ∧
    (15 : Int) ≤ (poolState 15 0).poolOf g :=
  ⟨_, _, ⟨rfl, rfl, rfl⟩, ⟨by decide +kernel, by decide +kernel⟩, by decide +kernel, by decide +kernel, by decide +kernel⟩
theorem witness_ChunkRequests_released : ∃ g b, Issuing (poolState 15 3) slot0 g b ∧ Whole hd slot0 b ∧
    0 = ((bandEnv (poolState 15 3) slot0 g b).read32 (.imm 0)).toInt ∧ 3 = ((bandEnv (poolState 15 3) slot0 g b).read32 (.imm 3)).toInt ∧
    (3 : Int) ≤ b.held :=
  ⟨_, _, ⟨rfl, rfl, rfl⟩, ⟨by decide +kernel, by decide +kernel⟩, by decide +kernel, by decide +kernel, by decide⟩
theorem witness_ChunkGrants : ((poolState 16 0).chunkRows 0 0 15).any (1024 < · + 16) = false ∧ (poolState 16 0).group? 0 ≠ none ∧ (poolState 16 0).band? 0 0 ≠ none ∧ (poolState 16 0).teamFrozen 0 0 = false ∧
    ({ poolState 16 0 with ctxs := [(1, { ctx1 with pool := 16, line := true, arrived := [0] })] } : State).teamFrozen 0 0 = true := by decide +kernel
/-- The band waiting for n chunks of that pool. -/
def acqState (pool held n : Nat) (tr : Bool) : State := mapLanes (poolState pool held) fun _ t => { t with wait := .acq n 2 tr }
theorem witness_ChunkGrants_waiters : ((acqState 15 0 15 false).teamFrozen 0 0 = false ∧ (acqState 15 0 15 false).acqWaiters 0 0 0 = [(0, 0, 15, 2)] ∧
      15 ≤ (acqState 15 0 15 false).freeChunks 0 0 0 ∧ ((acqState 15 0 15 false).acqGrant 0 0 15 2).acqAsked 0 0 0 true = []) ∧
    ((acqState 1 1 15 false).acqWaiters 0 0 0 = [(0, 0, 15, 2)] ∧ (acqState 1 1 15 false).freeChunks 0 0 0 < 15 ∧
      (acqState 1 1 15 false).acqAsked 0 0 0 true = []) ∧
    ((acqState 2 1 2 false).acqWaiters 0 0 0 = [(0, 0, 2, 2)] ∧ (acqState 2 1 2 false).acqStuck 0 0 0 = true ∧
      (acqState 2 1 2 false).acqAsked 0 0 0 true = [] ∧ ((acqState 2 1 2 false).acqDeny 0 0 2).acqWaiters 0 0 0 = []) := by decide +kernel
/-- A lone ACQ.TRY, which fits or does not. -/
theorem witness_ChunkGrants_tried : (∀ pool ∈ [15, 14], (acqState pool 0 15 true).teamFrozen 0 0 = false ∧ (acqState pool 0 15 true).acqWaiters 0 0 0 = [] ∧
      (acqState pool 0 15 true).acqAsked 0 0 0 true = [(0, 0, 15, 2)]) ∧
    15 ≤ (acqState 15 0 15 true).freeChunks 0 0 0 ∧ (acqState 14 0 15 true).freeChunks 0 0 0 < 15 := by decide +kernel
/-- A band's ACQ of two chunks beside an older band's ACQ.TRY of two, on a pool of two (R137's second row). -/
def raceState : State := { poolState 2 0 with
  groups := [(0, { placedGroup with budget := 16, n := 64, bands := [true, false].map fun tr => placedBand.onLanes (BitVec.allOnes 32) fun _ t => { t with wait := .acq 2 2 tr } })] }
theorem witness_ChunkGrants_race : raceState.teamFrozen 0 0 = false ∧ raceState.acqWaiters 0 0 0 = [(0, 1, 2, 2)] ∧ 2 ≤ raceState.freeChunks 0 0 0 ∧
    (raceState.acqGrant 0 1 2 2).acqAsked 0 0 0 true = [(0, 0, 2, 2)] ∧ (raceState.acqGrant 0 1 2 2).freeChunks 0 0 0 < 2 := by decide +kernel

/-! ### Floating point, conversions and exchange -/

theorem witness_FloatResults : Issuing st0 slot0 placedGroup placedBand ∧ Ty.f64 = Ty.f64.or .f32 ∧
    InAllotment placedGroup placedBand [(.v 254, width Ty.f64.is64), (.v 0, width Ty.f64.is64), (.v 2, width Ty.f64.is64), (.v 4, width Ty.f64.is64)] ∧
    InAllotment placedGroup placedBand [(.v 254, 1), (.v 0, 1)] ∧ InAllotment placedGroup placedBand [(.v 255, 1)] :=
  ⟨iss0, rfl, allot0 (by decide +kernel), allot0 (by decide +kernel), allot0 (by decide +kernel)⟩
theorem witness_FloatExactResults : Issuing st0 slot0 placedGroup placedBand ∧ Ty.f64 = Ty.f64.or .f32 ∧
    InAllotment placedGroup placedBand [(.v 254, width Ty.f64.is64), (.v 0, width Ty.f64.is64), (.v 2, width Ty.f64.is64)] ∧
    InAllotment placedGroup placedBand [(.v 255, 1)] := ⟨iss0, rfl, allot0 (by decide +kernel), allot0 (by decide +kernel)⟩
theorem witness_PackedFloatResults : Issuing st0 slot0 placedGroup placedBand ∧ Ty.bf16 = Ty.bf16.or .f16 ∧
    InAllotment placedGroup placedBand [(.v 255, 1), (.v 0, 1), (.v 1, 1), (.v 2, 1)] := ⟨iss0, rfl, allot0 (by decide +kernel)⟩
theorem witness_SpecialFunctions : Issuing st0 slot0 placedGroup placedBand ∧ InAllotment placedGroup placedBand [(.v 255, 1), (.v 0, 1)] :=
  ⟨iss0, allot0 (by decide +kernel)⟩
theorem witness_SpecialFunctions_inputs : Fmt.fp32.readF false 0x7FA00000 = .nan true ∧ Fmt.fp32.readF true 0xFFFFFFFF = .nan false ∧
    Fmt.fp32.readF false 0x80000001 = .fin true 1 (-149) ∧ (-149 ≤ (-149 : Int) ∧ (-127 : Int) ≤ 127 ∧ ¬(-126 ≤ (-127 : Int)) ∧ -126 ≤ (127 : Int)) ∧
    Fmt.fp32.readF false 0x3F000000 = .fin false 8388608 (-24) ∧ 8388608 * 2 * 2 ^ (-24 : Int).toNat = 1 * 2 ^ (24 : Int).toNat ∧
    Fmt.fp32.readF false 0xCB800000 = .fin true 8388608 1 ∧ 8388608 * 2 * 2 ^ (1 : Int).toNat = 33554432 * 2 ^ (-1 : Int).toNat := by decide +kernel
theorem witness_Conversions : Issuing st0 slot0 placedGroup placedBand ∧
    InAllotment placedGroup placedBand [(.v 254, width (Ty.f64.or .f32).is64), (.v 0, width (Ty.i32.or .i32).is64)] ∧
    InAllotment placedGroup placedBand [(.v 254, 1), (.v 0, 1), (.v 1, 1)] ∧ packOk .e2m1 false false 6 = true ∧
    ∀ e ∈ participants st0 slot0 placedGroup placedBand hd, (true && Ty.e2m1.or .f16 == .e2m1 && badX (scaleOf (e.read32 (.v 1))).2) = false :=
  ⟨iss0, allot0 (by decide +kernel), allot0 (by decide +kernel), by decide, by decide +kernel⟩
theorem witness_ExchangeResults : Issuing st0 slot0 placedGroup placedBand ∧ Ty.i64 = Ty.i64.or .i32 ∧
    InAllotment placedGroup placedBand [(.v 254, width Ty.i64.is64), (.v 0, width Ty.i64.is64), (.v 2, 1)] ∧ InAllotment placedGroup placedBand [(.v 254, 1)] :=
  ⟨iss0, rfl, allot0 (by decide +kernel), allot0 (by decide +kernel)⟩

/-! ### Flow -/

theorem witness_Branches : Issuing st0 slot0 placedGroup placedBand ∧
    st0.targetFault placedGroup.die placedGroup.ctx slot0.pc.sel (xtTarget slot0 4) = none ∧ bandGuard hd placedBand = true ∧
    bandGuard ⟨0, false, 0, .none⟩ placedBand = false ∧ InAllotment placedGroup placedBand [(.imm 4, 1)] ∧
    ∀ e ∈ participants st0 slot0 placedGroup placedBand hd, st0.targetFault placedGroup.die placedGroup.ctx slot0.pc.sel (jumpTarget e (.imm 4)) = none :=
  ⟨iss0, by decide +kernel, by decide +kernel, by decide +kernel, allot0 (by decide +kernel), by decide +kernel⟩
/-- The small state with one frame's return handle in V2:V3, one call deep. -/
def calledState : State := mapLanes st0 fun _ t => { t with v := [(2, 4), (3, 0x10000)], depth := 4094 }
theorem witness_CallsAndReturns : ∃ g b, Issuing calledState slot0 g b ∧ InAllotment g b [(.v 254, 2)] ∧
    calledState.targetFault g.die g.ctx slot0.pc.sel (xtTarget slot0 0) = none ∧ (∀ e ∈ participants calledState slot0 g b hd, e.t.depth ≠ 4095) ∧
    InAllotment g b [(.v 2, 2)] ∧ ∀ e ∈ participants calledState slot0 g b hd, badReturn e.t (e.read true (.v 2)) = false ∧
      (e.read true (.v 2)).getLsbD 47 = false ∧ calledState.targetFault g.die g.ctx ((e.read true (.v 2)).extractLsb' 48 16)
        (((e.read true (.v 2)).extractLsb' 0 32).toNat : Int) = none :=
  ⟨_, _, ⟨rfl, rfl, rfl⟩, by unfold InAllotment; decide +kernel, by decide +kernel, by decide +kernel, by unfold InAllotment; decide +kernel,
    by decide +kernel⟩
/-- The small state one cross call deep, its return handle in V2:V3 of every lane, the call's entry with a call in flight. -/
def crossState : State := { mapLanes st0 fun _ t => { t with v := [(2, 4), (3, 0x18000)], depth := 1, xstack := [(1, 0)] } with
  ctxs := [(1, { ctx1 with bindings := [(4096, ⟨.bound, 1, 0b11111, 0, 0x0001000000000004, 0, 32, 0, [], none, []⟩)] })] }
theorem witness_CallsAndReturns_cross : ∃ g b, Issuing crossState slot0 g b ∧ InAllotment g b [(.v 2, 2)] ∧
    (∀ e ∈ participants crossState slot0 g b hd, badReturn e.t (e.read true (.v 2)) = false ∧
      crossState.targetFault g.die g.ctx ((e.read true (.v 2)).extractLsb' 48 16) (((e.read true (.v 2)).extractLsb' 0 32).toNat : Int) = none ∧
      (e.read true (.v 2)).getLsbD 47 = true ∧ e.t.xstack.head? = some (1, 0)) ∧
    (crossState.binding? g.ctx 1 0).map (·.inflight) = some 32 :=
  ⟨_, _, ⟨rfl, rfl, rfl⟩, by unfold InAllotment; decide +kernel, by decide +kernel, by decide +kernel⟩
/-- A BOUND entry. -/
def bound (kind : Nat) (target : W64) : Binding := ⟨.bound, kind, 0b11111, 0, target, 0, 0, 0, [], none, []⟩
/-- The small state with four slots in its code segment, the first bound to code and the last to data. -/
def linkState : State := { st0 with
  ctxs := [(1, { ctx1 with
    segs := [(1, { Desc.zero with kind := 4, limit := 8, rights := kindRights 4, slots := 4 }), (2, { Desc.zero with kind := 1, limit := 4096, rights := kindRights 1 })]
    codes := [(1, ⟨List.replicate 4 ⟨0, 0, []⟩, [], [], 0, 0, 0⟩)]
    bindings := [(4096, bound 1 0x0001000000000004), (4099, bound 0 0x0002000000000000)] })] }
theorem witness_LinkUses_code : Issuing linkState slot0 placedGroup placedBand ∧ InAllotment placedGroup placedBand [(.v 254, 2)] ∧
    guarded hd slot0 placedBand ≠ 0 ∧ (0#12).toNat < linkState.slotCount placedGroup.ctx slot0.pc.sel ∧
    linkState.binding? placedGroup.ctx slot0.pc.sel 0 = some (bound 1 0x0001000000000004) ∧ hasRights (bound 1 0x0001000000000004).rights rtX = true ∧
    (∀ u ∈ participants linkState slot0 placedGroup placedBand hd, u.t.depth ≠ 4095 ∧ u.t.xstack.length < 16) ∧
    linkState.targetFault placedGroup.die placedGroup.ctx (hsel 0x0001000000000004) (hoff 0x0001000000000004) = none :=
  ⟨⟨rfl, rfl, rfl⟩, allot0 (by decide +kernel), by decide +kernel, by decide +kernel, by decide +kernel, by decide, by decide +kernel, by decide +kernel⟩
theorem witness_LinkUses_data : Issuing linkState slot0 placedGroup placedBand ∧ guarded hd slot0 placedBand ≠ 0 ∧
    (3#12).toNat < linkState.slotCount placedGroup.ctx slot0.pc.sel ∧
    linkState.binding? placedGroup.ctx slot0.pc.sel 3 = some (bound 0 0x0002000000000000) ∧
    InAllotment placedGroup placedBand [(.v 255, width Ty.i32.is64), (.imm 0, 1)] ∧
    hasRights (bound 0 0x0002000000000000).rights rtR = true ∧ hasRights (bound 0 0x0002000000000000).rights rtW = true ∧
    AllPerformed ((laneEnvs (linkUsed linkState slot0 placedGroup (bound 0 0x0002000000000000) 3 false) slot0
      placedGroup placedBand (guarded hd slot0 placedBand)).map fun v =>
        v.handleAccess (some 0x0002000000000000) (.v 0) (v.disp (.imm 0)) (tyBytes .i32) .load false) :=
  ⟨⟨rfl, rfl, rfl⟩, by decide +kernel, by decide +kernel, by decide +kernel, allot0 (by decide +kernel), by decide, by decide,
    by unfold AllPerformed; decide +kernel⟩
theorem witness_LinkUses_cache : linkState.core 0 = Core.zero ∧
    ∃ l, ((linkUsed linkState slot0 placedGroup (bound 0 0x0002000000000000) 3 false).core 0).links = [l] ∧ l.ctx = placedGroup.ctx ∧ l.sel = slot0.pc.sel ∧
      l.slot = 3 ∧ l.target = 0x0002000000000000 ∧ l.kind = 0 ∧ l.rights = 0b11111 := ⟨by decide +kernel, _, rfl, rfl, rfl, rfl, rfl, rfl, rfl⟩
theorem witness_JoinAndNap : Issuing st0 slot0 placedGroup placedBand ∧ InAllotment placedGroup placedBand [(.v 255, 1)] ∧
    st0.frozen 0 = false ∧ ∃ bd th, (mapLanes st0 fun _ t => { t with nap := 1 }).band? 0 0 = some bd ∧ bd.threads[31]? = some th ∧ th.nap = 1 :=
  ⟨iss0, allot0 (by decide +kernel), by decide +kernel, _, _, rfl, rfl, rfl⟩
theorem witness_ExitEndsThreads : Issuing st0 slot0 placedGroup placedBand ∧ placedGroup.inl = [] := ⟨iss0, rfl⟩
/-- The small state with its group running an inline child. -/
def inChildState : State := { st0 with groups := [(0, { placedGroup with
  inl := [⟨placedBlock, 0x0002000000000000, 0, 1, 0, 7, [BitVec.allOnes 32], [], ⟨1, 4⟩⟩] })] }
theorem witness_ExitEndsThreads_inline : ∃ g b, Issuing inChildState slot0 g b ∧ g.inl ≠ [] ∧
    ∃ th, b.threads[31]? = some th ∧ laneGuard hd th = true := ⟨_, _, ⟨rfl, rfl, rfl⟩, by decide +kernel, _, rfl, by decide +kernel⟩
theorem witness_BrkStopsOrPasses : Issuing st0 slot0 placedGroup placedBand ∧ st0.ctx? placedGroup.ctx = some ctx1 ∧ placedBand.fault = none ∧
    ctx1.laneDebug = false ∧ ctx1.line = false ∧ (∃ e ∈ participants st0 slot0 placedGroup placedBand hd, e.t.breakPassed = false) :=
  ⟨iss0, rfl, rfl, rfl, rfl, by decide +kernel⟩
theorem witness_BrkStopsOrPasses_debug : Issuing { st0 with ctxs := [(1, { ctx1 with laneDebug := true })] } slot0 placedGroup placedBand ∧
    ({ st0 with ctxs := [(1, { ctx1 with laneDebug := true })] } : State).ctx? placedGroup.ctx = some { ctx1 with laneDebug := true } :=
  ⟨⟨rfl, rfl, rfl⟩, rfl⟩
theorem witness_BrkStopsOrPasses_passed : ∃ g b, Issuing (mapLanes st0 fun _ t => { t with breakPassed := true }) slot0 g b ∧ b.fault = none ∧
    ∀ e ∈ participants (mapLanes st0 fun _ t => { t with breakPassed := true }) slot0 g b hd, e.t.breakPassed = true :=
  ⟨_, _, ⟨rfl, rfl, rfl⟩, rfl, by decide +kernel⟩
theorem witness_TrapiParksOrReadsOnes : Issuing st0 slot0 placedGroup placedBand ∧ InAllotment placedGroup placedBand [(.v 255, 1)] ∧
    guarded hd slot0 placedBand ≠ 0 := ⟨iss0, allot0 (by decide +kernel), by decide +kernel⟩

/-! ### Memory -/

/-- The band with the handles of the data segment in V2:V3. -/
def handleBand : Band := placedBand.onLanes (BitVec.allOnes 32) fun i t => { t with v := [(1, 0xAABBCCDD), (2, BitVec.ofNat 32 (4 * i)), (3, 0x20000)] }
/-- Its group. -/
def handleGroup : Group := placedGroup.modBand 0 fun _ => handleBand
theorem issH : Issuing withHandles slot0 handleGroup handleBand := ⟨rfl, rfl, rfl⟩
theorem witness_LoadsIssue : Issuing withHandles slot0 handleGroup handleBand ∧
    InAllotment handleGroup handleBand [(.v 255, width Ty.i32.is64), (.v 2, 2), (.imm 0, 1)] ∧ InAllotment handleGroup handleBand [(.v 255, 1), (.v 2, 2)] ∧
    InAllotment handleGroup handleBand [(.v 255, width Ty.i32.is64), (.v 2, 1), (.imm 0, 1)] ∧ InAllotment handleGroup handleBand [(.v 255, 1), (.v 2, 1)] ∧
    InAllotment handleGroup handleBand [(.v 255, width Ty.i32.is64), (.imm 0, 1), (.v 2, 1)] ∧
    AllPerformed (accessesOf withHandles slot0 handleGroup handleBand hd fun e =>
      e.handleAccess none (.v 2) (e.disp (.imm 0)) (tyBytes .i32) .load false) ∧
    AllPerformed (accessesOf withHandles slot0 handleGroup handleBand hd fun e => e.handleAccess none (.v 2) (0xF00 : Word).toInt 4 .load false) ∧
    AllPerformed (accessesOf withHandles slot0 handleGroup handleBand hd fun e => e.scratchAccess (.v 2) (e.disp (.imm 0)) (tyBytes .i32) .load false) ∧
    AllPerformed (accessesOf withHandles slot0 handleGroup handleBand hd fun e => e.scratchAccess (.v 2) (65408 : Word).toInt 4 .load false) :=
  ⟨issH, by unfold InAllotment; decide +kernel, by unfold InAllotment; decide +kernel, by unfold InAllotment; decide +kernel,
    by unfold InAllotment; decide +kernel, by unfold InAllotment; decide +kernel, by unfold AllPerformed; decide +kernel,
    by unfold AllPerformed; decide +kernel, by unfold AllPerformed; decide +kernel, by unfold AllPerformed; decide +kernel⟩
theorem witness_LoadsIssue_window : AllPerformed (accessesOf withHandles slot0 handleGroup handleBand hd fun e =>
    e.windowAccess (.imm 0) (.v 2) (tyBytes .i32) .load false) := by unfold AllPerformed; decide +kernel
theorem witness_LoadsIssue_shown : OwnShown withHandles slot0.gid handleGroup.die := fun _ h => absurd h List.not_mem_nil
/-- The store each lane makes through its handle, and the atomic. -/
def laneStores : List (Access × List Byte) :=
  storesOf withHandles slot0 handleGroup handleBand hd (fun e => e.handleAccess none (.v 2) (e.disp (.imm 0)) (tyBytes .i32) .store false) fun e => e.storeBytes .i32 (.v 255)
def laneAtomics : List AtomicLane :=
  (laneEnvs withHandles slot0 handleGroup handleBand (guarded hd slot0 handleBand)).map fun e => ⟨e.handleAccess none (.v 2) 0 4 ⟨rtA, true, false⟩ true, fun old => some old⟩
theorem witness_StoresAndTheirFrame_room : withHandles.storeRoom slot0 laneStores = true ∧ laneStores.length = 32 ∧ withHandles.writes = [] ∧
    withHandles.posted = [] ∧ (keysOf (laneStores.map (·.1))).Nodup ∧ ∀ p ∈ laneStores, (keysOf [p.1]).length = p.2.length := by decide +kernel
theorem witness_AtomicsPerform_room : withHandles.atomicRoom slot0 laneAtomics = true ∧ laneAtomics.length = 32 ∧ Canonical withHandles ∧
    withHandles.writes = [] ∧ (keysOf (laneAtomics.map (·.acc))).Nodup := by decide +kernel
theorem witness_StoresAndTheirFrame : Issuing withHandles slot0 handleGroup handleBand ∧
    InAllotment handleGroup handleBand [(.v 255, width Ty.i32.is64), (.v 2, 2), (.imm 0, 1)] ∧ InAllotment handleGroup handleBand [(.v 255, 1), (.v 2, 2)] ∧
    InAllotment handleGroup handleBand [(.v 255, width Ty.i32.is64), (.v 2, 1), (.imm 0, 1)] ∧ InAllotment handleGroup handleBand [(.v 255, 1), (.v 2, 1)] ∧
    InAllotment handleGroup handleBand [(.v 255, width Ty.i32.is64), (.imm 0, 1), (.v 2, 1)] ∧
    withHandles.eccBad = [] ∧
    AllPerformed (accessesOf withHandles slot0 handleGroup handleBand hd fun e =>
      e.handleAccess none (.v 2) (e.disp (.imm 0)) (tyBytes .i32) .store false) ∧
    AllPerformed (accessesOf withHandles slot0 handleGroup handleBand hd fun e => e.handleAccess none (.v 2) (0xF80 : Word).toInt 4 .store false) ∧
    AllPerformed (accessesOf withHandles slot0 handleGroup handleBand hd fun e => e.scratchAccess (.v 2) (e.disp (.imm 0)) (tyBytes .i32) .store false) ∧
    AllPerformed (accessesOf withHandles slot0 handleGroup handleBand hd fun e => e.scratchAccess (.v 2) (65408 : Word).toInt 4 .store false) ∧
    AllPerformed (accessesOf withHandles slot0 handleGroup handleBand hd fun e => e.windowAccess (.imm 0) (.v 2) (tyBytes .i32) .store false) :=
  ⟨issH, by unfold InAllotment; decide +kernel, by unfold InAllotment; decide +kernel, by unfold InAllotment; decide +kernel,
    by unfold InAllotment; decide +kernel, by unfold InAllotment; decide +kernel, rfl, by unfold AllPerformed; decide +kernel,
    by unfold AllPerformed; decide +kernel, by unfold AllPerformed; decide +kernel, by unfold AllPerformed; decide +kernel,
    by unfold AllPerformed; decide +kernel⟩
theorem witness_DeviceWriteReadsBack : (∀ w ∈ withHandles.writes, w.id < withHandles.nextId) ∧ tabGet [(segKey 1 2 0, (7 : Byte))] (segKey 1 2 0) = some 7 ∧
    tabGet [(segKey 1 2 0, (7 : Byte))] (segKey 1 2 1) = none ∧ (3 : Nat) ≠ 0 := by decide +kernel
theorem witness_MemoryReadsAsWritten : Memory.wf [(5, 1), (9, 2)] = true ∧ (([(5, 0), (7, 3)] : List (Key × Byte)).map (·.1)).Nodup ∧
    ((5, 0) : Key × Byte) ∈ [(5, 0), (7, 3)] ∧ ∀ p ∈ ([(5, 0), (7, 3)] : List (Key × Byte)), p.1 ≠ 9 := by decide
/-- A load or an atomic that has not returned, into V5 of lane 0. -/
def loadRec (atomic : Bool) : LoadRec := ⟨4, 0, 0, 0, .v 5, .i32, atomic, [segKey 1 2 0], 0x1234, false, false, ⟨1, 0⟩, 0x0002000000000000, 1, none, [], 0⟩
/-- The small state with it. -/
def loadState (atomic : Bool) : State := { mapLanes st0 fun _ t => { t with pend := [(5, 4)], lq := ⟨⟨0, some 8, false⟩, .zero, .zero, .zero⟩ } with
  loads := [loadRec atomic], nextId := 5 }
theorem witness_LoadReturnWrites : (loadState false).loads.find? (fun q => q.id == (loadRec false).id && !q.atomic) = some (loadRec false) ∧
    (loadState false).eccBad = [] ∧ (∃ th, (loadState false).thread? 0 0 0 = some th ∧ tabGet th.pend 5 = some 4 ∧ th.lq.l0.pend = some (2 * 4)) ∧
    (loadRec false).dst = .v 5 ∧ (loadRec false).ty.is64 = false := ⟨by decide +kernel, rfl, ⟨_, rfl, rfl, rfl⟩, rfl, rfl⟩
/-- Loads not returned yet into an O register, a V pair and a position of the queue alone. -/
def manyLoads : State := { mapLanes st0 fun _ t => { t with
    pend := [(257, 4), (6, 5), (7, 5)], lq := ⟨⟨0, some 11, false⟩, ⟨0, some 10, false⟩, ⟨0, some 12, false⟩, ⟨0, some 8, false⟩⟩ } with
  loads := [{ loadRec false with dst := .o 1 }, { loadRec false with id := 5, dst := .v 6, ty := .i64 }, { loadRec false with id := 6, dst := .v 9 }]
  nextId := 7 }
theorem witness_LoadReturnWrites_places : (∀ r ∈ manyLoads.loads, manyLoads.loads.find? (fun q => q.id == r.id && !q.atomic) = some r) ∧
    manyLoads.loads.length = 3 ∧ manyLoads.eccBad = [] ∧ (manyLoads.thread? 0 0 0).isSome = true := by decide +kernel
theorem witness_AtomicsPerform : Issuing withHandles slot0 handleGroup handleBand ∧ Ty.i32 = Ty.i32.or .i32 ∧
    InAllotment handleGroup handleBand [(.v 255, width Ty.i32.is64), (.v 2, 2), (.v 1, width Ty.i32.is64), (.imm 0, width Ty.i32.is64)] ∧
    withHandles.eccBad = [] ∧
    AllPerformed (accessesOf withHandles slot0 handleGroup handleBand hd fun e => e.handleAccess none (.v 2) 0 (tyBytes .i32) ⟨rtA, tyBytes .i32 < 4, false⟩ true) ∧
    AllPerformed (accessesOf withHandles slot0 handleGroup handleBand hd fun e => e.handleAccess none (.v 2) 0 (tyBytes .i32) ⟨rtR ||| rtA, false, false⟩ true) ∧
    AllPerformed (accessesOf withHandles slot0 handleGroup handleBand hd fun e => e.handleAccess none (.v 2) 0 4 ⟨rtA, true, false⟩ true) ∧
    ¬(Ty.f32.or .f32 = .f16 ∨ Ty.f32.or .f32 = .bf16) ∧ (Ty.bf16.or .f32 = .f16 ∨ Ty.bf16.or .f32 = .bf16) :=
  ⟨issH, rfl, by unfold InAllotment; decide +kernel, rfl, by unfold AllPerformed; decide +kernel, by unfold AllPerformed; decide +kernel,
    by unfold AllPerformed; decide +kernel, by decide, by decide⟩
theorem witness_PrivateStack : Issuing (withV [(6, 64)]) slot0 (placedGroup.modBand 0 fun _ => placedBand.onLanes (BitVec.allOnes 32) fun _ t => { t with v := [(6, 64)] })
      (placedBand.onLanes (BitVec.allOnes 32) fun _ t => { t with v := [(6, 64)] }) ∧
    (16 : Nat) = (15#4).toNat + 1 ∧ (withV [(6, 64)]).eccBad = [] ∧ Canonical (withV [(6, 64)]) ∧ DeviceWrites (withV [(6, 64)]) ∧
    ∀ g b, Issuing (withV [(6, 64)]) slot0 g b →
      InAllotment g b [(.v 6, 1), (.v 240, 16)] ∧
      AllPerformed (accessesOf (withV [(6, 64)]) slot0 g b hd fun e => stackAccess e ((e.read32 (.v 6)).toNat : Int) (4 * 16) .store) ∧
      AllPerformed (accessesOf (withV [(6, 64)]) slot0 g b hd fun e => stackAccess e (((e.read32 (.v 6)).toNat : Int) - 4 * 16) (4 * 16) .load) :=
  ⟨⟨rfl, rfl, rfl⟩, rfl, rfl, by decide +kernel, ⟨fun _ h => absurd h List.not_mem_nil, fun _ h => absurd h List.not_mem_nil⟩, fun g b hs => by
    obtain rfl := Option.some.inj hs.group; obtain rfl := Option.some.inj hs.band
    exact ⟨by unfold InAllotment; decide +kernel, by unfold AllPerformed; decide +kernel, by unfold AllPerformed; decide +kernel⟩⟩
theorem witness_PrefetchAndFence : Issuing withHandles slot0 handleGroup handleBand ∧ InAllotment handleGroup handleBand [(.v 2, 2), (.imm 0, 1)] :=
  ⟨issH, by unfold InAllotment; decide +kernel⟩
/-- A state with a load of lane 0 still to return and a store of it not acknowledged. -/
def fenceState : State := { loadState false with writes := [⟨3, 0, 0, 0, 0, [(segKey 1 2 0, 7)], none, [], [], false, [], false⟩] }
theorem witness_PrefetchAndFence_holds : ∃ g b th, Issuing fenceState slot0 g b ∧ loadRec false ∈ fenceState.loads ∧
    (guarded hd slot0 b).getLsbD (loadRec false).lane = true ∧ (loadRec false).atomic = false ∧ (loadRec false).peer = false ∧
    b.threads[0]? = some th ∧ laneGuard hd th = true ∧ (fenced fenceState slot0 g (guarded hd slot0 b) .dv .full).unacked g.die 0 0 0 .dv
      (fenced fenceState slot0 g (guarded hd slot0 b) .dv .full).nextId = true ∧
    (fenced fenceState slot0 g (guarded hd slot0 b) .bd .full).unacked g.die 0 0 0 .bd
      (fenced fenceState slot0 g (guarded hd slot0 b) .bd .full).nextId = false :=
  ⟨_, _, _, ⟨rfl, rfl, rfl⟩, by decide +kernel, by decide +kernel, rfl, rfl, rfl, by decide +kernel, by decide +kernel, by decide +kernel⟩
/-- A group under a view of 32 points of 4 bytes over the data segment, in a launch with one reflection of its 32 threads. -/
def symState : State := { mapLanes st0 fun i t => { t with v := [(1, 7), (2, 0), (3, 0x30000), (4, BitVec.ofNat 32 i), (5, 0), (6, 0)] } with
  launches := [(0, ⟨1, { placedBlock with sym := true, gens := [⟨4, 0, 0, 0⟩] }, 0, 0, 0, none, none, none, [], 0, 1, []⟩)]
  ctxs := [(1, { ctx1 with
    segs := [(1, { Desc.zero with kind := 4, limit := 8, rights := kindRights 4 }), (2, { Desc.zero with kind := 1, limit := 4096, rights := kindRights 1 }),
      (3, { Desc.zero with kind := 6, limit := 128, rights := kindRights 6, under := 2, elem := 4, nx := 32, ny := 1, nz := 1, sx := 4, sy := 0, sz := 0 })] })] }
theorem witness_SymmetricStores : ∃ g b x k, Issuing symState slot0 g b ∧ (4 : Nat) = (if false then 8 else tyBytes .i32) ∧
    InAllotment g b [(.v 1, width ((4 : Nat) == 8)), (.v 2, 2), (.v 4, 3)] ∧ symState.ctx? g.ctx = some x ∧ symState.launch? g.curLid = some k ∧
    symState.eccBad = [] ∧ (∀ q ∈ ((laneEnvs symState slot0 g b (guarded hd slot0 b)).filter fun e => e.t.canon).map (fun e =>
      symCheck symState x e (if k.block.sym then k.block.gens else []) k.block.extents .i32 false 4 (e.read true (.v 2))
        ((e.t.getV 4).toNat, (e.t.getV 5).toNat, (e.t.getV 6).toNat) (e.read false (.v 1))),
      q.res.row = 8 ∧ q.items.length = 2 ∧ symState.ackRoom slot0.gid slot0.band q.items.length [q.lane] = true) :=
  ⟨_, _, _, _, ⟨rfl, rfl, rfl⟩, rfl, by unfold InAllotment; decide +kernel, rfl, rfl, rfl, by decide +kernel⟩

/-! ### The matrix engine -/

theorem witness_MatrixCommandsIssue : Issuing st0 slot0 placedGroup placedBand ∧ Whole hd slot0 placedBand ∧
    mmaBad placedGroup ((bandEnv st0 slot0 placedGroup placedBand).read32 (.imm 0)).toNat ((bandEnv st0 slot0 placedGroup placedBand).read32 (.imm 512)).toNat
      .e4m3 .e5m2 false ((bandEnv st0 slot0 placedGroup placedBand).read32 (.v 0)) = false ∧
    mmaBad placedGroup 0 512 .e2m1 .e2m1 true ((bandEnv st0 slot0 placedGroup placedBand).read32 (.imm 8)) = false ∧
    st0.twinRule 0 0 slot0.pc = .go ∧ st0.engineRoom placedGroup.core 1 (bandJoins 0 0 placedBand) = true ∧
    (-1024 ≤ ((bandEnv st0 slot0 placedGroup placedBand).read32 (.imm (-1024))).toInt ∧
      ((bandEnv st0 slot0 placedGroup placedBand).read32 (.imm 1023)).toInt ≤ 1023) ∧
    st0.openIssued placedGroup.core 15 = false ∧
    (((bandEnv st0 slot0 placedGroup placedBand).read32 (.imm 1020)).toNat % 4 = 0 ∧
      placedGroup.inScratch ((bandEnv st0 slot0 placedGroup placedBand).read32 (.imm 1020)).toNat 256 = true) ∧
    (((bandEnv st0 slot0 placedGroup placedBand).read32 (.imm 256)).toNat % 256 = 0 ∧
      placedGroup.inScratch ((bandEnv st0 slot0 placedGroup placedBand).read32 (.imm 256)).toNat (2 * planesOf .e2m1 * 256) = true ∧
      placedGroup.inScratch 0 512 = true) ∧
    (((bandEnv st0 slot0 placedGroup placedBand).read32 (.imm 63)).toNat ≤ 63 ∧ InAllotment placedGroup placedBand [(.v 254, 2)]) :=
  ⟨iss0, whole0, by decide +kernel, by decide +kernel, by decide +kernel, by decide +kernel, by decide +kernel, by decide +kernel, by decide +kernel,
    by decide +kernel, by decide +kernel, allot0 (by decide +kernel)⟩
/-- Two bands with sleeves, paired, in a launch with twins. -/
def twinState : State := { st0 with
  launches := [(0, ⟨1, { placedBlock with twin := true, shape := (64, 1, 1) }, 0, 0, 0, none, none, none, [], 0, 1, []⟩)]
  groups := [(0, { placedGroup with n := 64, bands := [{ placedBand with paired := true }, { placedBand with paired := true, slice := 1 }] })] }
theorem witness_MatrixCommandsIssue_twin : ∃ g b, Issuing twinState slot0 g b ∧ Whole hd slot0 b ∧ hd.hy ≠ .s ∧
    twinState.twinRule 0 0 slot0.pc = .wait ∧ mmaBad g 0 512 .e4m3 .e4m3 false ((bandEnv twinState slot0 g b).read32 (.v 0)) = false :=
  ⟨_, _, ⟨rfl, rfl, rfl⟩, ⟨by decide +kernel, by decide +kernel⟩, by decide, by decide +kernel, by decide +kernel⟩
/-- The twins, the second band waiting at the same MMA. -/
def shareState : State := { twinState with
  groups := [(0, { placedGroup with n := 64, bands := [{ placedBand with paired := true },
    { (placedBand.onLanes (BitVec.allOnes 32) fun _ t => { t with wait := .twin }) with paired := true, slice := 1 }] })] }
theorem witness_MatrixCommandsIssue_share : ∃ g b w, Issuing shareState slot0 g b ∧ Whole hd slot0 b ∧ hd.hy ≠ .s ∧
    mmaBad g 0 512 .e4m3 .e4m3 false ((bandEnv shareState slot0 g b).read32 (.v 0)) = false ∧ shareState.twinRule 0 0 slot0.pc = .share ∧
    shareState.band? 0 (twinBand 0) = some w ∧ shareState.engineRoom g.core 2 (bandJoins 0 0 b ++ bandJoins 0 (twinBand 0) w) = true ∧
    w.live.getLsbD 31 = true :=
  ⟨_, _, _, ⟨rfl, rfl, rfl⟩, ⟨by decide +kernel, by decide +kernel⟩, by decide, by decide +kernel, by decide +kernel, rfl, by decide +kernel,
    by decide +kernel⟩
theorem witness_MatrixCommandsIssue_chain :
    Issuing { st0 with cores := [(0, { Core.zero with tiles := [(15, { Tile.zero with openIssued := true })] })] } slot0 placedGroup placedBand ∧
    ({ st0 with cores := [(0, { Core.zero with tiles := [(15, { Tile.zero with openIssued := true })] })] } : State).openIssued placedGroup.core 15 = true :=
  ⟨⟨rfl, rfl, rfl⟩, by decide +kernel⟩
/-- The twins, the second band's GUIDE waiting. -/
def guideState : State := { twinState with
  groups := [(0, { placedGroup with n := 64, bands := [{ placedBand with b := [(1, 0x3F800000)] }, { placedBand with slice := 1, guide := some ⟨3, 5, 0x3F800000, ⟨1, 0⟩, 0⟩ }] })] }
theorem witness_TileReadsAndPairs : Issuing st0 slot0 placedGroup placedBand ∧ Whole hd slot0 placedBand ∧ st0.openIssued placedGroup.core 3 = false ∧
    ((bandEnv st0 slot0 placedGroup placedBand).read32 (.imm 63)).toNat ≤ 63 ∧ (∀ q ∈ (st0.core placedGroup.core).mq, 3 ∉ q.kind.tiles) ∧
    InAllotment placedGroup placedBand [(.v 254, 2)] :=
  ⟨iss0, whole0, by decide +kernel, by decide +kernel, by decide +kernel, allot0 (by decide +kernel)⟩
theorem witness_TileReadsAndPairs_guide : ∃ g b o, Issuing twinState slot0 g b ∧ Whole hd slot0 b ∧ twinState.openIssued g.core 3 = false ∧
    twinState.twinOf g 0 ≠ 0 ∧ twinState.openIssued g.core 5 = false ∧ twinState.band? 0 (twinBand 0) = some o ∧ o.live ≠ 0 ∧ o.guide = none :=
  ⟨_, _, _, ⟨rfl, rfl, rfl⟩, ⟨by decide +kernel, by decide +kernel⟩, by decide +kernel, by decide +kernel, by decide +kernel, rfl, by decide +kernel, rfl⟩
theorem witness_TileReadsAndPairs_both : ∃ g b o p, Issuing guideState slot0 g b ∧ Whole hd slot0 b ∧ guideState.twinOf g 0 ≠ 0 ∧
    guideState.band? 0 (twinBand 0) = some o ∧ o.live ≠ 0 ∧ o.guide = some p ∧ p.d = 3 ∧
    p.w = BitVec.ofNat 32 ((bandEnv guideState slot0 g b).fread .fp32 false (.b 1)) ∧
    guideState.openIssued g.core p.a = false ∧ guideState.engineRoom g.core 1 (bandJoins 0 0 b ++ bandJoins 0 (twinBand 0) o) = true :=
  ⟨_, _, _, _, ⟨rfl, rfl, rfl⟩, ⟨by decide +kernel, by decide +kernel⟩, by decide +kernel, rfl, by decide +kernel, rfl, rfl, by decide +kernel, by decide +kernel,
    by decide +kernel⟩
/-- The small state with one command queued. -/
def cmdState (k : MKind) (tile : Tile) : State := { st0 with cores := [(0, { Core.zero with mq := [⟨7, 1, 0, 0, ⟨1, 0⟩, k, [], none, []⟩], tiles := [(3, tile)] })] }
theorem witness_MatrixCommandsApply : (∀ k ∈ [MKind.mma 3 0 512 .e4m3 .e4m3 false 0, .mchb 3 1023, .mche 3, .accz 3, .accsc 3 0, .sta 3 63 [(31, 1, 2)], .guide 3 4 5 0],
      ((cmdState k .zero).startable 0 7).map (·.kind) = some k) ∧ (cmdState (.accz 3) .zero).eccBad = [] ∧
    (([(31, 1, 2)] : List (Nat × Word × Word)).map (·.1)).Nodup ∧
    (0 ∈ (MKind.mma 3 0 512 .e4m3 .e4m3 false 0).reads ∧ 252 ∈ (MKind.accsc 3 0).reads) ∧
    ((cmdState (.accsc 3 0) .zero).startable 0 7).map (fun cmd => tabGet cmd.got 252) = some none := by decide +kernel
/-- The small state with a scaled step queued, the scale tiles of both operands in the scratchpad at 2048 and 2304. -/
def scaledState : State := { cmdState (.mma 3 0 512 .e4m3 .e4m3 true 0x00090008) .zero with
  mem := memPut [] [(scratchKey 0 (2048 + 0x82), 0x40), (scratchKey 0 (2048 + 0x83), 1), (scratchKey 0 (2304 + 0x80), 2), (scratchKey 0 (2304 + 0x82), 0x40),
    (scratchKey 0 (2304 + 0x83), 1)] }
theorem witness_MatrixCommandsApply_scaled : (scaledState.startable 0 7).isSome = true ∧ takesScale .e4m3 true = true ∧
    (2048 : Nat) = ((0x00090008 : Word).extractLsb' 0 16).toNat * 256 ∧ (2304 : Nat) = ((0x00090008 : Word).extractLsb' 16 16).toNat * 256 ∧
    ((scaledState.startable 0 7).map fun cmd => scaleBad (scaledState.cmdWord cmd) 2048 0 .e4m3 ||
      scaleBad (scaledState.cmdWord cmd) 2304 512 .e4m3) = some false ∧
    ((scaledState.startable 0 7).map fun cmd => (cmd.kind.reads.contains 2048, cmd.got.length)) = some (true, 0) ∧
    ((scaledState.core 0).mq.map (·.id)).Nodup := by decide +kernel
theorem witness_MatrixCommandsApply_chain : ((cmdState (.mma 3 0 512 .e4m3 .e4m3 false 0) { Tile.zero with chain := some ⟨0, [], [], []⟩ }).startable 0 7).isSome = true ∧
    ((cmdState (.mma 3 0 512 .e4m3 .e4m3 false 0) { Tile.zero with chain := some ⟨0, [], [], []⟩ }).core 0).tile 3 ≠ Tile.zero := by decide +kernel
theorem witness_MatrixCommandsApply_end : ((cmdState (.mche 3) { Tile.zero with chain := some ⟨0, [(0, 0x3F800000)], [(0, 1)], [(0, 1)]⟩ }).startable 0 7).map
    (·.kind) = some (.mche 3) := by decide +kernel
theorem witness_TileConversion : ((cmdState (.acccvt 3 .e4m3 true 0 4096) .zero).startable 0 7).map (·.kind) = some (.acccvt 3 .e4m3 true 0 4096) ∧
    Canonical (cmdState (.acccvt 3 .e4m3 true 0 4096) .zero) ∧ (cmdState (.acccvt 3 .e4m3 true 0 4096) .zero).eccBad = [] ∧ 0 + 2 * planesOf .e4m3 * 256 ≤ 4096 := ⟨by decide +kernel, by decide +kernel, rfl, by decide⟩
theorem witness_TileConversion_twin : ∃ b th, (mapLanes st0 fun _ t => { t with wait := .twin }).band? 0 0 = some b ∧
    b.threads.find? (fun t => t.here && t.wait == .twin) = some th ∧ (mapLanes st0 fun _ t => { t with wait := .twin }).twinRule 0 0 th.pc ≠ .wait ∧
    (mapLanes st0 fun _ t => { t with wait := .twin }).frozen 0 = false := ⟨_, _, rfl, rfl, by decide +kernel, by decide +kernel⟩

/-! ### The copy engine -/

/-- Bytes of a descriptor, by the offset, width and value of its fields. -/
def descOf (n : Nat) (fs : List (Nat × Nat × Nat)) : List Byte :=
  (List.range n).map fun i =>
    match fs.find? fun f => f.1 ≤ i && i < f.1 + f.2.1 with
    | some f => BitVec.ofNat 8 (f.2.2 / 256 ^ (i - f.1))
    | none => 0
/-- The small state with bytes in the group's scratchpad. -/
def withScratch (off : Nat) (bs : List Byte) : State := { st0 with mem := memPut [] (mapIdx (fun i b => (scratchKey 0 (off + i), b)) bs 0) }
/-- Two lanes' handles for COPYL: a source in the data segment and a destination in the scratchpad. -/
def copyState : State := { mapLanes st0 fun i t => { t with v := [(2, BitVec.ofNat 32 (16 * i)), (3, 0x20000), (4, BitVec.ofNat 32 (16 * i)), (5, 0xFFFE0000)] } with
  cur := some { slot0 with active := 3 } }
theorem witness_CopiesStart_lanes : ∃ g b ends, Issuing copyState { slot0 with active := 3 } g b ∧ copyState.eccBad = [] ∧ (16 : Nat) = copyBytes .b16 ∧
    InAllotment g b [(.v 4, 2), (.v 2, 2)] ∧ (∀ th ∈ b.threads, th.here = true) ∧
    ends = (laneEnvs copyState { slot0 with active := 3 } g b (guarded hd { slot0 with active := 3 } b)).map (fun u =>
      (copyState.mkEnd 0 (some u.lane) (hsel (u.read true (.v 2))) (hoff (u.read true (.v 2))),
        copyState.mkEnd 0 (some u.lane) (hsel (u.read true (.v 4))) (hoff (u.read true (.v 4))))) ∧
    AllPerformed (ends.flatMap fun p => [⟨p.1.lane.getD 0, p.1.handle, (copyState.endAtIssue 0 0 p.1 16 .copyFrom).orIllegal (p.1.off % 16 != 0)⟩,
      ⟨p.2.lane.getD 0, p.2.handle, (copyState.endAtIssue 0 0 p.2 16 .copyTo).orIllegal (p.2.off % 16 != 0)⟩]) ∧ ends.length = 2 ∧
    copyState.joinRoom (joinsOf 0 0 b (guarded hd { slot0 with active := 3 } b)) = true ∧
    copyState.copyRoom g.core false (ends.map fun p => ⟨[p.1], p.2, 16, none, none, none, [], [], false, false⟩) = true :=
  ⟨_, _, _, ⟨rfl, rfl, rfl⟩, rfl, rfl, by unfold InAllotment; decide +kernel, by decide +kernel, rfl, by unfold AllPerformed; decide +kernel,
    by decide +kernel, by decide +kernel, by decide +kernel⟩
/-- A piece of 16 bytes from a place in one segment to a place in another. -/
def pieceOf (src dst : BitVec 16) (off : Int) : Piece :=
  ⟨[⟨src, off, some 0, none⟩], ⟨dst, 64, some 0, none⟩, 16, none, none, none, [], [], false, false⟩
/-- A tile descriptor of two rows of 16 bytes from the data segment to the scratchpad, to one destination or to group 0 by its mask. -/
def tileBytes (mcast : Bool) : List Byte := descOf 128 [(0, 2, if mcast then 2 else 0), (4, 2, 2), (6, 2, 16), (8, 8, 0x0002000000000000), (0x10, 4, 64),
  (0x14, 4, 16), (0x18, 8, 0xFFFE000000000400), (0x20, 24, if mcast then 1 else 0)]
theorem witness_CopiesStart_tile : Issuing (withScratch 64 (tileBytes false)) slot0 placedGroup placedBand ∧ Whole hd slot0 placedBand ∧
    ((bandEnv (withScratch 64 (tileBytes false)) slot0 placedGroup placedBand).read32 (.imm 64)).toNat = 64 ∧ 64 % 64 = 0 ∧ placedGroup.inScratch 64 128 = true ∧
    (withScratch 64 (tileBytes false)).eccBad = [] ∧ (withScratch 64 (tileBytes false)).copyRoom 0 true (List.replicate 2 (pieceOf 2 0xFFFE 0)) = true ∧
    (withScratch 64 (tileBytes false)).joinRoom (joinsOf 0 0 placedBand placedBand.live) = true ∧
    (tileDesc placedGroup ((withScratch 64 (tileBytes false)).scratchBytes slot0 64 128)).map (fun t => (t.rows, t.rowBytes, t.srcStride, t.dstStride, t.mcast)) =
      some (2, 16, 64, 16, false) ∧
    (∀ r ∈ [0, 64], ((withScratch 64 (tileBytes false)).endAccess 0 0 ((withScratch 64 (tileBytes false)).mkEnd 0 none 2 r) 16 .copyFrom).res.row = 8) ∧
    ∀ r ∈ [1024, 1040], ((withScratch 64 (tileBytes false)).endAccess 0 0 ((withScratch 64 (tileBytes false)).mkEnd 0 none 0xFFFE r) 16 .copyTo).res.row = 8 :=
  ⟨⟨rfl, rfl, rfl⟩, whole0, by decide +kernel, by decide, by decide +kernel, rfl, by decide +kernel, by decide +kernel, by decide +kernel, by decide +kernel,
    by decide +kernel⟩
theorem witness_CopiesStart_multicast :
    (tileDesc placedGroup ((withScratch 64 (tileBytes true)).scratchBytes slot0 64 128)).map (fun t => (t.rows, t.mask, t.mcast)) = some (2, 1, true) ∧
    (withScratch 64 (tileBytes true)).receivers placedGroup 1 [(1024, 16), (1040, 16)] = some [0] := by decide +kernel
/-- A gather descriptor of two elements of 4 bytes, its list at 256. -/
def gatherBytes : List Byte := descOf 64 [(0, 1, 0), (2, 2, 2), (4, 4, 256), (8, 8, 0x0002000000000000), (0x10, 8, 0xFFFE000000000400), (0x18, 4, 8)]
theorem witness_CopiesStart_gather : Issuing (withScratch 64 gatherBytes) slot0 placedGroup placedBand ∧ Whole hd slot0 placedBand ∧
    placedGroup.inScratch 64 64 = true ∧ gatherSize (leAt ((withScratch 64 gatherBytes).scratchBytes slot0 64 64) 0 1) = some 4 ∧
    2 = leAt ((withScratch 64 gatherBytes).scratchBytes slot0 64 64) 2 2 ∧ 256 = leAt ((withScratch 64 gatherBytes).scratchBytes slot0 64 64) 4 4 ∧
    zeroAt ((withScratch 64 gatherBytes).scratchBytes slot0 64 64) 1 1 = true ∧ zeroAt ((withScratch 64 gatherBytes).scratchBytes slot0 64 64) 0x1C 36 = true ∧
    256 % 4 = 0 ∧ placedGroup.inScratch 256 (4 * 2) = true ∧
    ((withScratch 64 gatherBytes).endAtIssue 0 0 ((withScratch 64 gatherBytes).mkEnd 0 none 2 0) 4 .copyFrom).row = 8 ∧
    ∀ r ∈ [1024, 1028], ((withScratch 64 gatherBytes).endAtIssue 0 0 ((withScratch 64 gatherBytes).mkEnd 0 none 0xFFFE r) 4 .copyTo).row = 8 :=
  ⟨⟨rfl, rfl, rfl⟩, whole0, by decide +kernel, by decide +kernel, by decide +kernel, by decide +kernel, by decide +kernel, by decide +kernel, by decide,
    by decide +kernel, by decide +kernel, by decide +kernel⟩
/-- A copy of one such piece. -/
def copyOf (src dst : BitVec 16) (off : Int) : Copy := ⟨9, 1, 0, 0, 0, ⟨1, 0⟩, false, [], [pieceOf src dst off], none, none, [], false, false⟩
/-- The small state with a copy in flight. -/
def flying (cp : Copy) : State := { st0 with copies := [cp], nextId := 10 }
theorem witness_CopiesLandOrFail : (flying (copyOf 2 2 0)).copies.find? (fun q => q.id == 9) = some (copyOf 2 2 0) ∧ (copyOf 2 2 0).landed = false ∧
    (∃ p, (copyOf 2 2 0).pieces[0]? = some p ∧ p.landed = false ∧ (∃ bs, (flying (copyOf 2 2 0)).pieceSource (copyOf 2 2 0) p = .ok bs) ∧
      ∃ q, (flying (copyOf 2 2 0)).pieceTarget (copyOf 2 2 0) p = .ok q) ∧ (flying (copyOf 2 2 0)).pieceUp (copyOf 2 2 0) (pieceOf 2 2 0) = true ∧
    (pieceOf 2 2 0).out = [] ∧ (flying (copyOf 2 2 0)).landSource (copyOf 2 2 0) (pieceOf 2 2 0) = flying (copyOf 2 2 0) :=
  ⟨by decide +kernel, rfl, ⟨_, rfl, rfl, ⟨_, rfl⟩, ⟨_, rfl⟩⟩, by decide +kernel, rfl, by decide +kernel⟩
/-- A copy of a row of two lines from the data segment to the group's scratchpad. -/
def rowPiece : Piece := { pieceOf 2 0xFFFE 0 with n := 256 }
def rowCopy : Copy := { copyOf 2 0xFFFE 0 with tiled := true, pieces := [rowPiece] }
theorem witness_CopiesLandOrFail_units : (flying rowCopy).byUnits rowCopy 0 rowPiece = true ∧ (flying rowCopy).pieceUp rowCopy rowPiece = true ∧
    (1 ∉ rowPiece.out) ∧ rowCopy.unit rowPiece * 1 < 256 ∧
    (((flying rowCopy).pieceTarget rowCopy rowPiece).toOption.map fun q => (q.1, q.2.length)) = some (.scratch, 256) ∧
    (flying rowCopy).posted = [] := by decide +kernel
/-- A copy to device memory that arrives at a counter, with nothing under way. -/
def arriveCopy : Copy := { copyOf 2 2 0 with arrv := some (2, [0]) }
theorem witness_CopiesLandOrFail_arrives : (flying arriveCopy).writes = [] ∧ (flying arriveCopy).posted = [] ∧
    (flying arriveCopy).copies.find? (fun q => q.id == 9) = some arriveCopy ∧ (flying arriveCopy).pieceUp arriveCopy (pieceOf 2 2 0) = true ∧
    (((flying arriveCopy).pieceTarget arriveCopy (pieceOf 2 2 0)).toOption.map fun q => (q.1, q.2.length)) = some (.device, 16) ∧
    ((flying arriveCopy).pieceSource arriveCopy (pieceOf 2 2 0)).toOption.isSome = true ∧
    (((flying (copyOf 2 0xFFFE 0)).pieceTarget (copyOf 2 0xFFFE 0) (pieceOf 2 0xFFFE 0)).toOption.map (·.1)) = some .scratch := by decide +kernel
/-- The failing copies' piece may go on, and its context escalates memory errors or does not. -/
theorem witness_CopiesLandOrFail_context : (∀ cp ∈ [copyOf 9 2 0, copyOf 2 9 0], (flying cp).copies.find? (fun q => q.id == 9) = some cp ∧
      cp.landed = false ∧ ∀ p ∈ cp.pieces, p.landed = false ∧ (flying cp).pieceUp cp p = true) ∧
    ((flying (copyOf 9 2 0)).ctx? 1).map (·.escalate) = some false ∧
    (({ flying (copyOf 9 2 0) with ctxs := [(1, { ctx1 with escalate := true })] } : State).ctx? 1).map (·.escalate) = some true ∧
    (({ flying (copyOf 9 2 0) with ctxs := [(1, { ctx1 with escalate := true })] } : State).core 0).cFault = none := by decide +kernel
/-- A core with no line operation left, and a context whose line is high: the piece does not start. -/
theorem witness_CopiesLandOrFail_waits : (flying (copyOf 2 2 0)).copies.find? (fun q => q.id == 9) = some (copyOf 2 2 0) ∧
    ({ flying (copyOf 2 2 0) with ctxs := [(1, { ctx1 with line := true, arrived := [0], halt := .halting })] } : State).pieceUp (copyOf 2 2 0) (pieceOf 2 2 0) = false := by
  decide +kernel
theorem witness_CopiesLandOrFail_fails : (∃ p e, (copyOf 9 2 0).pieces[0]? = some p ∧ (flying (copyOf 9 2 0)).pieceSource (copyOf 9 2 0) p = .error (true, e)) ∧
    ∃ p bs e, (copyOf 2 9 0).pieces[0]? = some p ∧ (flying (copyOf 2 9 0)).pieceSource (copyOf 2 9 0) p = .ok bs ∧
      (flying (copyOf 2 9 0)).pieceTarget (copyOf 2 9 0) p = .error (true, e) :=
  ⟨⟨_, _, rfl, rfl⟩, ⟨_, _, _, rfl, rfl, rfl⟩⟩

/-! ### Mailboxes -/

/-- A device-bound mailbox of 16 slots over the data segment, with two accepted records. -/
def mbIn : Mailbox := ⟨false, true, false, 16, 0x0002000000000000, 0x0002000000000800, 0x0002000000000808, 2, 0, 1, 0, [],
  [(1, List.replicate 56 7), (2, List.replicate 56 9)], [], 0⟩
/-- The small state with mailbox 3, and B4:B5 holding 1. -/
def mbState (mb : Mailbox) : State := { withB [(4, 1)] with ctxs := [(1, { ctx1 with mailboxes := [(3, mb)] })] }
theorem witness_MailboxInstructions_take : ∃ g b, Issuing (mbState mbIn) slot0 g b ∧ Whole hd slot0 b ∧
    3 = ((bandEnv (mbState mbIn) slot0 g b).read32 (.imm 3)).toNat ∧ 512 = ((bandEnv (mbState mbIn) slot0 g b).read32 (.imm 512)).toNat ∧
    (mbState mbIn).mbx? g.ctx 3 = some mbIn ∧ mbIn.enabled = true ∧ g.inScratch 512 56 = true ∧ mbIn.toHost = false ∧ mbIn.launcher = false ∧
    mbIn.nextTake ≤ mbIn.accepted :=
  ⟨_, _, ⟨rfl, rfl, rfl⟩, ⟨by decide +kernel, by decide +kernel⟩, by decide +kernel, by decide +kernel, rfl, rfl, by decide +kernel, rfl, rfl, by decide⟩
/-- The mailbox with all its records taken. -/
def mbTaken : Mailbox := { mbIn with taken := 3 }
theorem witness_MailboxInstructions_empty : ∃ g b, Issuing (mbState mbTaken) slot0 g b ∧ Whole hd slot0 b ∧
    3 = ((bandEnv (mbState mbTaken) slot0 g b).read32 (.imm 3)).toNat ∧ 512 = ((bandEnv (mbState mbTaken) slot0 g b).read32 (.imm 512)).toNat ∧
    (mbState mbTaken).mbx? g.ctx 3 = some mbTaken ∧ g.inScratch 512 56 = true ∧ mbTaken.accepted < mbTaken.nextTake ∧
    1 = (b.getBPair (pairB (.b 4))).toNat ∧ mbTaken.watermark < 1 ∧ 1 < mbTaken.taken ∧ 1 ∉ mbTaken.done :=
  ⟨_, _, ⟨rfl, rfl, rfl⟩, ⟨by decide +kernel, by decide +kernel⟩, by decide +kernel, by decide +kernel, rfl, by decide +kernel, by decide,
    by decide +kernel, by decide, by decide, by decide⟩
/-- A host-bound mailbox with k of its 16 slots in use. -/
def mbOut (k : Nat) : Mailbox := { mbIn with toHost := true, accepted := k, recs := [] }
theorem witness_MailboxInstructions_post : ∃ g b, Issuing (mbState (mbOut 15)) slot0 g b ∧ Whole hd slot0 b ∧ (mbState (mbOut 15)).eccBad = [] ∧
    (mbState (mbOut 15)).mbx? g.ctx 3 = some (mbOut 15) ∧ ((mbOut 15).accepted : Int) - (mbOut 15).consumed < (mbOut 15).slots :=
  ⟨_, _, ⟨rfl, rfl, rfl⟩, ⟨by decide +kernel, by decide +kernel⟩, rfl, rfl, by decide⟩
theorem witness_MailboxInstructions_full : ∃ g b, Issuing (mbState (mbOut 16)) slot0 g b ∧ Whole hd slot0 b ∧
    (mbState (mbOut 16)).mbx? g.ctx 3 = some (mbOut 16) ∧ ((mbOut 16).slots : Int) ≤ ((mbOut 16).accepted : Int) - (mbOut 16).consumed :=
  ⟨_, _, ⟨rfl, rfl, rfl⟩, ⟨by decide +kernel, by decide +kernel⟩, rfl, by decide⟩
theorem witness_MailboxInstructions_enabled : mbTaken.enabled = true ∧ (mbOut 15).enabled = true ∧ (mbOut 15).toHost = true ∧ mbTaken.toHost = false ∧
    mbTaken.launcher = false ∧ (mbState (mbOut 15)).eccBad = [] ∧ (mbState mbIn).writes = [] ∧ Canonical (mbState mbIn) ∧
    ((mbIn.recs.map (·.2.length)) = [56, 56]) := by decide +kernel
/-- A request of host port A on context 1. -/
def reqA : Req := ⟨.hostA, 5, 1, 0, 0⟩
theorem witness_MailboxEvents_submit : (mbState mbIn).mbx? 1 3 = some mbIn ∧
    (let store := descOf 64 [(0, 4, 4), (4, 2, 1)]
     4 = numAt store 0 4 ∧ 2 = numAt store 4 2 + 1 ∧ 2 = (4 + 2 ^ 32 - (mbIn.accepted + mbIn.incoming.length) % 2 ^ 32) % 2 ^ 32 ∧
      (mbState mbIn).level ≠ 0 ∧ (mbState mbIn).shut = false ∧ ((mbState mbIn).port mbIn.port).tdi ≠ Tdi.error ∧ store.length = 64 ∧ numAt store 6 2 < 2 ∧
      mbIn.accepted + mbIn.incoming.length - (mbIn.watermark + mbIn.done.length) + 2 ≤ mbIn.slots) := by decide +kernel
/-- The mailbox with two records of a submission still to be accepted. -/
def mbComing : Mailbox := { mbIn with incoming := [(3, false, none), (4, true, some (List.replicate 56 1))] }
/-- The band's threads waiting in a queue of mailbox 3. -/
def mbWaiting (mb : Mailbox) (w : QWait) : State :=
  { mapLanes st0 fun _ t => { t with wait := .queue w } with ctxs := [(1, { ctx1 with mailboxes := [(3, mb)] })] }
theorem witness_MailboxEvents_accept : (mbState mbComing).mbx? 1 3 = some mbComing ∧
    mbComing.incoming = (3, false, none) :: [(4, true, some (List.replicate 56 1))] ∧ (mbState mbComing).eccBad = [] ∧
    (mbState mbComing).ensignRuns = true := ⟨rfl, rfl, rfl, by decide +kernel⟩
theorem witness_MailboxEvents_wake : ∃ g b th, (mbWaiting mbIn (.take 3)).frozen 0 = false ∧ (mbWaiting mbIn (.take 3)).group? 0 = some g ∧
    g.bands[0]? = some b ∧ g.ctx = 1 ∧ mbIn.nextTake ≤ mbIn.accepted ∧ b.threads[31]? = some th ∧ th.wait = .queue (.take 3) :=
  ⟨_, _, _, by decide +kernel, rfl, rfl, rfl, by decide, rfl, rfl⟩
theorem witness_MailboxEvents_wakePost : ∃ g b th, (mbWaiting (mbOut 15) (.post 3)).frozen 0 = false ∧
    (mbWaiting (mbOut 15) (.post 3)).group? 0 = some g ∧ g.bands[0]? = some b ∧ g.ctx = 1 ∧
    ((mbOut 15).accepted : Int) - (mbOut 15).consumed < (mbOut 15).slots ∧ b.threads[0]? = some th ∧ th.wait = .queue (.post 3) :=
  ⟨_, _, _, by decide +kernel, rfl, rfl, rfl, by decide, rfl, rfl⟩
theorem served0 {s : State} (h : s.level ≠ 0) (hp : (s.port 0).tdi ≠ Tdi.error) (hs : s.shut = false := by rfl) : Served s reqA :=
  ⟨h, hs, rfl, fun p e => by obtain rfl : p = 0 := (Option.some.inj e).symm; exact hp⟩
theorem witness_MailboxEvents_set : Served st0 reqA ∧ st0.leads reqA.party = true ∧ st0.ctx? reqA.ctx = some ctx1 ∧
    (mailboxOf ctx1 (descOf 64 [(1, 1, 1), (4, 4, 16), (8, 8, 0x0002000000000000)]) ((partyPort reqA.party).getD 0)).isSome = true :=
  ⟨served0 (by decide) (by decide), by decide +kernel, rfl, by decide +kernel⟩

/-! ### Work graphs and children -/

/-- A launch block of one group of 32 threads in one stage of n registers, as a node if asked. -/
def blockBytes (node : Bool) (regs : Nat) : List Byte := descOf 128 ([(0, 2, if node then 8 else 0), (2, 1, 1), (4, 2, 32), (6, 2, 1), (8, 2, 1),
  (0xA, 2, 1), (0xC, 2, 1), (0xE, 2, 1), (0x10, 2, 1), (0x12, 2, 1), (0x14, 2, 1), (0x16, 2, 0xFFFF), (0x24, 2, regs), (0x26, 2, 1), (0x28, 4, 1024),
  (0x66, 2, 1)] ++ if node then [(0x18, 2, 6), (0x1A, 2, 2)] else [])
/-- The small state with a launch block at the start of the data segment, its handle in the pair V2:V3 of every lane and in B4:B5. -/
def blockState (node : Bool) (regs : Nat) : State := { (mapLanes st0 fun i t => { t with v := [(1, BitVec.ofNat 32 i), (2, 0), (3, 0x20000)] }).modBand 0 0
    fun b => { b with b := [(4, 0), (5, 0x20000), (6, 1)] } with
  mem := memPut st0.mem (mapIdx (fun i b => (segKey 1 2 i, b)) (blockBytes node regs) 0)
  cur := some { slot0 with active := 3 } }
/-- What REC finds for each lane of that state. -/
def itemsOf (s : State) (c : Slot) (g : Group) (b : Band) (x : Context) : List (Env × Access × Option Block) :=
  (laneEnvs s c g b (guarded hd c b)).map fun e =>
    match (e.access (hsel (e.read true (.v 2))) (hoff (e.read true (.v 2))) 128 .load false).res with
    | .ok sp ks => (e, e.access (hsel (e.read true (.v 2))) (hoff (e.read true (.v 2))) 128 .load false,
        (x.block (ks.map fun k => s.readByte g.die c.gid c.band e.lane sp k) 1).filter fun n => n.isNode && 1 + (n.recBytes + 3) / 4 ≤ allotment g b)
    | _ => (e, e.access (hsel (e.read true (.v 2))) (hoff (e.read true (.v 2))) 128 .load false, none)
theorem witness_WorkGraphRecords_rec : (blockState true 64).eccBad = [] ∧ (blockState true 64).posted = [] ∧ ∃ g b x, Issuing (blockState true 64) { slot0 with active := 3 } g b ∧ InAllotment g b [(.v 1, 1), (.v 2, 2)] ∧
    (blockState true 64).ctx? g.ctx = some x ∧
    (∀ q ∈ itemsOf (blockState true 64) { slot0 with active := 3 } g b x, q.2.1.res.row = 8 ∧ q.2.2.isSome = true) ∧
    (itemsOf (blockState true 64) { slot0 with active := 3 } g b x).length = 2 ∧
    (∀ r ∈ (itemsOf (blockState true 64) { slot0 with active := 3 } g b x).filterMap (fun q => q.2.2.map fun n => (q.2.1.h, recordOf q.1.t 1 n.recBytes, n.countdown)),
      r.2.1.length = 6 ∧ ((blockState true 64).part 0).recordsOf g.ctx r.1 (g.graphOr 0) + 2 ≤ 4096) :=
  ⟨rfl, rfl, _, _, _, ⟨rfl, rfl, rfl⟩, by unfold InAllotment; decide +kernel, rfl, by decide +kernel, by decide +kernel, by decide +kernel⟩
/-- The small state's group as a node of records of 6 bytes. -/
def nodeState : State := { st0 with
  launches := [(0, ⟨1, { placedBlock with node := true, recBytes := 6, perGroup := 2 }, 0, 0, 0, none, none, none, [], 0, 1, []⟩)]
  groups := [(0, { placedGroup with node := true })] }
theorem witness_WorkGraphRecords_recget : ∃ g b, Issuing nodeState slot0 g b ∧ InAllotment g b [(.v 1, 1)] ∧ g.node = true ∧ g.inl = [] ∧
    2 = (((nodeState.launch? g.lid).map (·.block.recBytes)).getD 0 + 3) / 4 ∧ 1 + 2 ≤ allotment g b :=
  ⟨_, _, ⟨rfl, rfl, rfl⟩, by unfold InAllotment; decide +kernel, rfl, rfl, rfl, by decide +kernel⟩
/-- A gather buffer of one record, its countdown run out, over that launch block. -/
def gather0 (n : Nat) (running : Bool) : Gather := ⟨1, 0x0002000000000000, 4, running, 0, List.replicate n (List.replicate 6 1)⟩
/-- The state with it. -/
def gatherState (n : Nat) (running : Bool) : State := { blockState true 64 with parts := [(0, { Partition.zero with owner := some 1, gathers := [gather0 n running] })] }
/-- What a launch of its records makes of it. -/
def gatherLaunch (s : State) : Option State :=
  match s.devRead 1 0x0002000000000000 0 128, s.ctx? 1 with
  | some bs, some x => (x.block bs 1).bind fun blk =>
    (s.newLaunch 1 blk.oneGroup 0x0002000000000000 0 none none (some 4) ((gather0 2 true).records.take (max blk.perGroup 1))).2.writeBinds 1 ⟨[[1]], [0], [[3]]⟩
  | _, _ => none
theorem witness_WorkGraphRecords_launch :
    ((gatherState 2 true).part 0).gathers[0]? = some (gather0 2 true) ∧ ((gatherState 2 true).ctx? (gather0 2 true).ctx).isSome = true ∧
    (gather0 2 true).running = true ∧ (gather0 2 true).count = 0 ∧ (gather0 2 true).records ≠ [] ∧ (gatherLaunch (gatherState 2 true)).isSome = true ∧
    ((gatherState 2 false).part 0).gathers[0]? = some (gather0 2 false) ∧ (gather0 2 false).records.length = 2 ∧
    (gatherLaunch (gatherState 2 false)).isSome = true ∧ (gatherState 2 true).ensignRuns = true ∧ (gatherState 2 true).mode.getLsbD 1 = true ∧
    ((gatherState 2 true).devRead 1 0x0002000000000000 0 128).isSome = true := by decide +kernel
/-- In a group of one band, every other band stands gathered. -/
theorem alone {g : Group} {b : Band} {pc : PC} (h : g.bands = [b]) : ∀ i b', i ≠ 0 → g.bands[i]? = some b' → gatheredAt b' pc = true := by
  intro i b' hi hb
  cases i with
  | zero => exact absurd rfl hi
  | succ n => simp [h] at hb
/-- The small state about to fork. -/
def forkState : State := { blockState false 64 with cur := some slot0 }
theorem witness_ForkAndChildren_fork : ∃ g b cx, Issuing forkState slot0 g b ∧ slot0.active = b.live ∧
    (∀ i b', i ≠ slot0.band → g.bands[i]? = some b' → gatheredAt b' slot0.pc = true) ∧
    g.agreeAt (forkArgs forkState slot0 g (.b 8) (.b 4) (.b 6)) = some (0x0002000000000000, 1, 0) ∧ g.agree (bandGuard hd) = some true ∧
    forkState.ctx? g.ctx = some cx ∧ (forkState.part (partOf g.core)).children.length < 64 ∧
    (match forkState.resolve 0 0 0 2 0 128 .load with
      | .ok sp ks => decide (forkState.landAt 0 0 0 (.ok sp ks) = forkState) && (cx.block (ks.map fun k => forkState.readByte g.die 0 0 0 sp k) 1).isSome
      | _ => false) = true :=
  ⟨_, _, _, ⟨rfl, rfl, rfl⟩, by decide +kernel, alone rfl, by decide +kernel, by decide +kernel, rfl, by decide +kernel, by decide +kernel⟩
/-- A child queue that is full, with the group's S.INLMAX and a spill queue of n places. -/
def fullState (inl : Word) (n : Nat) : State := { (blockState false 64).modGroup 0 fun g => { g with inlmax := inl } with
  cur := some slot0
  parts := [(0, { Partition.zero with owner := some 1, children := List.replicate 64 ⟨7, 1, 0x0002000000000000, 0, 1, 0, none⟩ })]
  ctxs := [(1, { ctx1 with spill := 0x0002000000000800, spillCap := n })] }
/-- The block a FORK finds in such a state. -/
def forkBlock (s : State) : Option Block :=
  match s.ctx? 1, s.resolve 0 0 0 2 0 128 .load with
  | some cx, .ok sp ks => cx.block (ks.map fun k => s.readByte 0 0 0 0 sp k) 1
  | _, _ => none
theorem witness_ForkAndChildren_full : ∀ s ∈ [fullState 0 1, fullState 0 0, fullState 8 1], ∃ g b, Issuing s slot0 g b ∧ slot0.active = b.live ∧
    (∀ i b', i ≠ slot0.band → g.bands[i]? = some b' → gatheredAt b' slot0.pc = true) ∧ s.eccBad = [] ∧ g.place ≠ .ended ∧ s.midStep 0 = false ∧
    g.agreeAt (forkArgs s slot0 g (.b 8) (.b 4) (.b 6)) = some (0x0002000000000000, 1, 0) ∧ g.agree (bandGuard hd) = some true ∧
    64 ≤ (s.part (partOf g.core)).children.length ∧ (forkBlock s).isSome = true := by
  intro s hs
  simp only [List.mem_cons, List.not_mem_nil, or_false] at hs
  rcases hs with rfl | rfl | rfl <;> exact ⟨_, _, ⟨rfl, rfl, rfl⟩, by decide +kernel, alone rfl, rfl, by decide, by decide +kernel, by decide +kernel,
    by decide +kernel, by decide +kernel, by decide +kernel⟩
theorem witness_ForkAndChildren_spill : (forkBlock (fullState 0 1)).map (canInline { placedGroup with inlmax := 0 }) = some false ∧
    ((fullState 0 1).ctx? 1).map (fun x => (decide (hsel x.spill ≠ 0 ∧ x.spillQ.length < x.spillCap))) = some true ∧
    (forkBlock (fullState 0 0)).map (canInline { placedGroup with inlmax := 0 }) = some false ∧
    ((fullState 0 0).ctx? 1).map (fun x => decide (x.spillCap ≤ x.spillQ.length)) = some true := by decide +kernel
theorem witness_ForkAndChildren_start : (forkBlock (fullState 8 1)).map (canInline { placedGroup with inlmax := 8 }) = some true ∧
    needGrowth placedGroup (frameAt ctx1.privMax placedGroup.budget 1 + 4 * (placedGroup.budget + 48)) = [] ∧
    (fullState 8 1).fileErr placedGroup 0 = none ∧ (fullState 8 1).loads = [] ∧
    (forkBlock (fullState 8 1)).map (fun blk => ((Inline.issued ⟨blk, 0x0002000000000000, 0, 1, 0, 0, [], [], ⟨1, 4⟩⟩
      (blk.clusters * Inline.units ⟨blk, 0x0002000000000000, 0, 1, 0, 0, [], [], ⟨1, 4⟩⟩) 0).isSome, decide (31 < blk.threads))) = some (true, true) := by
  decide +kernel
/-- A child of the group, of launch 7. -/
def child0 : Child := ⟨7, 1, 0x0002000000000000, 0, 1, 0, none⟩
/-- The state with it in the child queue, its launch with n clusters still to commit, and a child in the spill queue. -/
def childState (n : Nat) : State := { st0 with
  launches := [(0, ⟨1, placedBlock, 0, 0, 0, none, none, none, [], 0, 1, [0]⟩), (7, ⟨1, placedBlock, 0, 0, 0, some 0, none, none, [], n, 1, []⟩)]
  parts := [(0, { Partition.zero with owner := some 1, children := [child0] })]
  ctxs := [(1, { ctx1 with spillQ := [child0] })] }
theorem witness_ForkAndChildren_admit : ((childState 1).part 0).children = child0 :: [] ∧
    ((((childState 0).launch? 7).map (·.toCommit)).getD 0 = 0) ∧ (((childState 1).launch? 7).map (·.toCommit)).getD 0 ≠ 0 ∧
    (childState 1).mode.getLsbD 1 = true ∧ (childState 1).ensignRuns = true ∧
    (childState 1).unfinished (fun lid l => l.mbx.isNone && ((childState 1).part 0).owner == some l.ctx && !(childState 1).childWaits lid) = none ∧
    (((childState 1).modPart 0 fun p => { p with children := [] }).writeBinds 7 ⟨[[0]], [0], [[191]]⟩).isSome = true := by
  decide +kernel
theorem witness_ForkAndChildren_refill : ∃ x g, (childState 1).ctx? 1 = some x ∧ x.spillQ = child0 :: [] ∧ (childState 1).group? child0.parent = some g ∧
    partOf g.core = 0 ∧ ((childState 1).part 0).children.length < 64 := ⟨_, _, rfl, rfl, rfl, by decide, by decide +kernel⟩
/-- The state in which the child has been taken and one cluster of its launch has no bind records yet. -/
def unfinishedState : State := { childState 1 with
  launches := [(7, ⟨1, placedBlock, 0, 0, 0, some 0, none, none, [], 1, 1, []⟩)], parts := [(0, { Partition.zero with owner := some 1 })], ctxs := [(1, ctx1)] }
theorem witness_ForkAndChildren_unfinished :
    unfinishedState.unfinished (fun lid l => l.mbx.isNone && (unfinishedState.part 0).owner == some l.ctx && !unfinishedState.childWaits lid) = some 7 ∧
    unfinishedState.ensignRuns = true ∧ unfinishedState.mode.getLsbD 1 = true ∧ (unfinishedState.writeBinds 7 ⟨[[0]], [0], [[191]]⟩).isSome = true := by
  decide +kernel
/-- An inline child of one group whose threads have all ended. -/
def inline0 : Inline := ⟨placedBlock, 0x0002000000000000, 0, 1, 0, 7, [BitVec.allOnes 32], [], ⟨1, 4⟩⟩
/-- The group with it. -/
def inlineGroup : Group := { placedGroup with
  inl := [inline0], bands := [placedBand.onLanes (BitVec.allOnes 32) fun _ t => { t with live := false }] }
theorem witness_ForkAndChildren_inline : ({ st0 with groups := [(0, inlineGroup)] } : State).group? 0 = some inlineGroup ∧ inlineGroup.inl = [inline0] ∧
    ({ st0 with groups := [(0, inlineGroup)] } : State).frozen 0 = false ∧
    (∀ b ∈ inlineGroup.bands, ∀ th ∈ b.threads, th.here = false ∧ th.openOps = 0 ∧ th.sealed = []) ∧
    inline0.issued (inline0.block.clusters * inline0.units) (inline0.index + 1) = none :=
  ⟨rfl, rfl, by decide +kernel, by decide +kernel, by decide +kernel⟩
/-- The group swapped out. -/
def savedState (pl : GPlace) (slots : List BindRec) : State := { st0 with
  groups := [(0, { placedGroup with place := pl })], cores := [(5, { Core.zero with slots := slots })] }
theorem witness_ForkAndChildren_resume : ∃ g, (savedState .forked []).group? 0 = some g ∧ g.place = .forked ∧ (savedState .forked []).inShadow 0 = false ∧
    (∀ p ∈ (savedState .forked []).launches, p.2.parent = some 0 → p.2.groupsLeft = 0) ∧
    (∀ p ∈ (savedState .forked []).cores, ∀ r ∈ p.2.slots, r.kind = 2 → r.gid ≠ some 0) ∧ partOf 5 = partOf g.core ∧
    (savedState .forked []).mode.getLsbD 1 = true ∧ ((savedState .forked []).part (partOf 5)).owner = some g.ctx ∧
    ((savedState .forked []).core 5).slots.length < 64 ∧ (savedState .forked []).ensignRuns = true ∧ (savedState .forked []).saving (partOf 5) = none :=
  ⟨_, rfl, rfl, by decide +kernel, by decide +kernel, by decide +kernel, by decide, by decide, by decide +kernel, by decide +kernel, by decide +kernel,
    by decide +kernel⟩
/-- A carry record for the PHASE at offset 0: V1 and B4 go on. -/
def phaseState : State := { withB [(4, 9)] with
  ctxs := [(1, { ctx1 with codes := [(1, ⟨[], [⟨0, [1], [4], [], [], [], [], false⟩], [], 0, 0, 0⟩)] })] }
theorem witness_PhasesAndMoves_phase : ∃ g b, Issuing phaseState slot0 g b ∧ slot0.active = b.live ∧
    (∀ i b', i ≠ slot0.band → g.bands[i]? = some b' → gatheredAt b' slot0.pc = true) ∧ g.agree (bandGuard hd) = some true ∧
    (phaseState.carryAt g.ctx slot0.pc).v = [1] ∧ (phaseState.carryAt g.ctx slot0.pc).bad = false ∧ (∀ i ∈ (phaseState.carryAt g.ctx slot0.pc).v, i < g.curBudget) ∧
    (phaseState.core g.core).phaseQ.length < 64 ∧ (∀ q ∈ phaseState.loads, q.gid ≠ slot0.gid) ∧
    (∃ th, b.threads[31]? = some th ∧ th.here = true) :=
  ⟨_, _, ⟨rfl, rfl, rfl⟩, by decide +kernel, alone rfl, by decide +kernel, by decide +kernel, by decide +kernel, by decide +kernel, by decide +kernel,
    fun _ h => absurd h List.not_mem_nil, _, rfl, rfl⟩
/-- The group between phases, at the head of its core's queue. -/
def betweenState : State := { st0 with groups := [(0, { placedGroup with place := .phase })], cores := [(0, { Core.zero with phaseQ := [0] })] }
theorem witness_PhasesAndMoves_reseat : (betweenState.core 0).phaseQ = 0 :: [] ∧ betweenState.lineLow 1 = true ∧ betweenState.partRuns 0 = true ∧
    betweenState.packSeats 0 (State.phaseOver 0) = betweenState ∧ (betweenState.group? 0).map (fun g => (g.bands.length, g.budget)) = some (1, 256) ∧
    ((Occ.place 0 0 256 false 1 (betweenState.occ 0) []).map fun r => decide (r.2.regs 0 ≤ 1024 ∧ r.2.regs 1 ≤ 1024)) = some true := by
  decide +kernel
theorem witness_PhasesAndMoves_preempt : st0.group? 0 = some placedGroup ∧ placedGroup.place = .seated ∧ placedGroup.moving = false ∧
    st0.midStep 0 = false ∧ st0.eccBad = [] ∧ ∀ x, st0.ctx? placedGroup.ctx = some x → x.halt ≠ .halting :=
  ⟨rfl, rfl, rfl, by decide +kernel, rfl, fun x h => by obtain rfl : ctx1 = x := Option.some.inj h; decide⟩
/-- The context halts, its line at the group's core and nothing of it under way there. -/
theorem witness_PhasesAndMoves_preemptHalting : ∀ x : Context, x = { ctx1 with line := true, arrived := [0], halt := .halting } →
    ({ st0 with ctxs := [(1, x)] } : State).ctx? placedGroup.ctx = some x ∧ ({ st0 with ctxs := [(1, x)] } : State).midStep 0 = false ∧
      ({ st0 with ctxs := [(1, x)] } : State).settledOn x (partOf · == partOf placedGroup.core) = true := by
  rintro x rfl
  decide +kernel
/-- The group moving, with a follow-on command that waits for the move to end. -/
def movingGroup : Group := { placedGroup with moving := true, follows := [⟨7, 1, 0, 0, ⟨1, 0⟩, .accz 3, [], none, []⟩] }
/-- A group swapped out while a copy of it that has begun has still to land. -/
def landingState (cps : List Copy) : State := { st0 with groups := [(0, { placedGroup with place := .preempted, moving := true })], copies := cps }
theorem witness_PhasesAndMoves_lands : (landingState [{ copyOf 2 2 0 with
      tiled := true, away := true, pieces := [{ pieceOf 2 2 0 with started := true }] }]).landsStill 0 = true ∧ (landingState []).landsStill 0 = false ∧
    (GPlace.preempted ≠ .seated ∧ GPlace.preempted ≠ .phase) := by decide +kernel
theorem witness_PhasesAndMoves_move : ({ st0 with groups := [(0, movingGroup)] } : State).group? 0 = some movingGroup ∧ movingGroup.place = .seated ∧
    (({ st0 with groups := [(0, movingGroup)] } : State).core movingGroup.core).mq.length + movingGroup.follows.length ≤ 32 ∧
    { movingGroup with place := .preempted }.place ≠ .seated ∧ { movingGroup with follows := [] }.follows = [] := ⟨rfl, rfl, by decide +kernel, by decide, rfl⟩
/-- A RESUME record of the group. -/
def resumeRec : BindRec := ⟨2, 0, false, false, 1, 0, 0, 0, 0, 0, none, some 0, false, .zero, []⟩
theorem witness_PhasesAndMoves_restore : ∀ pl ∈ [GPlace.forked, .preempted], ((savedState pl [resumeRec]).core 5).slots.head? = some resumeRec ∧
    (savedState pl [resumeRec]).group? 0 = some { placedGroup with place := pl } ∧ ((savedState pl [resumeRec]).part (partOf 5)).owner = some 1 ∧
    resumeRec.tag = ((savedState pl [resumeRec]).part (partOf 5)).tag ∧ (savedState pl [resumeRec]).partRuns (partOf 5) = true ∧
    (savedState pl [resumeRec]).lineLow 1 = true ∧
    (savedState pl [resumeRec]).packSeats 5 (State.restoreOver 5 { placedGroup with place := pl }) = savedState pl [resumeRec] ∧
    ((savedState pl [resumeRec]).placeSaved 5 { placedGroup with place := pl } ((savedState pl [resumeRec]).occ 5)).isSome = true ∧
    (savedState pl [resumeRec]).bringRoom 0 5 = true ∧ (savedState pl [resumeRec]).childRuns 0 = false ∧ resumeRec.rsv = false ∧
    (savedState pl [resumeRec]).phaseFit 5 = none ∧ ((savedState pl [resumeRec]).core 5).mq.length + (placedGroup.saveQ ++ placedGroup.follows).length ≤ 32 := by
  decide +kernel

/-! ### Stage queues -/

/-- The descriptor of a stage queue at 64: r reserved, t taken, 16 slots of 8 bytes at 1024, the first slot's state as given. -/
def queueState (r t : Nat) (slot : Nat) : State := { withScratch 64 (descOf 16 [(0, 4, r), (4, 4, t), (8, 2, 16), (10, 2, 8), (12, 4, 1024)]) with
  mem := memPut (withScratch 64 (descOf 16 [(0, 4, r), (4, 4, t), (8, 2, 16), (10, 2, 8), (12, 4, 1024)])).mem
    (mapIdx (fun i b => (scratchKey 0 (1024 + i), b)) (bytesOfNat 4 slot) 0) }
/-- What ROLEQ finds there. -/
def queue0 : StageQ := ⟨0, 0, 64, 16, 8, 1024⟩
theorem witness_StageQueues : ∀ r ∈ [(0, 0, 0), (1, 0, 1), (0, 1, 1)],
    let s := queueState r.1 r.2.1 r.2.2
    Issuing s slot0 placedGroup placedBand ∧ Whole hd slot0 placedBand ∧ s.eccBad = [] ∧ s.landLanes slot0 = s ∧
      s.stageQ placedGroup.cid ((bandEnv s slot0 placedGroup placedBand).read32 (.imm 64)).toNat = .ok queue0 ∧ Canonical s ∧ DeviceWrites s ∧ s.posted = [] ∧ 64 + 16 ≤ 1024 ∧
      s.slotState queue0 0 = BitVec.ofNat 32 r.2.2 := by
  intro r hr
  simp only [List.mem_cons, List.not_mem_nil, or_false] at hr
  rcases hr with rfl | rfl | rfl <;> exact ⟨⟨rfl, rfl, rfl⟩, whole0, rfl, by decide +kernel, rfl, by decide +kernel,
    ⟨fun _ h => absurd h List.not_mem_nil, fun _ h => absurd h List.not_mem_nil⟩, rfl, by decide, by decide +kernel⟩
/-- The band waiting for ticket 0 of that queue, to take. -/
def ticketState : State := { mapLanes (queueState 0 1 1) fun _ t => { t with wait := .queue (.roleq 64 0 true 4) } with cur := none }
theorem witness_StageQueues_wake : ∃ g b, ticketState.group? 0 = some g ∧ ticketState.frozen 0 = false ∧ ticketState.eccBad = [] ∧ g.bands[0]? = some b ∧
    b.roleqWait = some (64, 0, true, 4) ∧ ticketState.stageQ g.cid 64 = .ok queue0 ∧ ticketState.slotState queue0 0 = 0 + 1 :=
  ⟨_, _, rfl, by decide +kernel, rfl, rfl, by decide +kernel, rfl, by decide +kernel⟩
theorem witness_StageQueues_drain : Issuing st0 slot0 placedGroup placedBand ∧ Whole hd slot0 placedBand ∧
    255 = ((bandEnv st0 slot0 placedGroup placedBand).read32 (.imm 255)).toNat ∧ placedGroup.graph ≠ some 255 ∧ st0.ctx? placedGroup.ctx = some ctx1 ∧
    st0.shadows = [] ∧ ∀ p ∈ ctx1.pennants, p.graph ≠ 255 := ⟨iss0, whole0, by decide +kernel, by decide, rfl, rfl, by decide +kernel⟩
/-- A band that drains graph 4, its pennant at a core of its ring. -/
def pennantState (p : Pennant) : State := { mapLanes st0 fun _ t => { t with wait := .queue (.drain 4) } with ctxs := [(1, { ctx1 with pennants := [p] })] }
theorem witness_StageQueues_pennant : ∀ p ∈ [(⟨4, 0, 0, 0, 0, false, false⟩ : Pennant), ⟨4, 0, 0, 0, 0, false, true⟩], ∃ cx g b,
    (pennantState p).ctx? 1 = some cx ∧ cx.pennants.find? (fun q => q.graph == 4) = some p ∧ (pennantState p).group? p.gid = some g ∧ g.place = .seated ∧
    g.moving = false ∧ (pennantState p).frozen p.gid = false ∧ g.bands[p.band]? = some b ∧ (pennantState p).memberIdle 1 4 p.at_ = true ∧ (pennantState p).shadows = [] := by
  intro p hp
  simp only [List.mem_cons, List.not_mem_nil, or_false] at hp
  rcases hp with rfl | rfl <;> exact ⟨_, _, _, rfl, rfl, rfl, rfl, rfl, by decide +kernel, rfl, by decide +kernel, rfl⟩

/-! ### Links and segments -/

/-- An entry in a state. -/
def entry (st : BState) (event : Option Word) : Binding := ⟨st, 1, rtX, 0, if st = .bound then 0x0001000000000004 else 0, 0, 0, 0, [5], event, []⟩
/-- Context 1 with slot 0 of its code segment as given, importing the name 'a', and a directory under selector 5 that offers it. -/
def linkCtx (e : Binding) : Context := { ctx1 with
  segs := [(1, { Desc.zero with kind := 4, limit := 8, rights := kindRights 4, slots := 1 }), (2, { Desc.zero with kind := 1, limit := 4096, rights := kindRights 1 }),
    (5, { Desc.zero with kind := 5, limit := 0x31, rights := rtR }), (6, { Desc.zero with kind := 6, rights := kindRights 6, under := 2, elem := 4, nx := 1, ny := 1, nz := 1 })]
  codes := [(1, ⟨[⟨1, rtX, [0x61]⟩], [], [], 0, 0, 0⟩)], bindings := [(4096, e)] }
/-- The small state with it, and a handle of the data segment in B4:B5. -/
def entryState (e : Binding) : State := { withB [(4, 0), (5, 0x20000)] with
  ctxs := [(1, linkCtx e)]
  mem := memPut st0.mem (mapIdx (fun i b => (segKey 1 5 i, b)) (descOf 0x31 [(0, 4, 1), (0x10, 2, 1), (0x12, 1, 1), (0x13, 1, 4), (0x14, 4, 0x30),
    (0x18, 8, 0x0001000000000004), (0x30, 1, 0x61)]) 0) }
theorem witness_LinkTable_entries : ∀ e ∈ [entry .unbound none, entry .resolving none, entry .bound none, { entry .bound none with inflight := 1 },
      entry .failed none, entry .revoked none], ∃ g b, Issuing (entryState e) slot0 g b ∧ Whole hd slot0 b ∧
    (bandEnv (entryState e) slot0 g b).codeSel none = some 1 ∧ (0#12).toNat < (entryState e).slotCount g.ctx 1 ∧
    (entryState e).binding? g.ctx 1 0 = some e ∧ (entryState e).ctx? g.ctx = some (linkCtx e) ∧ selFixed (hsel (b.getBPair (pairB (.b 4)))) = false ∧
    ((linkCtx e).desc (hsel (b.getBPair (pairB (.b 4))))).kind ≠ 0 := by
  intro e he
  simp only [List.mem_cons, List.not_mem_nil, or_false] at he
  rcases he with rfl | rfl | rfl | rfl | rfl | rfl <;>
    exact ⟨_, _, ⟨rfl, rfl, rfl⟩, ⟨by decide +kernel, by decide +kernel⟩, rfl, by decide +kernel, by decide +kernel, rfl, by decide +kernel, by decide +kernel⟩
theorem witness_LinkTable_search :
    (entryState (entry .resolving none)).binding? 1 (BitVec.ofNat 16 1) (BitVec.ofNat 12 0) = some (entry .resolving none) ∧
    (entryState (entry .resolving none)).search (linkCtx (entry .resolving none)) ⟨1, rtX, [0x61]⟩ [5] 0 0 = (0, some (0, 0x0001000000000004, rtX)) ∧
    (entryState (entry .resolving none)).search (linkCtx (entry .resolving none)) ⟨1, rtX, [0x62]⟩ [5] 0 0 = (0, none) ∧
    (entry .resolving (some 0)).event = some 0 ∧ (entryState (entry .resolving none)).ensignRuns = true ∧
    (entryState (entry .resolving (some 0))).binding? 1 (BitVec.ofNat 16 1) (BitVec.ofNat 12 0) = some (entry .resolving (some 0)) := by decide +kernel
/-- The band waiting for its LUNB to be acknowledged. -/
def unbindState : State := { mapLanes (entryState (entry .unbound none)) fun _ t => { t with wait := .unbind 1 0 2 true } with cur := none }
theorem witness_LinkTable_complete : ∃ g b th, (0, g) ∈ unbindState.groups ∧ unbindState.group? 0 = some g ∧ g.ctx = 1 ∧ unbindState.frozen 0 = false ∧
    g.bands[0]? = some b ∧ b.threads[0]? = some th ∧ th.wait = .unbind (BitVec.ofNat 16 1) (BitVec.ofNat 12 0) 2 true :=
  ⟨_, _, _, List.mem_singleton.2 rfl, rfl, rfl, by decide +kernel, rfl, rfl, rfl⟩
theorem witness_LinkTable_answered : ∀ st ∈ [BState.unbound, .resolving],
    (entryState { entry st none with pendingUnbind := [(true, reqA)] }).binding? 1 (BitVec.ofNat 16 1) (BitVec.ofNat 12 0) =
      some { entry st none with pendingUnbind := [(true, reqA)] } := by decide +kernel
theorem witness_LinkTable_host : ∀ e ∈ [entry .unbound none, entry .resolving none, entry .bound none, entry .failed none, entry .revoked none],
    Served (entryState e) reqA ∧ (entryState e).leads reqA.party = true ∧ (entryState e).ctx? reqA.ctx = some (linkCtx e) ∧
    (let args := descOf 48 [(0, 2, 1)]
     1 = BitVec.ofNat 16 (leAt args 0 2) ∧ 0 = BitVec.ofNat 12 (leAt args 2 2) ∧ args.length = 48 ∧ zeroAt args 4 44 = true ∧ leAt args 2 2 < 4096) ∧
    (entryState e).binding? reqA.ctx 1 0 = some e := by
  intro e he
  simp only [List.mem_cons, List.not_mem_nil, or_false] at he
  rcases he with rfl | rfl | rfl | rfl | rfl <;>
    exact ⟨served0 (by decide) (by decide), by decide +kernel, rfl, by decide +kernel, by decide +kernel⟩
/-- A template of a device segment of n bytes. -/
def templateBytes (n : Nat) : List Byte := descOf 64 [(0, 8, n), (8, 1, 1), (9, 1, 3)]
/-- The state with it in the scratchpad at 64, and a view's and a segment's handles in B6:B7 and B4:B5. -/
def segState (n : Nat) : State := { withB [(4, 0), (5, 0x20000), (6, 0), (7, 0x60000), (8, 64)] with
  ctxs := [(1, linkCtx (entry .unbound none))], mem := (withScratch 64 (templateBytes n)).mem }
theorem witness_SegmentTable_sega : ∃ g b, Issuing (segState 4096) slot0 g b ∧ Whole hd slot0 b ∧
    (segState 4096).ctx? g.ctx = some (linkCtx (entry .unbound none)) ∧ 64 = ((bandEnv (segState 4096) slot0 g b).read32 (.b 8)).toNat ∧
    g.inScratch 64 64 = true ∧ (segState 4096).eccBad = [] ∧
    (((linkCtx (entry .unbound none)).template (((List.range 64).map fun i => scratchKey slot0.gid (64 + i)).map ((segState 4096).scratchByte slot0))).map fun tm =>
      (tm.kind, ((segState 4096).makeSeg g.ctx tm).isSome)) = some (1, true) ∧
    (((linkCtx (entry .unbound none)).template (((List.range 64).map fun i => scratchKey slot0.gid (64 + i)).map
      ((segState (2 ^ 40)).scratchByte slot0))).map fun tm => (tm.kind, ((segState (2 ^ 40)).makeSeg g.ctx tm).isSome)) = some (1, false) :=
  ⟨_, _, ⟨rfl, rfl, rfl⟩, ⟨by decide +kernel, by decide +kernel⟩, rfl, by decide +kernel, by decide +kernel, rfl, by decide +kernel, by decide +kernel⟩
theorem witness_SegmentTable_others : ∃ g b, Issuing (segState 1) slot0 g b ∧ Whole hd slot0 b ∧
    selFixed (hsel (b.getBPair (pairB (.b 4)))) = false ∧ ((linkCtx (entry .unbound none)).desc (hsel (b.getBPair (pairB (.b 4))))).kind = 1 ∧
    ((linkCtx (entry .unbound none)).desc (hsel (b.getBPair (pairB (.b 6))))).kind = 6 ∧
    (2 : BitVec 16) = ((bandEnv (segState 1) slot0 g b).read32 (.imm 2)).extractLsb' 0 16 ∧ ((linkCtx (entry .unbound none)).desc 2).kind ≠ 0 :=
  ⟨_, _, ⟨rfl, rfl, rfl⟩, ⟨by decide +kernel, by decide +kernel⟩, by decide +kernel, by decide +kernel, by decide +kernel, by decide +kernel, by decide +kernel⟩
theorem witness_SegmentTable_requests : Served (segState 1) reqA ∧ (segState 1).leads reqA.party = true ∧
    (segState 1).ctx? reqA.ctx = some (linkCtx (entry .unbound none)) ∧
    ((linkCtx (entry .unbound none)).template (templateBytes 4096)).map (fun tm => (tm.kind, ((segState 1).makeSeg reqA.ctx { tm with port := 0 }).isSome)) =
      some (1, true) ∧
    ((linkCtx (entry .unbound none)).template (templateBytes (2 ^ 40))).map (fun tm => ((segState 1).makeSeg reqA.ctx { tm with port := 0 }).isSome) =
      some false ∧
    ((linkCtx (entry .unbound none)).desc 2).kind ≠ 0 ∧ ((linkCtx (entry .unbound none)).desc 2).kind ≠ 4 ∧
    ((linkCtx (entry .unbound none)).desc 1).kind = 4 ∧ (linkCtx (entry .unbound none)).number = reqA.ctx ∧
    ∀ p ∈ (linkCtx (entry .unbound none)).bindings, hsel p.2.target = 1 → p.2.inflight = 0 :=
  ⟨served0 (by decide) (by decide), by decide +kernel, rfl, by decide +kernel, by decide +kernel, by decide +kernel, by decide +kernel, by decide +kernel,
    by decide +kernel, by decide +kernel⟩

/-! ### Batches, barriers, counters -/

/-- A cluster of the small group. -/
def cl0 : Cluster := ⟨0, 0, 0, 0, 0⟩
/-- A store of group 1 to the data segment. -/
def write3 : WriteRec := ⟨3, 1, 0, 0, 0, [(segKey 1 2 0, 7)], none, [0], [], false, [], false⟩
theorem witness_BatchesAndBarriers : Issuing st0 slot0 placedGroup placedBand ∧ InAllotment placedGroup placedBand [(.v 255, 1)] ∧
    slot0.active = placedBand.live ∧ (∀ i b', i ≠ slot0.band → placedGroup.bands[i]? = some b' → gatheredAt b' slot0.pc = true) ∧
    placedGroup.agree (bandGuard hd) = some true ∧ placedGroup.agree (bandGuard ⟨0, false, 0, .none⟩) = some false ∧
    tabGet st0.clusters placedGroup.cid = some cl0 :=
  ⟨iss0, allot0 (by decide +kernel), by decide +kernel, alone rfl, by decide +kernel, by decide +kernel, rfl⟩
/-- The band with a number of sealed batches not complete, and its lanes waiting. -/
def waitState (w : Wait) (n : Nat) : State :=
  mapLanes st0 fun _ t => { t with wait := w, sealed := List.replicate n 1, batch := BitVec.ofNat 32 n, bdone := 0 }
theorem witness_BatchesAndBarriers_full : ∃ g b th, Issuing (waitState .none 16) slot0 g b ∧ b.threads[0]? = some th ∧ 16 ≤ th.sealed.length ∧
    laneGuard hd th = true ∧ (Env.read32 ⟨waitState .none 16, slot0, g, b, th, 0⟩ (.imm 15)).toNat < (th.batch - th.bdone).toNat :=
  ⟨_, _, _, ⟨rfl, rfl, rfl⟩, rfl, by decide, by decide, by decide +kernel⟩
theorem witness_BatchesAndBarriers_release : ∀ r ∈ [(Wait.seal, 15), (Wait.waitb 15, 15), (Wait.bar true, 0)], ∃ g b th,
    (waitState r.1 r.2).group? 0 = some g ∧ (waitState r.1 r.2).frozen 0 = false ∧ g.bands[0]? = some b ∧ b.threads[31]? = some th ∧ th.wait = r.1 ∧
    th.sealed.length < 16 ∧ (th.batch - th.bdone).toNat ≤ 15 := by
  intro r hr
  simp only [List.mem_cons, List.not_mem_nil, or_false] at hr
  rcases hr with rfl | rfl | rfl <;> exact ⟨_, _, _, rfl, by decide +kernel, rfl, rfl, rfl, by decide, by decide⟩
/-- Two groups of the cluster, both with a guard that was true, the second with a write before its CBAR. -/
def cbarState : State := { st0 with
  clusters := [(0, { cl0 with arrivals := 2 })], writes := [write3]
  groups := [0, 1].map fun k => (k, { placedGroup with
    cbarCount := 1, bands := [placedBand.onLanes (BitVec.allOnes 32) fun _ t => { t with wait := .cbar true true }] }) }
theorem witness_BatchesAndBarriers_cbarOrder : tabGet cbarState.clusters 0 = some { cl0 with arrivals := 2 } ∧ (cbarState.clusterGroups 0).Nodup ∧
    2 = (cbarState.clusterGroups 0).length ∧ (∀ gid ∈ cbarState.clusterGroups 0, cbarState.frozen gid = false ∧
      (cbarState.group? gid).map (·.cbarOrdered) = some true ∧ (cbarState.group? gid).map (·.arrived) = some true) ∧ write3.id ∈ cbarState.before 1 ∧ write3 ∈ cbarState.writes := by decide +kernel
theorem witness_BatchesAndBarriers_cbar : ∀ s : State, s = { st0 with clusters := [(0, { cl0 with arrivals := 1 })], groups := [(0, { placedGroup with cbarCount := 1 })] } →
    tabGet s.clusters 0 = some { cl0 with arrivals := 1 } ∧ (s.clusterGroups 0).Nodup ∧ 1 = (s.clusterGroups 0).length ∧
    ∀ gid ∈ s.clusterGroups 0, s.frozen gid = false := by
  rintro s rfl
  decide +kernel
theorem witness_CountersAndSpecialRegisters : Issuing st0 slot0 placedGroup placedBand ∧ bandGuard hd placedBand = true ∧
    ((bandEnv st0 slot0 placedGroup placedBand).read32 (.imm 7)).toNat ≤ 7 ∧ 1 ≤ ((bandEnv st0 slot0 placedGroup placedBand).read32 (.imm 1)).toNat ∧
    (st0.inCluster placedGroup.cid 0).isSome = true ∧ (tabGetD placedGroup.arrive 7 0 - 0 : Word).toNat < 2 ^ 31 ∧
    2 ^ 31 ≤ (tabGetD placedGroup.arrive 7 0 - 1 : Word).toNat ∧ InAllotment placedGroup placedBand [(.v 254, width (SReg.cyc == .cyc))] ∧
    InAllotment placedGroup placedBand [(.v 255, 1)] ∧ (∀ u ∈ participants st0 slot0 placedGroup placedBand hd, (u.read32 (.imm 7)).toNat ≤ 7) :=
  ⟨iss0, by decide +kernel, by decide +kernel, by decide +kernel, by decide +kernel, by decide +kernel, by decide +kernel, allot0 (by decide +kernel),
    allot0 (by decide +kernel), by decide +kernel⟩
/-- An arrival of 5 at counter 7 of the group. -/
def arrival0 : Arrival := ⟨3, 0, 0, 1, 0, 7, 5⟩
theorem witness_CountersAndSpecialRegisters_apply : ({ st0 with arrivals := [arrival0] } : State).arrivals.find? (fun q => q.id == arrival0.id) = some arrival0 ∧
    ({ st0 with arrivals := [arrival0] } : State).group? arrival0.gid = some placedGroup ∧ placedGroup.moving = false := ⟨rfl, rfl, rfl⟩
theorem witness_CountersAndSpecialRegisters_await : ∀ n ∈ [(0 : Word), 1], ∃ g b th, (waitState (.await 7 n) 0).group? 0 = some g ∧
    (waitState (.await 7 n) 0).frozen 0 = false ∧ g.bands[0]? = some b ∧ b.threads[31]? = some th ∧ th.wait = .await 7 n := by
  intro n hn
  simp only [List.mem_cons, List.not_mem_nil, or_false] at hn
  rcases hn with rfl | rfl <;> exact ⟨_, _, _, rfl, by decide +kernel, rfl, rfl, rfl⟩

/-! ### Schedule and placement -/

theorem witness_ScheduleAndPlacement_join : ∃ g b th, (waitState (.join 1 ⟨1, 0⟩) 0).group? 0 = some g ∧ g.bands[0]? = some b ∧
    (waitState (.join 1 ⟨1, 0⟩) 0).frozen 0 = false ∧ b.threads[0]? = some th ∧ joinFree b.threads th = true :=
  ⟨_, _, _, rfl, rfl, by decide +kernel, rfl, by decide +kernel⟩
theorem witness_ScheduleAndPlacement_gathered : ∃ g b, (waitState (.ijoin ⟨1, 0⟩ false) 0).group? 0 = some g ∧ g.bands[0]? = some b ∧
    b.gatheredAny = some ⟨1, 0⟩ ∧ (waitState (.ijoin ⟨1, 0⟩ false) 0).canRun g.core g = true ∧ b.fault = none :=
  ⟨_, _, rfl, rfl, by decide +kernel, by decide +kernel, rfl⟩
/-- The bind record of a launch of one group, and the state with it in core 5's slot table. -/
def bind0 (reserved : Bool) : BindRec := ⟨1, 2, false, false, 1, 0, 0x0002000000000000, 0, 0, 0, some 7, none, reserved, .zero, if reserved then [[(0, 0)]] else []⟩
def boundState (reserved : Bool) : State := { childState 1 with cores := [(5, { Core.zero with slots := [bind0 reserved] })], nextId := 10 }
theorem witness_ScheduleAndPlacement_seating : ((boundState false).core 5).slots = bind0 false :: [] ∧
    ((boundState false).part (partOf 5)).owner = some (bind0 false).ctx ∧ (bind0 false).tag = ((boundState false).part (partOf 5)).tag ∧
    (boundState false).partRuns (partOf 5) = true ∧ (boundState false).lineLow 1 = true ∧ (boundState false).phaseFit 5 = none ∧
    ((boundState false).launch? 7).isSome = true ∧
    (Occ.gang 7 0 placedBlock.bands placedBlock.twin placedBlock.gang1 ((boundState false).reservedOcc 5)).isSome = true ∧
    (((boundState false).launch? 7).map (·.block)) = some placedBlock := by decide +kernel
theorem witness_ScheduleAndPlacement_commit : (boundState true).admission 0 = some (7, [(0, 0, [(5, bind0 true)])]) ∧
    (boundState true).lineLow 1 = true ∧ (boundState true).tablesUsed 0 + 1 ≤ 64 ∧ (boundState true).partRuns 0 = true ∧ (boundState true).phaseFit 5 = none ∧
    ((boundState true).seatCluster 7 0 0 [(5, bind0 true)]).isSome = true :=
  ⟨rfl, by decide +kernel, by decide +kernel, by decide +kernel, by decide +kernel, by decide +kernel⟩
/-- A LAUNCHER mailbox with one record accepted, of the launch block at the start of the data segment. -/
def mbLaunch : Mailbox := { mbIn with launcher := true, accepted := 1, recs := [(1, bytesOfNat 8 0x0002000000000000 ++ bytesOfNat 8 5 ++ List.replicate 40 0)] }
/-- The state with it, in hardware mode or in host-assisted mode. -/
def launchState (hw : Bool) : State := { blockState false 64 with
  ctxs := [(1, { ctx1 with mailboxes := [(3, mbLaunch)] })], mode := if hw then 0b111111 else 0b111101 }
/-- The clusters to commit of the launch its record asks for, and whether its bind records can be written. -/
def launchOf (s : State) : Option (Nat × Bool) :=
  match s.ctx? 1 with
  | some x =>
    match s.descSeg x 2 0 128 .load with
    | .ok sp ks => (x.block (ks.map fun k => s.readByte (s.ensign.getD 0) s.nextId 0 32 sp k) 1).map fun blk =>
      let r := (s.modMbx 1 3 fun b => { b with taken := 2 }).newLaunch 1 blk 0x0002000000000000 5 none (some (3, 1)) none []
      (((r.2.launch? r.1).map (·.toCommit)).getD 0, (r.2.writeBinds r.1 ⟨[[0]], [0], [[5]]⟩).isSome)
    | _ => none
  | none => none
theorem witness_ScheduleAndPlacement_record : (launchState true).mbx? 1 3 = some mbLaunch ∧ 1 = mbLaunch.nextTake ∧ 1 ≤ mbLaunch.accepted ∧
    ((((tabGet mbLaunch.recs 1).getD []).drop 16).any (· != 0)) = false ∧ selFixed (hsel (BitVec.ofNat 64 (numAt ((tabGet mbLaunch.recs 1).getD []) 0 8))) = false ∧
    launchOf (launchState true) = some (1, true) ∧ launchOf (launchState false) = some (1, true) ∧ (launchState false).mode.getLsbD 1 = false ∧
    (launchState true).ensignRuns = true ∧ (launchState true).unfinished (fun _ l => l.ctx == 1 && l.mbx.map (·.1) == some 3) = none ∧
    (launchState true).hostSync mbLaunch.port [0, 1, 2, 3] = launchState true ∧ (launchState true).eccBad = [] := by
  decide +kernel
/-- The state in which that launch has been taken and its cluster has no bind records yet. -/
def takenState : State := { launchState true with launches := [(7, ⟨1, placedBlock, 0, 0, 0, none, some (3, 1), none, [], 1, 1, []⟩)] }
theorem witness_ScheduleAndPlacement_unfinished : takenState.mbx? 1 3 = some mbLaunch ∧ takenState.ensignRuns = true ∧ takenState.mode.getLsbD 1 = true ∧
    takenState.unfinished (fun _ l => l.ctx == 1 && l.mbx.map (·.1) == some 3) = some 7 ∧ (takenState.writeBinds 7 ⟨[[0]], [0], [[5]]⟩).isSome = true := by
  decide +kernel

/-! ### Memory events -/

theorem witness_MemoryEvents_return : (loadState true).loads.find? (fun q => q.id == (loadRec true).id && q.atomic) = some (loadRec true) ∧
    ((loadState true).thread? (loadRec true).gid (loadRec true).band (loadRec true).lane).map (fun t => tabGet t.pend 5) = some (some (loadRec true).id) ∧
    (loadRec true).dst = .v 5 ∧ (loadRec true).ty.is64 = false := by decide +kernel
/-- An atomic of 64 bits into a V pair. -/
def pairAtomic : State := { mapLanes st0 fun _ t => { t with pend := [(5, 4), (6, 4)] } with
  loads := [{ loadRec true with ty := .i64 }], nextId := 5 }
theorem witness_MemoryEvents_returnPair : pairAtomic.loads.find? (fun q => q.id == 4 && q.atomic) = some { loadRec true with ty := .i64 } ∧
    (pairAtomic.thread? 0 0 0).isSome = true := by decide +kernel
/-- A store made on die 0 and not yet shown there, and a store to host memory on its way. -/
def write0 : WriteRec := ⟨3, 0, 0, 0, 0, [(segKey 1 2 0, 7)], none, [], [], false, [], false⟩
def writesState : State := { st0 with writes := [write0], posted := [⟨8, 8, 0, 0, 0, 0, [(hostKey 0 64, 9)], [0], false, false, false⟩], nextId := 9 }
theorem witness_MemoryEvents_apply : write0.die < 4 ∧ 1 ≠ write0.die ∧ (writesState.posted.find? (fun q => q.id == 8)).isSome = true ∧ writesState.posted.all (fun p => !writesState.heldBack p) ∧
    (writesState.write? 3).map (fun w => (w.applied.contains 1)) = some false ∧ writesState.write? 3 = some write0 ∧
    ((writesState.leave write0).write? 3).map (fun w1 => ((w1.applied.contains 1), (writesState.leave write0).writes.all fun u =>
      !u.precedes w1 || u.applied.contains 1)) = some (false, true) := by decide +kernel
theorem witness_MemoryEvents_fence : (waitState (.fence .dv 1) 0).frozen 0 = false ∧
    ((waitState (.fence .dv 1) 0).thread? 0 0 0).map (·.wait) = some (.fence .dv 1) ∧
    (waitState (.fence .dv 1) 0).unacked placedGroup.die 0 0 0 .dv 1 = false ∧ (waitState (.fence .sy 1) 0).unacked placedGroup.die 0 0 0 .dm 1 = false ∧
    ((waitState (.fence .sy 1) 0).thread? 0 0 0).map (·.wait) = some (.fence .sy 1) := by decide +kernel
theorem witness_MemoryEvents_scrub : st0.serviceRuns 3 4 = true ∧ st0.ensignRuns = true ∧
    ({ st0 with mode := 0 } : State).serviceRuns 3 4 = true := by decide +kernel
theorem witness_MemoryEvents_growth : (waitState (.growth 0xFFFC000000010000) 0).ensignRuns = true ∧ (waitState (.growth 0xFFFC000000010000) 0).frozen 0 = false ∧ (waitState (.growth 0xFFFC000000010000) 0).growthAsked 0 0 = false ∧
    ((waitState (.growth 0xFFFC000000010000) 0).thread? 0 0 31).map (·.wait) = some (.growth 0xFFFC000000010000) := by decide +kernel
/-- The first page of the data segment absent, and the lanes waiting for it. -/
def pageState : State := { waitState (.page 0x0002000000000000 false) 0 with absent := [pageKey 1 2 0] }
theorem witness_MemoryEvents_page : pageState.pageAsked 1 (BitVec.ofNat 16 2) 0 = false ∧ (ctx1.desc (BitVec.ofNat 16 2)).kind ≠ 7 ∧
    pageState.absent.contains (pageKey 1 (BitVec.ofNat 16 2) 0) = true ∧
    ((pageState.thread? 0 0 31).map fun t => pageState.waitsPage 1 (BitVec.ofNat 16 2) 0 t.wait) = some true ∧
    pageState.groups.map (·.1) = [0] ∧ pageState.ensignRuns = true ∧ pageState.frozen 0 = false := by decide +kernel

/-! ### Halts -/

/-- The small state with a host lease and a context changed. -/
def ctxState (x : Context) : State := { st0 with ctxs := [(1, x)], leaseHolder := 1 }
/-- The context whose line has been raised and has reached the group's core. -/
def haltingCtx : Context := { ctx1 with line := true, arrived := [0], halt := .halting }
theorem witness_HaltProtocol_line : (ctxState { haltingCtx with arrived := [] }).ctx? 1 = some { haltingCtx with arrived := [] } ∧ 0 < Config.cores ∧
    (ctxState { haltingCtx with arrived := [] }).group? 0 = some placedGroup ∧ (ctxState haltingCtx).ctx? 1 = some haltingCtx ∧
    (ctxState haltingCtx).settledCtx haltingCtx = true ∧ haltingCtx.heldTeardown = [] := by decide +kernel
theorem witness_HaltProtocol_requests : ∀ x ∈ [ctx1, haltingCtx, { haltingCtx with halt := .halted }], Served (ctxState x) reqA ∧
    (ctxState x).ctx? reqA.ctx = some x ∧ (ctxState x).mayClass x clHalt reqA.party = true ∧ x.number = reqA.ctx := by
  intro x hx
  simp only [List.mem_cons, List.not_mem_nil, or_false] at hx
  rcases hx with rfl | rfl | rfl <;> exact ⟨served0 (by decide) (by decide), rfl, by decide +kernel, rfl⟩
theorem witness_HaltProtocol_resume : (ctxState { haltingCtx with halt := .halted }).bandsOf 1 = [(0, 0)] ∧
    ((ctxState { haltingCtx with halt := .halted }).badPcs placedGroup placedBand).1 = 0 ∧ placedThread.pcChanged = false ∧
    ((ctxState { haltingCtx with halt := .halted }).badPcs placedGroup { placedBand with threads := [{ placedThread with pc := ⟨1, 2⟩, pcChanged := true }] }).1 = 1 := by
  decide +kernel
theorem witness_HaltProtocol_window : (st0.winOpen 0 = false ∧ st0.winOpen 7 = true ∧ (ctxState { haltingCtx with halt := .halted }).winOpen 0 = true ∧
    st0.conf = false) ∧ (0x7BF000104 / 0x100000000 = 7 ∧ 0x7BF000104 / 0x1000000 % 256 = 191 ∧ 0x7BF000104 % 4 = 0) := by decide +kernel

/-! ### Requests -/

/-- A context image of number 2. -/
def ctxImage : List Byte := descOf 0x100 [(0, 2, 2), (4, 4, 1)] ++ List.replicate 4096 0
/-- A linked image of one EXIT. -/
def codeImage : List Byte := descOf 104 [(0, 4, 0x59434843), (4, 2, 1), (6, 2, 1), (8, 4, 109), (0xC, 4, 4), (0x20, 4, 104), (0x24, 4, 4), (0x28, 4, 108),
  (0x2C, 4, 1)] ++ [0x03, 0x00, 0x87, 0x1D, 0x01]
theorem witness_HostRequests_device : Served st0 reqA ∧ st0.leads reqA.party = true ∧ st0.scrubOwed = false ∧ st0.conf = false :=
  ⟨served0 (by decide) (by decide), by decide +kernel, rfl, rfl⟩
theorem witness_HostRequests_create : leAt ctxImage 0 2 = 2 ∧ (contextOf ctxImage 2 0).map (·.confidential) = some false ∧ st0.ctx? 2 = none := by decide +kernel
/-- The arguments of BIND for core 191. -/
def bindArgs : List Byte := descOf 48 [(0, 2, 191)]
theorem witness_HostRequests_bind : (launchState false).mode.getLsbD 1 = false ∧ Served (launchState false) reqA ∧
    bindArgs.length = 48 ∧ zeroAt bindArgs 2 14 = true ∧ 191 = leAt bindArgs 0 2 ∧ 191 < Config.cores ∧
    ((launchState false).writeSlot 191 ((launchState false).bindOf (bindArgs.drop 16))).isSome = true ∧
    (launchState false).saving (partOf 191) = none :=
  ⟨by decide +kernel, served0 (by decide) (by decide), by decide +kernel, by decide +kernel, by decide +kernel, by decide, by decide +kernel, by decide +kernel⟩
/-- Arguments with a record of context 1. -/
def bindReal : List Byte := descOf 48 [(0, 2, 191), (16, 1, 1), (18, 2, 1)]
/-- Host-assisted mode, with the partition of core 191 being saved into slot 1 for context 1. -/
def savingState : State := { launchState false with
  shadows := [(1, ⟨0, [], { Partition.zero with owner := some 1 }, [0], false, .running, 0, [], [], []⟩)],
  groups := [(0, { placedGroup with place := .shadow 1 true, core := 191, moving := true })] }
theorem witness_HostRequests_bindSaving : Served savingState reqA ∧
    (savingState.saving (partOf 191)).map (fun p => (p.1, p.2.partition.owner)) = some (1, some (savingState.bindOf (bindReal.drop 16)).ctx) ∧
    (savingState.writeSlot 191 (savingState.bindOf (bindReal.drop 16))).isSome = true :=
  ⟨served0 (by decide) (by decide), by decide +kernel, by decide +kernel⟩
theorem witness_HostRequests_code : st0.ctx? reqA.ctx = some ctx1 ∧ imageOk codeImage = true ∧ ctx1.bindings.length + leAt codeImage 0x10 2 ≤ 65536 ∧
    ctx1.freeSel = some 3 ∧ section_ codeImage 3 = [] ∧ leAt codeImage 0x12 2 = 0 ∧ selFixed 1 = false ∧ (ctx1.desc 1).kind = 4 ∧
    (∀ p ∈ ctx1.bindings, hsel p.2.target = 1 → p.2.inflight = 0) ∧ (ctx1.desc 2).kind = 1 ∧ ctx1.number = reqA.ctx := by decide +kernel
/-- A sealed segment under selector 3, in confidential mode. -/
def sealCtx : Context := { ctx1 with segs := ctx1.segs ++ [(3, { Desc.zero with kind := 7, limit := 4096, rights := kindRights 7, keySlot := 4095 })] }
def sealState (keys : Tab KeySlot) : State := { st0 with ctxs := [(1, sealCtx)], conf := true, keys := keys }
theorem witness_HostRequests_seal : Served (sealState []) reqA ∧ (sealState []).leads reqA.party = true ∧ (sealState []).ctx? reqA.ctx = some sealCtx ∧
    4095 < Config.pageKeySlots ∧ (sealCtx.desc 3).kind = 7 ∧ (sealCtx.desc 3).keySlot = 4095 :=
  ⟨served0 (by decide) (by decide), by decide +kernel, rfl, by decide, by decide +kernel, by decide +kernel⟩
theorem witness_HostRequests_ports : partyPort reqA.party = some 0 ∧ (st0.port 0).held = [] ∧ (st0.port 0).delivered = [] ∧ st0.conf = false := by decide +kernel
/-- The band parked at a TRAPI, and its claim. -/
def trapClaim : Claim := ⟨clSoftware, true, true, 1, 9, 0, 0, 0, 0, 1, false, 0, 0, []⟩
def trapState : State := { waitState (.trap 9 (.v 3) 5 none) 0 with claims := [trapClaim] }
theorem witness_HostRequests_reply : Served trapState reqA ∧ trapState.claims.reverse.find? (fun q => q.ctx == reqA.ctx && q.seq == 9) = some trapClaim ∧
    trapState.handles trapClaim.owner reqA.party = true ∧ trapState.frozen trapClaim.gid = false ∧
    ((trapState.thread? 0 0 31).map (·.wait)) = some (.trap trapClaim.seq (.v 3) 5 none) :=
  ⟨served0 (by decide) (by decide), by decide +kernel, by decide +kernel, by decide +kernel, by decide +kernel⟩
/-- The claim of an earlier context of that number, under the same sequence. -/
theorem witness_HostRequests_replyNewest : ({ trapState with claims := [{ trapClaim with cls := 0 }, trapClaim] } : State).claims.reverse.find?
    (fun q => q.ctx == reqA.ctx && q.seq == 9) = some trapClaim := by decide
theorem witness_HostRequests_lease : Served (ctxState ctx1) reqA ∧ (ctxState ctx1).holds reqA.party = true ∧ (ctxState ctx1).leaseCounter = 0 ∧
    ({ ctxState ctx1 with leaseCounter := 1 } : State).leaseHolder ≠ 0 ∧ Served { ctxState ctx1 with leaseCounter := 1 } reqA :=
  ⟨served0 (by decide) (by decide), by decide +kernel, rfl, by decide, served0 (by decide) (by decide)⟩
/-- Port A with the data segment mapped, and two events delivered. -/
def barState : State := { st0 with ports := [(0, { Port.zero with aperture := some (1, 2, 0), produced := 2, delivered := [trapClaim, trapClaim] })] }
theorem witness_HostRequests_bars : (barState.bar2Keys 0 4092 4 false).isSome = true ∧ barState.bar2Keys 0 4093 4 false = none ∧
    4092 % 4 = 0 ∧ (barState.bar2Keys 0 4088 8 false).isSome = true ∧ 4088 % 8 = 0 ∧
    (barState.port 0).tdi ≠ .error ∧ barState.writes = [] ∧ (4092 + 4 ≤ 2 ^ 34) ∧ (∀ w ∈ barState.writes, w.id < barState.nextId) ∧ 2 ≤ (barState.port 0).produced - (barState.port 0).acked ∧
    2 = BitVec.ofNat 32 ((barState.port 0).acked + 2) ∧ (barState.port 0).held = [] := by decide +kernel
/-- What an access through BAR2 meets with no error, and with one in a byte of its line that a store covers or does not. -/
theorem witness_HostRequests_barErrors : (barState.bar2Keys 0 64 4 false).map (fun ks => (barState.ecc ks, barState.eccStore ks ks,
      ({ barState with eccBad := [ks.headD 0] } : State).ecc ks, ({ barState with eccBad := [ks.headD 0] } : State).eccStore ks ks)) =
    some (false, false, true, true) ∧
    ({ barState with eccBad := [segKey 1 2 64] } : State).bar2Keys 0 64 4 false = barState.bar2Keys 0 64 4 false := by decide +kernel

/-! ### The device -/

/-- A copy whose source is a peer's segment, in flight, and the fabric. -/
def peerCopy : Copy := { copyOf 4 2 0 with pieces := [{ pieceOf 4 2 0 with started := true }] }
def peerCopyState : State := { flying peerCopy with
  ctxs := [(1, { ctx1 with segs := ctx1.segs ++ [(4, { Desc.zero with kind := 3, limit := 4096, rights := kindRights 3, device := 9, peerSel := 2 })] })]
  grants := [⟨1, 9, 4, true⟩], fabricUp := 0 }
theorem witness_DeviceEvents_copy : peerCopyState.fabricUp = 0 ∧ (peerCopyState.loads.find? fun q => q.id == 9 && q.peer) = none ∧
    peerCopyState.copies.find? (fun q => q.id == 9) = some peerCopy ∧ (peerCopyState.peerEnd peerCopy).map (·.2) = some 0 := by decide +kernel
/-- A load from a peer, and a grant for one. -/
def peerState : State := { st0 with
  loads := [{ loadRec false with peer := true }], grants := [⟨1, 9, 4, false⟩], nextId := 5, fabricUp := 0 }
theorem witness_DeviceEvents_fabric : st0.fabricUp ≠ 0 ∧ peerState.fabricUp = 0 ∧ peerState.shut = false ∧ (peerState.loads.find? (fun q => q.id == (loadRec false).id && q.peer)).isSome = true ∧ 23 < Config.fabricPorts ∧
    peerState.ctx? 1 ≠ none := by decide +kernel
theorem witness_DeviceEvents_peer : peerState.ctx? 1 = some ctx1 ∧ (∃ g ∈ peerState.grants, g.outgoing = false ∧ g.ctx = 1 ∧ g.dev = 9 ∧ g.peerCtx = 4) ∧
    9 ≠ peerState.device.toNat ∧ selFixed 2 = false ∧ (∃ ks, peerState.descSeg ctx1 2 (8 : Nat) 8 .load = .ok .device ks) ∧
    (∃ ks, peerState.descSeg ctx1 2 (8 : Nat) 8 .store = .ok .device ks) ∧ (∃ ks, peerState.descSeg ctx1 2 (8 : Nat) 8 ⟨rtA, true, false⟩ = .ok .device ks) ∧
    (∃ ks, peerState.descSeg ctx1 2 (8 : Nat) 8 ⟨rtR ||| rtA, true, false⟩ = .ok .device ks) ∧ peerFits (.atomic .add .i64 1) 8 = true ∧
    peerFits (.cas .n64 0 1) 8 = true ∧ atomBytes .add .i64 = 8 ∧ tyBytes .n64 = 8 :=
  ⟨rfl, by decide +kernel, by decide, by decide, ⟨_, rfl⟩, ⟨_, rfl⟩, ⟨_, rfl⟩, ⟨_, rfl⟩, by decide, by decide, by decide, by decide⟩
/-- Those bytes without an error, and with one. -/
theorem witness_DeviceEvents_peerErrors : (match peerState.descSeg ctx1 2 (8 : Nat) 8 .load with
      | .ok _ ks => (peerState.ecc ks, peerState.eccStore ks ks, ({ peerState with eccBad := [ks.headD 0] } : State).ecc ks,
          ({ peerState with eccBad := [ks.headD 0] } : State).eccStore ks ks)
      | _ => (true, true, true, true)) = (false, false, true, true) := by decide +kernel
theorem witness_DeviceEvents_service : st0.livePair 0 = some 1 ∧ st0.livePair Config.dies ≠ none ∧ st0.mode.getLsbD 5 = true ∧
    ({ st0 with dies := (List.range 4).map fun d => (d, { Die.zero with pairLive := false }) } : State).livePair Config.dies = none ∧ st0.ensign = some 0 ∧ (st0.die 0).pairLive = true ∧ 3 < Config.dies ∧ st0.lms.toNat < 2 ^ 20 ∧
    ({ st0 with dies := [(0, { Die.zero with pairLive := false })] } : State).livePair 0 = some 1 ∧
    (({ st0 with dies := [(0, { Die.zero with pairLive := false })] } : State).die 0).pairLive = false ∧
    (3 ∉ st0.measDone ∧ 3 ∈ ({ st0 with measDone := [3] } : State).measDone) ∧
    ({ st0 with level := 2 } : State).level < 3 ∧ st0.conf = false ∧ (st0.port 1).tdi = .unlocked ∧
    (({ st0 with ports := [(1, { Port.zero with tdi := .locked })] } : State).port 1).tdi = .locked ∧
    (({ st0 with ports := [(1, { Port.zero with tdi := .run })] } : State).port 1).tdi = .run := by decide +kernel
/-- The key slot of that segment. -/
def key0 : KeySlot := ⟨1, 3, [1], 0, 0⟩
theorem witness_DeviceEvents_seal : (sealState [(4095, key0)]).ctx? 1 = some sealCtx ∧
    tabGet (sealState [(4095, key0)]).keys (sealCtx.desc (BitVec.ofNat 16 3)).keySlot = some key0 ∧ (sealCtx.desc (BitVec.ofNat 16 3)).kind = 7 ∧
    (sealState [(4095, key0)]).ensignRuns = true ∧ key0.ctx = 1 ∧ key0.sel = BitVec.ofNat 16 3 ∧ key0.key ≠ [] ∧ (sealState [(4095, key0)]).version 1 (BitVec.ofNat 16 3) 0 < 2 ^ 64 - 1 ∧
    0 * Config.pageBytes < (sealCtx.desc (BitVec.ofNat 16 3)).limit ∧
    (sealState [(4095, key0)]).ecc (residentKeys 1 (BitVec.ofNat 16 3) 0 ((sealCtx.desc (BitVec.ofNat 16 3)).pageLen 0)) = false ∧ pageKey 1 (BitVec.ofNat 16 3) 0 ∉ (sealState [(4095, key0)]).absent := by decide +kernel
theorem witness_DeviceEvents_scrub : Canonical { st0 with scrubbing := true } ∧ ({ st0 with scrubbing := true } : State).scrubbing = true := ⟨by decide +kernel, rfl⟩
/-- An idle partition's image in a slot of its die. -/
def shadow0 : Shadow := ⟨1, [], Partition.zero, [], false, .running, 0, [], [], []⟩
theorem witness_DeviceEvents_shadow : st0.canSave 0 = true ∧ st0.slotFits 0 1 = true ∧ tabGet st0.shadows 1 = none ∧
    tabGet ({ st0 with shadows := [(0, shadow0)] } : State).shadows 0 = some shadow0 ∧ ({ st0 with shadows := [(0, shadow0)] } : State).partIdle 1 = true ∧
    ({ st0 with shadows := [(0, shadow0)] } : State).partRuns 1 = true ∧ ({ st0 with shadows := [(0, shadow0)] } : State).imageFits shadow0 = true ∧
    (({ st0 with shadows := [(0, { shadow0 with part := 0 })] } : State).savePart 0 0).imageFits { shadow0 with part := 0 } = true ∧ st0.eccBad = [] ∧
    ({ st0 with shadows := [(0, { shadow0 with part := 0 })] } : State).canSave 0 = true := by decide +kernel
theorem witness_DeviceEvents_power : st0.powerCap < 2401 ∧ 100 * 2280 ≤ 95 * st0.powerCap := by decide +kernel

/-! ### The step and the encodings -/

/-- EXIT fetched after reset. -/
def fetchState : State := State.reset.withFetchWord 32 0x1D87
theorem witness_StepRunsDecoded : ∃ c g b, fetchState.issueQ = [c] ∧ fetchState.slotOk c = true ∧ fetchState.group? c.gid = some g ∧
    fetchState.band? c.gid c.band = some b ∧ ({ fetchState with issueQ := [] } : State).regErr c b (.exit ⟨7, false, 0, .none⟩) = none ∧
    ({ fetchState with issueQ := [] } : State).allotted g b (.exit ⟨7, false, 0, .none⟩) = true ∧ fetchState.eccBad = [] ∧ (∀ th ∈ b.threads, th.lBad = false) ∧
    (fetchState.unchecked c && fetchState.targetFault g.die g.ctx c.pc.sel c.pc.off.toNat == some rMisaligned) = false ∧
    (match fetchState.fetch g.die g.ctx c.pc with
      | .ok w len i => decide (w = 0x1D87 ∧ len = 4 ∧ i = .exit ⟨7, false, 0, .none⟩)
      | _ => false) = true := ⟨_, _, _, rfl, by decide +kernel, rfl, rfl, by decide +kernel, by decide +kernel, rfl, by decide +kernel,
        by decide +kernel, by decide +kernel⟩
theorem witness_StepRunsDecoded_event : ({ State.reset with schedule := [.heartbeat] } : State).issueQ = [] ∧ Instr.heartbeat.isProgram = false ∧
    ({ State.reset with schedule := [.heartbeat] } : State).behind .heartbeat = false := by decide
theorem witness_EncodeDecode : (Instr.iadd ⟨2, true, 15, .s⟩ .i64 true (.v 254) (.v 0) (.imm (-2147483648))).isProgram = true ∧
    (Instr.iadd ⟨2, true, 15, .s⟩ .i64 true (.v 254) (.v 0) (.imm (-2147483648))).wf = true := by decide +kernel
theorem witness_StepKeepsCanonicalMemory : Canonical fetchState ∧ fetchState.mem ≠ [] ∧ ∃ t, step fetchState = .next t :=
  ⟨by decide +kernel, by decide +kernel, _, rfl⟩

end Sys2Proof.Tests
end

section
/-! SUPPORT. The vector instructions on predicates, integers, logic, bit fields and handles (R118 to R130): what each evaluation function of
Machine/Integer.lean gives, then the obligations on them. -/

namespace Sys2Proof.Machine

open Sys2Proof.Safety

/-! ### Operands and results -/

theorem inAllotment_of_subset {g : Group} {b : Band} {us vs : List (Opd × Nat)} (hu : InAllotment g b us) (hv : vs ⊆ us) :
    InAllotment g b vs := fun v h => hu v (hv h)

theorem read32_toNat (e : Env) (o : Opd) : (e.read32 o).toNat = (e.read false o).toNat % 2 ^ 32 := by simp [Env.read32]

theorem extractLsb'_ofNat (n : Nat) : (BitVec.ofNat 64 n).extractLsb' 0 32 = BitVec.ofNat 32 n := by
  apply BitVec.eq_of_toNat_eq
  simp [Nat.mod_mod_of_dvd]

/-- Below w, the bits of a value taken modulo 2^w are its own. -/
theorem testBit_toNat_mod {v w i : Nat} (x : BitVec v) (hi : i < w) : (x.toNat % 2 ^ w).testBit i = x.getLsbD i := by
  simp [Nat.testBit_mod_two_pow, hi, BitVec.testBit_toNat]

theorem readInt_true_toNat {w : Nat} (x : BitVec w) : readInt true w x.toNat = x.toInt := by
  simp [readInt, BitVec.toInt_eq_msb_cond, BitVec.msb_eq_decide, Nat.mod_eq_of_lt x.isLt]
theorem readInt_false_toNat {w : Nat} (x : BitVec w) : readInt false w x.toNat = x.toNat := by
  simp [readInt, Nat.mod_eq_of_lt x.isLt]

/-- An instruction that puts one 64-bit computation at the width of its type: at 32 bits only its low word counts. -/
theorem wordResult_of_put {s c g b h i uses ty d} {f : Env → W64} {f32 : Env → Word} {f64 : Env → W64}
    (he : exec i s = laneOp s h uses fun e => e.t.put ty.is64 d (f e)) (hs : Issuing s c g b) (hu : InAllotment g b uses)
    (h32 : ty.is64 = false → ∀ e, (f e).extractLsb' 0 32 = f32 e) (h64 : ty.is64 = true → ∀ e, f e = f64 e) :
    WordResult s c g b h ty d i f32 f64 := by
  refine laneOp_result he hs hu fun e => ?_
  have hp := put_result e.t ty.is64 d (f e) c.next
  cases hw : ty.is64
  · rw [hw, Result, if_neg (by decide), h32 hw e] at hp
    simpa [hw] using hp
  · rw [hw, Result, if_pos rfl, h64 hw e] at hp
    simpa [hw, h64 hw e] using hp

/-! ### Predicates (R121, R124, R130) -/

/-- Settles O2: each of the three puts one predicate, of operands read as the statement reads them. -/
theorem predicateResults : Obligations.PredicateResults := by
  intro s c g b h ty t op cc p x y hs ht hu
  subst ht
  refine ⟨?plog, ?icmp, fun hu2 => ?hcmp⟩
  case plog => exact laneOp_result exec_plog hs (by simp [InAllotment]) fun e => putP_result0 ..
  case icmp => exact laneOp_result exec_icmp hs hu fun e => putP_result0 ..
  case hcmp => exact laneOp_result exec_hcmp hs hu2 fun e => putP_result0 ..

/-! ### Integer arithmetic (R122, R123) -/

theorem imad_result {s c g b h ty sat d x y z} (hs : Issuing s c g b) (hi : IntType (ty.or .i32))
    (hu : InAllotment g b [(d, width (ty.or .i32).is64), (x, width (ty.or .i32).is64), (y, width (ty.or .i32).is64),
      (z, width (ty.or .i32).is64)]) :
    IntResult s c g b h (ty.or .i32) sat d x y z (.imad h ty sat d x y z) (fun p q r => p * q + r) :=
  laneOp_result exec_imad hs hu fun _ => ⟨_, elementwise_intEval _ hi sat _ .., put_result ..⟩

theorem divQuot_eq (signed : Bool) (w : Nat) (p q : Int) :
    divQuot signed w p q = if q = 0 then (if signed then -1 else 2 ^ w - 1) else p.tdiv q := by
  simp [divQuot]

/-- The remainder of R123 is that of division truncated toward zero, which by zero is the dividend. -/
theorem irem_eq_tmod (p q : Int) : (if q == 0 then p else p - q * p.tdiv q) = p.tmod q := by
  by_cases hq : q = 0
  · simp [hq]
  · simp [hq, Int.tmod_def]

/-- Settles O3: every instruction is `intEval` of an exact function of the elements, which narrows each (`elementwise_intEval`); only the
quotient and the remainder are written differently in the model. -/
theorem integerResults : Obligations.IntegerResults := by
  intro s c g b h ty t sat d x y z hs ht hi hu
  subst ht
  refine ⟨?iadd, ?isub, ?imul, ?imulh, ?imad, ?idiv, ?irem, ?imin, ?imax, ?iabs, ?ineg⟩
  case iadd => exact intOp2_result exec_iadd hs hi hu fun _ _ _ => rfl
  case isub => exact intOp2_result exec_isub hs hi hu fun _ _ _ => rfl
  case imul => exact intOp2_result exec_imul hs hi hu fun _ _ _ => rfl
  case imulh => exact intOp2_result exec_imulh hs hi hu fun _ _ _ => rfl
  case imad => exact imad_result hs hi hu
  case idiv => exact intOp2_result exec_idiv hs hi hu fun p q _ => (divQuot_eq _ _ p q).symm
  case irem => exact intOp2_result exec_irem hs hi hu fun p q _ => (irem_eq_tmod p q).symm
  case imin => exact intOp2_result exec_imin hs hi hu fun _ _ _ => rfl
  case imax => exact intOp2_result exec_imax hs hi hu fun _ _ _ => rfl
  case iabs => exact intOp1_result exec_iabs hs hi hu fun _ _ _ => rfl
  case ineg => exact intOp1_result exec_ineg hs hi hu fun _ _ _ => rfl

/-! ### Bitwise instructions (R125) -/

/-- A bitwise function of 64 bits, given its 32-bit form on the low words. -/
theorem bitOp2_wordResult {s c g b h i ty d x y} {f : W64 → W64 → W64} {f32 : Word → Word → Word}
    (he : exec i s = bitOp2 s h ty d x y f) (hs : Issuing s c g b)
    (hu : InAllotment g b [(d, width ty.is64), (x, width ty.is64), (y, width ty.is64)])
    (hf : ∀ p q, (f p q).extractLsb' 0 32 = f32 (p.extractLsb' 0 32) (q.extractLsb' 0 32)) :
    WordResult s c g b h ty d i (fun e => f32 (e.read32 x) (e.read32 y)) (fun e => f (e.read true x) (e.read true y)) :=
  wordResult_of_put (by rw [he, bitOp2]) hs hu (fun hw e => by rw [hw]; exact hf _ _) fun hw e => by rw [hw]

theorem not_result {s c g b h ty d x} (hs : Issuing s c g b) (hu : InAllotment g b [(d, width ty.is64), (x, width ty.is64)]) :
    WordResult s c g b h ty d (.not h ty d x) (fun e => ~~~(e.read32 x)) (fun e => ~~~(e.read true x)) :=
  wordResult_of_put (f := fun e => ~~~(e.read ty.is64 x)) exec_not hs hu
    (fun hw e => by rw [hw, BitVec.extractLsb'_not_of_lt (by decide)]; rfl) fun hw e => by rw [hw]

theorem bitOpLong_result {s c g b h i d x} {imm : Word} {f : Word → Word → Word} (he : exec i s = bitOpLong s h d x imm f)
    (hs : Issuing s c g b) (hu : InAllotment g b [(d, 1), (x, 1)]) :
    LaneResult s c g b h i fun e t' => Result32 d (f (e.read32 x) imm) 0 e.t t' :=
  laneOp_result he hs hu fun _ => put32_result ..

/-! ### Shifts (R126) -/

theorem shiftEval_shl {w : Nat} (x : BitVec w) (n : Nat) : shiftEval .shl w x.toNat n = (x <<< n).toNat := by
  by_cases hn : n < w
  · simp [shiftEval, hn, Nat.shiftLeft_eq]
  · simp [shiftEval, hn, BitVec.shiftLeft_eq_zero (Nat.le_of_not_lt hn)]

theorem shiftEval_shr {w : Nat} (x : BitVec w) (n : Nat) : shiftEval .shr w x.toNat n = (x >>> n).toNat := by
  by_cases hn : n < w
  · simp [shiftEval, hn, Nat.shiftRight_eq_div_pow]
  · simp [shiftEval, hn, BitVec.ushiftRight_eq_zero (Nat.le_of_not_lt hn)]

theorem shiftRight_eq_zero_of_le {a w n : Nat} (ha : a < 2 ^ w) (hn : w ≤ n) : a >>> n = 0 := by
  rw [Nat.shiftRight_eq_div_pow]
  exact Nat.div_eq_of_lt (Nat.lt_of_lt_of_le ha (Nat.pow_le_pow_right (by decide) hn))

/-- By the width or more, both a value and its complement shift out, so that only the sign is left. -/
theorem shiftEval_sar {w : Nat} (x : BitVec w) (n : Nat) : shiftEval .sar w x.toNat n = (x.sshiftRight n).toNat := by
  by_cases hn : n < w
  · simp [shiftEval, hn, readInt_true_toNat, BitVec.sshiftRight, BitVec.toNat_ofInt, Int.shiftRight_eq_div_pow]
  · have hx : x.toNat >>> n = 0 := shiftRight_eq_zero_of_le x.isLt (Nat.le_of_not_lt hn)
    have hc : 2 ^ w - 1 - x.toNat < 2 ^ w := by have := Nat.two_pow_pos w; omega
    have hcx : (2 ^ w - 1 - x.toNat) >>> n = 0 := shiftRight_eq_zero_of_le hc (Nat.le_of_not_lt hn)
    simp [shiftEval, hn, BitVec.toNat_sshiftRight, BitVec.msb_eq_decide, hx, hcx]

/-- The two parts of a rotation occupy different bits, so that their sum is their union. -/
theorem shiftEval_rol {w : Nat} (hw : 0 < w) (x : BitVec w) (n : Nat) :
    shiftEval .rol w x.toNat n = (x.rotateLeft n).toNat := by
  have hm : n % w < w := Nat.mod_lt n hw
  generalize hk : n % w = m at hm
  have hlow : x.toNat / 2 ^ (w - m) < 2 ^ m := by
    rw [Nat.div_lt_iff_lt_mul (Nat.two_pow_pos _), ← Nat.pow_add]
    exact Nat.lt_of_lt_of_eq x.isLt (by congr 1; omega)
  have hlow' : x.toNat / 2 ^ (w - m) < 2 ^ w := Nat.lt_of_le_of_lt (Nat.div_le_self ..) x.isLt
  simp only [shiftEval, BitVec.toNat_rotateLeft, hk, Nat.shiftRight_eq_div_pow]
  rw [← Nat.shiftLeft_eq, Nat.shiftLeft_add_eq_or_of_lt hlow, Nat.or_mod_two_pow, Nat.mod_eq_of_lt hlow']

/-- A shift, given the function of bit vectors that its evaluation computes at every width. -/
theorem shiftOp_wordResult {s c g b h i ty k d x y} {f : {w : Nat} → BitVec w → Nat → BitVec w}
    (he : exec i s = shiftOp s h ty k d x y) (hs : Issuing s c g b)
    (hu : InAllotment g b [(d, width ty.is64), (x, width ty.is64), (y, 1)])
    (hf : ∀ {w : Nat}, 0 < w → ∀ (p : BitVec w) (n : Nat), shiftEval k w p.toNat n = (f p n).toNat) :
    WordResult s c g b h ty d i (fun e => f (e.read32 x) (e.read32 y).toNat) (fun e => f (e.read true x) (e.read32 y).toNat) := by
  simp only [shiftOp] at he
  refine wordResult_of_put he hs hu (fun hw e => ?_) fun hw e => ?_
  · simp only [hw, Bool.false_eq_true, if_false]
    rw [← read32_toNat, hf (by decide), extractLsb'_ofNat, BitVec.ofNat_toNat, BitVec.setWidth_eq]
  · simp only [hw, if_true]
    rw [Nat.mod_eq_of_lt (e.read true x).isLt, hf (by decide), BitVec.ofNat_toNat, BitVec.setWidth_eq]

/-- Settles O5: the bitwise functions commute with taking the low word, and each shift of the model is that of bit vectors, at every count. -/
theorem logicAndShiftResults : Obligations.LogicAndShiftResults := by
  intro s c g b h ty d x y imm hs
  refine ⟨fun hu => ⟨?and, ?or, ?xor, ?andn, ?not⟩, fun hu => ⟨?andLong, ?orLong, ?xorLong⟩, fun hu => ⟨?shl, ?shr, ?sar, ?rol⟩⟩
  case and => exact bitOp2_wordResult exec_and hs hu fun _ _ => BitVec.extractLsb'_and
  case or => exact bitOp2_wordResult exec_or hs hu fun _ _ => BitVec.extractLsb'_or
  case xor => exact bitOp2_wordResult exec_xor hs hu fun _ _ => BitVec.extractLsb'_xor
  case andn =>
    refine bitOp2_wordResult (f32 := fun p q => p &&& ~~~q) exec_andn hs hu fun p q => ?_
    rw [BitVec.extractLsb'_and, BitVec.extractLsb'_not_of_lt (by decide)]
  case not => exact not_result hs (inAllotment_of_subset hu (by simp))
  case andLong => exact bitOpLong_result exec_andLong hs hu
  case orLong => exact bitOpLong_result exec_orLong hs hu
  case xorLong => exact bitOpLong_result exec_xorLong hs hu
  case shl => exact shiftOp_wordResult (f := fun p n => p <<< n) exec_shl hs hu fun _ => shiftEval_shl
  case shr => exact shiftOp_wordResult (f := fun p n => p >>> n) exec_shr hs hu fun _ => shiftEval_shr
  case sar => exact shiftOp_wordResult (f := fun p n => p.sshiftRight n) exec_sar hs hu fun _ => shiftEval_sar
  case rol => exact shiftOp_wordResult (f := fun p n => p.rotateLeft n) exec_rol hs hu shiftEval_rol

/-! ### Bit counts (R127) -/

theorem testBit_comp_succ (n : Nat) : n.testBit ∘ Nat.succ = (n / 2).testBit := funext fun i => Nat.testBit_succ n i

theorem popNat_eq_countP (w n : Nat) : popNat w n = (List.range w).countP n.testBit := by
  induction w generalizing n with
  | zero => rfl
  | succ w ih =>
    rw [popNat, ih, List.range_succ_eq_map, List.countP_cons, List.countP_map, testBit_comp_succ, Nat.add_comm]
    rcases Nat.mod_two_eq_zero_or_one n with h | h <;> simp [Nat.testBit_zero, h]

theorem ctzNat_eq_findIdx (w n : Nat) : ctzNat w n = (List.range w).findIdx n.testBit := by
  induction w generalizing n with
  | zero => rfl
  | succ w ih =>
    rw [ctzNat, ih, List.range_succ_eq_map, List.findIdx_cons, List.findIdx_map, testBit_comp_succ, Nat.add_comm]
    rcases Nat.mod_two_eq_zero_or_one n with h | h <;> simp [Nat.testBit_zero, h]

theorem brevNat_lt (w n : Nat) : brevNat w n < 2 ^ w := by
  induction w generalizing n with
  | zero => simp [brevNat]
  | succ w ih =>
    have hr := ih (n / 2)
    rw [brevNat, Nat.pow_succ]
    rcases Nat.mod_two_eq_zero_or_one n with h | h <;> rw [h] <;> omega

theorem testBit_brevNat {w i : Nat} (n : Nat) (hi : i < w) : (brevNat w n).testBit i = n.testBit (w - 1 - i) := by
  induction w generalizing n i with
  | zero => omega
  | succ w ih =>
    rw [brevNat, Nat.mul_comm, Nat.testBit_two_pow_mul_add _ (brevNat_lt w _)]
    by_cases hw : i < w
    · rw [if_pos hw, ih _ hw, ← Nat.testBit_succ]
      congr 1; omega
    · obtain rfl : i = w := by omega
      simp [Nat.testBit_zero]

theorem findIdx_range_congr {w : Nat} {p q : Nat → Bool} (h : ∀ i < w, p i = q i) :
    (List.range w).findIdx p = (List.range w).findIdx q := by
  induction w generalizing p q with
  | zero => rfl
  | succ w ih =>
    have ht := ih (p := p ∘ Nat.succ) (q := q ∘ Nat.succ) fun i hi => h (i + 1) (by omega)
    rw [List.range_succ_eq_map, List.findIdx_cons, List.findIdx_cons, List.findIdx_map, List.findIdx_map, h 0 (by omega), ht]

theorem popNat_toNat_mod {v : Nat} (x : BitVec v) (w : Nat) :
    popNat w (x.toNat % 2 ^ w) = (List.range w).countP fun i => x.getLsbD i := by
  rw [popNat_eq_countP]
  exact List.countP_congr fun i hi => by rw [testBit_toNat_mod x (List.mem_range.mp hi)]

theorem ctzNat_toNat_mod {v : Nat} (x : BitVec v) (w : Nat) :
    ctzNat w (x.toNat % 2 ^ w) = (List.range w).findIdx fun i => x.getLsbD i := by
  rw [ctzNat_eq_findIdx]
  exact findIdx_range_congr fun i hi => testBit_toNat_mod x hi

/-- The zeros above the highest set bit are those below the lowest one of the reversed value. -/
theorem ctzNat_brevNat_toNat_mod {v : Nat} (x : BitVec v) (w : Nat) :
    ctzNat w (brevNat w (x.toNat % 2 ^ w)) = (List.range w).findIdx fun i => x.getLsbD (w - 1 - i) := by
  rw [ctzNat_eq_findIdx]
  exact findIdx_range_congr fun i hi => by rw [testBit_brevNat _ hi, testBit_toNat_mod x (by omega)]

theorem getLsbD_ofNat_brevNat {v w i : Nat} (x : BitVec v) (hw : w ≤ 64) (hi : i < w) :
    (BitVec.ofNat 64 (brevNat w (x.toNat % 2 ^ w))).getLsbD i = x.getLsbD (w - 1 - i) := by
  rw [BitVec.getLsbD_ofNat, decide_eq_true (Nat.lt_of_lt_of_le hi hw), Bool.true_and, testBit_brevNat _ hi,
    testBit_toNat_mod _ (by omega)]

/-- A bit count, given what its function makes of the operand. -/
theorem countOp_result {s c g b h i ty d x w} {f : Nat → Nat → Nat} {r : Env → Nat} (he : exec i s = countOp s h ty d x f)
    (hs : Issuing s c g b) (hw : w = if ty.is64 then 64 else 32) (hu : InAllotment g b [(d, 1), (x, width ty.is64)])
    (hf : ∀ e : Env, f w ((e.read ty.is64 x).toNat % 2 ^ w) = r e) :
    LaneResult s c g b h i fun e t' => Result32 d (BitVec.ofNat 32 (r e)) 0 e.t t' := by
  subst hw
  simp only [countOp, hf] at he
  exact laneOp_result he hs hu fun e => put32_result ..

/-- Settles O6: the recursions of the model over the bits are a count, a search and a reversal of the range of bit positions. -/
theorem bitCountResults : Obligations.BitCountResults := by
  intro s c g b h ty d x w hs hw
  have h64 : w ≤ 64 := by subst hw; split <;> decide
  refine ⟨fun hu => ⟨?popc, ?clz, ?ctz⟩, fun hu => ?brev⟩
  case popc => exact countOp_result exec_popc hs hw hu fun _ => popNat_toNat_mod ..
  case clz => exact countOp_result exec_clz hs hw hu fun _ => ctzNat_brevNat_toNat_mod ..
  case ctz => exact countOp_result exec_ctz hs hw hu fun _ => ctzNat_toNat_mod ..
  case brev =>
    have he := exec_brev (s := s) (h := h) (ty := ty) (d := d) (a := x)
    simp only [execBrev, ← hw] at he
    exact laneOp_result he hs hu fun _ => ⟨_, put_result .., fun _ hi => getLsbD_ofNat_brevNat _ h64 hi⟩

/-! ### Bit fields (R128) -/

/-- A field read by a type and held in w bits: its own bits, and above them zeros or its highest. -/
theorem testBit_readInt_emod {w len i : Nat} (signed : Bool) (f : BitVec len) (hi : i < w) :
    (readInt signed len f.toNat % (2 ^ w : Int)).toNat.testBit i = if i < len then f.getLsbD i else signed && f.msb := by
  cases signed
  · have hn : ((f.toNat : Int) % 2 ^ w).toNat = f.toNat % 2 ^ w := by norm_cast
    rw [readInt_false_toNat, hn, testBit_toNat_mod f hi]
    by_cases hl : i < len
    · rw [if_pos hl]
    · rw [if_neg hl, BitVec.getLsbD_of_ge f i (by omega), Bool.false_and]
  · have hn : (f.toInt % (2 ^ w : Int)).toNat = (f.signExtend w).toNat := by
      simp [BitVec.signExtend, BitVec.toNat_ofInt]
    rw [readInt_true_toNat, hn, BitVec.testBit_toNat, BitVec.getLsbD_signExtend]
    simp [hi]

theorem field_eq_extractLsb' {v w pos len : Nat} (x : BitVec v) (h : pos + len ≤ w) :
    x.toNat % 2 ^ w / 2 ^ pos % 2 ^ len = (x.extractLsb' pos len).toNat := by
  apply Nat.eq_of_testBit_eq
  intro i
  simp only [Nat.testBit_mod_two_pow, Nat.testBit_div_two_pow, BitVec.testBit_toNat, BitVec.getLsbD_extractLsb', Nat.add_comm pos]
  by_cases hi : i < len
  · simp [hi, show i + pos < w by omega]
  · simp [hi]

theorem msb_field {v len : Nat} (x : BitVec v) (pos : Nat) (hl : 0 < len) :
    (x.extractLsb' pos len).msb = x.getLsbD (pos + len - 1) := by
  have hlast : len - 1 < len := Nat.sub_lt hl Nat.one_pos
  rw [BitVec.msb_eq_getLsbD_last, BitVec.getLsbD_extractLsb', decide_eq_true hlast, Bool.true_and, Nat.add_sub_assoc hl]

theorem fieldOf_eq_none {w : Nat} {spec : Word} (h : w ≤ (spec.extractLsb' 0 8).toNat ∨ (spec.extractLsb' 8 8).toNat = 0) :
    fieldOf w spec = none :=
  if_pos (by simpa only [Bool.or_eq_true, decide_eq_true_eq, beq_iff_eq] using h)
theorem fieldOf_eq_some {w : Nat} {spec : Word} (h : ¬(w ≤ (spec.extractLsb' 0 8).toNat ∨ (spec.extractLsb' 8 8).toNat = 0)) :
    fieldOf w spec = some ((spec.extractLsb' 0 8).toNat, min (spec.extractLsb' 8 8).toNat (w - (spec.extractLsb' 0 8).toNat)) :=
  if_neg (by simpa only [Bool.or_eq_true, decide_eq_true_eq, beq_iff_eq] using h)

/-- BFX takes the field: an empty one is 0, another is the clipped run of bits, read by the type. -/
theorem fieldTaken_bfxEval {signed : Bool} {w : Nat} (hw : w ≤ 64) (x : W64) (spec : Word) :
    FieldTaken signed w (spec.extractLsb' 0 8).toNat (spec.extractLsb' 8 8).toNat x
      (BitVec.ofNat 64 (bfxEval signed w (x.toNat % 2 ^ w) spec)) := by
  intro i hi
  rw [BitVec.getLsbD_ofNat, decide_eq_true (Nat.lt_of_lt_of_le hi hw), Bool.true_and, bfxEval]
  by_cases he : w ≤ (spec.extractLsb' 0 8).toNat ∨ (spec.extractLsb' 8 8).toNat = 0
  · rw [fieldOf_eq_none he, if_pos he, Nat.zero_testBit]
  · rw [fieldOf_eq_some he, if_neg he]
    simp only []
    generalize (spec.extractLsb' 0 8).toNat = pos at he ⊢
    have hm : 0 < min (spec.extractLsb' 8 8).toNat (w - pos) ∧ pos + min (spec.extractLsb' 8 8).toNat (w - pos) ≤ w := by omega
    generalize min (spec.extractLsb' 8 8).toNat (w - pos) = m at hm ⊢
    rw [field_eq_extractLsb' x hm.2, testBit_readInt_emod signed _ hi]
    by_cases hl : i < m
    · rw [if_pos hl, if_pos hl, BitVec.getLsbD_extractLsb', decide_eq_true hl, Bool.true_and]
    · rw [if_neg hl, if_neg hl, msb_field x pos hm.1]

/-- A run of bits of f between the low and the high bits of c. -/
theorem testBit_splice (c f pos len i : Nat) :
    (c % 2 ^ pos + f % 2 ^ len * 2 ^ pos + c / 2 ^ (pos + len) * 2 ^ (pos + len)).testBit i =
      if pos ≤ i ∧ i < pos + len then f.testBit (i - pos) else c.testBit i := by
  have hc : c % 2 ^ pos < 2 ^ pos := Nat.mod_lt _ (Nat.two_pow_pos _)
  have hlow : 2 ^ pos * (f % 2 ^ len) + c % 2 ^ pos < 2 ^ (pos + len) := by
    have hf : f % 2 ^ len + 1 ≤ 2 ^ len := Nat.mod_lt _ (Nat.two_pow_pos _)
    have hmul := Nat.mul_le_mul_left (2 ^ pos) hf
    rw [Nat.mul_succ] at hmul
    rw [Nat.pow_add]
    omega
  have hsum : c % 2 ^ pos + f % 2 ^ len * 2 ^ pos + c / 2 ^ (pos + len) * 2 ^ (pos + len) =
      2 ^ (pos + len) * (c / 2 ^ (pos + len)) + (2 ^ pos * (f % 2 ^ len) + c % 2 ^ pos) := by
    rw [Nat.mul_comm (f % 2 ^ len), Nat.mul_comm (c / 2 ^ (pos + len))]; omega
  rw [hsum, Nat.testBit_two_pow_mul_add _ hlow, Nat.testBit_two_pow_mul_add _ hc]
  by_cases h1 : i < pos
  · simp [h1, show i < pos + len by omega, show ¬ pos ≤ i by omega, Nat.testBit_mod_two_pow]
  · by_cases h2 : i < pos + len
    · simp [h1, h2, show pos ≤ i by omega, Nat.testBit_mod_two_pow, show i - pos < len by omega]
    · simp [h2, Nat.testBit_div_two_pow, show i - (pos + len) + (pos + len) = i by omega]

/-- BFI puts the field; clipping it to the width changes no bit below the width. -/
theorem fieldPut_bfiEval {w : Nat} (hw : w ≤ 64) (x z : W64) (spec : Word) :
    FieldPut w (spec.extractLsb' 0 8).toNat (spec.extractLsb' 8 8).toNat x z
      (BitVec.ofNat 64 (bfiEval w (x.toNat % 2 ^ w) (z.toNat % 2 ^ w) spec)) := by
  intro i hi
  rw [BitVec.getLsbD_ofNat, decide_eq_true (Nat.lt_of_lt_of_le hi hw), Bool.true_and, bfiEval]
  by_cases he : w ≤ (spec.extractLsb' 0 8).toNat ∨ (spec.extractLsb' 8 8).toNat = 0
  · rw [fieldOf_eq_none he, if_neg (by omega), testBit_toNat_mod z hi]
  · rw [fieldOf_eq_some he]
    simp only []
    rw [testBit_splice, testBit_toNat_mod z hi, testBit_toNat_mod x (by omega)]
    congr 1
    simp only [eq_iff_iff]
    omega

theorem bits_of_wordType {t : Ty} (ht : t ∈ [Ty.i32, .i64, .n32, .n64]) : t.bits = if t.is64 then 64 else 32 := by
  simp only [List.mem_cons, List.not_mem_nil, or_false] at ht
  rcases ht with rfl | rfl | rfl | rfl <;> rfl

theorem is64_or_n32 (ty : Ty) : (ty.or .n32).is64 = ty.is64 := by cases ty <;> rfl

/-- Settles O7: the evaluation of each instruction takes or puts the field, bit by bit (`fieldTaken_bfxEval`, `fieldPut_bfiEval`). -/
theorem bitFieldResults : Obligations.BitFieldResults := by
  intro s c g b h ty t d x y z imm w hs ht hty hw hu hu32
  have hbits := bits_of_wordType hty
  have hw64 : w ≤ 64 := by rw [hw, hbits]; split <;> decide
  refine ⟨?bfx, ?bfxLong, ?bfi⟩
  case bfx =>
    have he := exec_bfx (s := s) (h := h) (ty := ty) (d := d) (a := x) (b := y)
    simp only [execBfx, ← ht, ← hw] at he
    exact laneOp_result he hs (inAllotment_of_subset hu (by simp)) fun _ => ⟨_, put_result .., fieldTaken_bfxEval hw64 _ _⟩
  case bfxLong =>
    refine laneOp_result exec_bfxLong hs hu32 fun _ => ⟨_, ?_, fieldTaken_bfxEval (by decide) _ _⟩
    rw [extractLsb'_ofNat, ← read32_toNat]
    exact put32_result ..
  case bfi =>
    have hty64 : ty.is64 = t.is64 := by rw [ht, is64_or_n32]
    have he := exec_bfi (s := s) (h := h) (ty := ty) (d := d) (a := x) (b := y) (c := z)
    simp only [execBfi, hty64, ← hbits, ← hw] at he
    exact laneOp_result he hs hu fun _ => ⟨_, put_result .., fieldPut_bfiEval hw64 _ _ _⟩

/-! ### Handles (R129) -/

@[simp] theorem hsel_append (sel : BitVec 16) (off : BitVec 48) : hsel (sel ++ off) = sel := BitVec.extractLsb'_append_eq_left
@[simp] theorem hoff_append (sel : BitVec 16) (off : BitVec 48) : hoff (sel ++ off) = off.toNat :=
  congrArg BitVec.toNat BitVec.extractLsb'_append_eq_right
theorem hoff_lt (a : W64) : hoff a < 2 ^ 48 := (a.extractLsb' 0 48).isLt

theorem hsel_stepHandle (a : W64) (n : Int) (k : Nat) : hsel (stepHandle a n k) = hsel a := hsel_append ..
theorem hoff_stepHandle (a : W64) (n : Int) (k : Nat) : (hoff (stepHandle a n k) : Int) = ((hoff a : Int) + n * 2 ^ k) % 2 ^ 48 := by
  rw [stepHandle, hoff_append, BitVec.toNat_ofInt]
  exact Int.toNat_of_nonneg (Int.emod_nonneg _ (by decide))

/-- Offsets have 48 bits, so that their difference fits 64 signed bits. -/
theorem toInt_handleDiff_same {a b : W64} (h : hsel a = hsel b) : (handleDiff a b).toInt = (hoff a : Int) - hoff b := by
  have ha := hoff_lt a
  have hb := hoff_lt b
  have hd : handleDiff a b = BitVec.ofInt 64 ((hoff a : Int) - hoff b) := if_pos (beq_iff_eq.mpr h)
  rw [hd, BitVec.toInt_ofInt_eq_self (by decide)] <;> omega
theorem handleDiff_other {a b : W64} (h : hsel a ≠ hsel b) : handleDiff a b = 0x8000000000000000 :=
  if_neg fun h' => h (beq_iff_eq.mp h')

/-- Settles O8: a handle is its selector before its offset, and each instruction works on the two apart. -/
theorem handleResults : Obligations.HandleResults := by
  intro s c g b h ty t scl d x y imm hs ht _
  subst ht
  refine ⟨fun hu => ?hadd, fun hu => ?haddLong, fun hu => ?hsub, fun hu => ?hsel, fun hu => ?hoff, fun hu => ?hmake⟩
  case hadd => exact laneOp_result exec_hadd hs hu fun _ => ⟨_, put64_result .., hsel_stepHandle .., hoff_stepHandle ..⟩
  case haddLong =>
    refine laneOp_result exec_haddLong hs hu fun e => ⟨_, put64_result .., hsel_stepHandle .., ?_⟩
    simpa using hoff_stepHandle (e.read true x) imm.toInt 0
  case hsub => exact laneOp_result exec_hsub hs hu fun _ => ⟨_, put64_result .., toInt_handleDiff_same, handleDiff_other⟩
  case hsel => exact laneOp_result exec_hsel hs hu fun _ => put32_result ..
  case hoff =>
    refine laneOp_result exec_hoff hs hu fun e => ?_
    rw [hoff, BitVec.ofNat_toNat]
    exact put64_result ..
  case hmake => exact laneOp_result exec_hmake hs hu fun _ => ⟨_, put64_result .., hsel_append .., hoff_append ..⟩

end Sys2Proof.Machine
end

section
/-! SUPPORT. The lane exchanges (R155 to R159): who takes part, what each of the exchanged values is among them, then the obligation. -/

namespace Sys2Proof.Machine

open Sys2Proof.Safety

theorem is64_or_i32 (ty : Ty) : (ty.or .i32).is64 = ty.is64 := by cases ty <;> rfl

/-! ### The participants (R155) -/

/-- A participant is the environment of its own lane. -/
theorem eq_env_of_mem_participants {s c g b h} {o : Env} (ho : o ∈ participants s c g b h) :
    ∃ t, b.threads[o.lane]? = some t ∧ o = ⟨s, c, g, b, t, o.lane⟩ := by
  obtain ⟨i, -, hi⟩ := List.mem_filterMap.mp ho
  obtain ⟨t, ht, rfl⟩ := Option.map_eq_some_iff.mp hi
  exact ⟨t, ht, rfl⟩

theorem eq_of_lane_eq {s c g b h} {o p : Env} (ho : o ∈ participants s c g b h) (hp : p ∈ participants s c g b h)
    (hl : o.lane = p.lane) : o = p := by
  obtain ⟨t, ht, hto⟩ := eq_env_of_mem_participants ho
  obtain ⟨u, hu, hup⟩ := eq_env_of_mem_participants hp
  have htu : t = u := Option.some.inj (by rw [← ht, hl, hu])
  rw [hto, hup, htu, hl]

/-- Looking for a participant's lane finds that participant. -/
theorem find?_lane_participants {s c g b h} {o : Env} {j : Nat} (ho : o ∈ participants s c g b h) (hl : o.lane = j) :
    (participants s c g b h).find? (fun p => p.lane == j) = some o := by
  cases hf : (participants s c g b h).find? fun p => p.lane == j with
  | none => exact absurd (beq_iff_eq.mpr hl) (List.find?_eq_none.mp hf o ho)
  | some p =>
    have hp : p.lane = j := by simpa using List.find?_some hf
    rw [eq_of_lane_eq (List.mem_of_find?_eq_some hf) ho (hp.trans hl.symm)]

/-- An exchange, as the statement names its participants. -/
theorem exchange_result {s c g b h i uses} {f : List Env → Env → Thread} {res : Env → Thread → Prop} (he : exec i s = exchOp s h uses f)
    (hs : Issuing s c g b) (hu : InAllotment g b uses) (hr : ∀ e, res e ((f (participants s c g b h) e).advance c.next)) :
    LaneResult s c g b h i res := exchOp_result he hs hu hr

/-! ### Shuffles (R156) -/

/-- The value that a shuffle gives a lane: that of the participant at the source lane, or the lane's own. -/
theorem shfl_result {s c g b h ty mode seg d x y} (hs : Issuing s c g b)
    (hu : InAllotment g b [(d, width ty.is64), (x, width ty.is64), (y, 1)]) :
    LaneResult s c g b h (.shfl h ty mode seg d x y) (fun e t' =>
      (∀ j o, shflSrc mode (segSize seg) e.lane (e.read32 y).toInt = some j → o ∈ participants s c g b h → o.lane = j →
        Result ty.is64 d (o.read ty.is64 x) 0 e.t t') ∧
      ((∀ j, shflSrc mode (segSize seg) e.lane (e.read32 y).toInt = some j → ∀ o ∈ participants s c g b h, o.lane ≠ j) →
        Result ty.is64 d (e.read ty.is64 x) 0 e.t t')) := by
  refine exchange_result (exec_shfl.trans (execShfl.eq_1 ..)) hs hu fun e => ⟨fun j o hj ho hl => ?_, fun hn => ?_⟩
  · simp only [hj, find?_lane_participants ho hl, Option.getD_some]
    exact put_result ..
  · cases hj : shflSrc mode (segSize seg) e.lane (e.read32 y).toInt with
    | none => exact put_result ..
    | some j =>
      have hf : (participants s c g b h).find? (fun p => p.lane == j) = none :=
        List.find?_eq_none.mpr fun o ho hl => hn j hj o ho (beq_iff_eq.mp hl)
      simp only [hf, Option.getD_none]
      exact put_result ..

/-! ### Votes (R157) -/

/-- A vote into a predicate, given what its mode makes of the participants' values. -/
theorem vote_result {s c g b h vm p x} {r : Bool} {f : List Bool → Bool} (hs : Issuing s c g b)
    (he : execVote h vm (.p p) x s = exchOp s h [(.p p, 1)] fun es e => e.t.putP (.p p) (f (es.map fun o => o.pred x)))
    (hf : f ((participants s c g b h).map fun o => o.pred x) = r) :
    LaneResult s c g b h (.vote h vm (.p p) x) fun e t' => ResultP (.p p) r 0 e.t t' := by
  refine exchange_result (exec_vote.trans he) hs (by simp [InAllotment, fits]) fun e => ?_
  rw [hf]
  exact putP_result0 ..

theorem getLsbD_foldl_lanes (es : List Env) (m : Word) {l : Nat} (hl : l < 32) :
    (es.foldl (fun m o => m ||| BitVec.twoPow 32 o.lane) m).getLsbD l = (m.getLsbD l || decide (∃ o ∈ es, o.lane = l)) := by
  induction es generalizing m with
  | nil => simp
  | cons o es ih => rw [List.foldl_cons, ih]; simp [hl, Bool.or_assoc, eq_comm (a := l)]

/-- A ballot sets the bits of the participants whose predicate is true. -/
theorem ballot_result {s c g b h d x} (hs : Issuing s c g b) (hu : InAllotment g b [(d, 1)]) :
    LaneResult s c g b h (.vote h .bal d x) fun e t' => ∃ r : Word,
      (∀ l < 32, r.getLsbD l = decide (∃ o ∈ participants s c g b h, o.lane = l ∧ o.pred x = true)) ∧ Result32 d r 0 e.t t' := by
  refine exchange_result (exec_vote.trans (execVote.eq_1 ..)) hs hu fun e => ⟨_, fun l hl => ?_, put32_result ..⟩
  rw [getLsbD_foldl_lanes _ _ hl]
  simp only [List.mem_filter, BitVec.getLsbD_zero, Bool.false_or, and_assoc, and_comm (a := _ = l)]

/-! ### The exchanges -/

/-- An exchange that puts a code and flags, given what it makes of the participants for each lane (R158, R159). -/
theorem combine_result {s c g b h i uses wide d} {f : List Env → Env → Nat × Word} {r : Env → Nat × Word} (hs : Issuing s c g b)
    (he : exec i s = exchOp s h uses fun es e => e.fput wide d (f es e)) (hu : InAllotment g b uses)
    (hf : ∀ e, f (participants s c g b h) e = r e) : FloatResult s c g b h wide d i r :=
  exchange_result he hs hu fun e => hf e ▸ put_flags_result ..

/-- Settles O18: the participants have lanes of their own, so that a source lane names one of them; each other instruction puts a function
of all their values. -/
theorem exchangeResults : Obligations.ExchangeResults := by
  intro s c g b h ty t mode seg rnd ftz sat exc red p d x y hs ht hu hu1
  subst ht
  refine ⟨?shfl, ?all, ?any, ?uni, ?bal, ?lred, ?scan⟩
  case shfl =>
    simp only [is64_or_i32] at hu ⊢
    exact shfl_result hs hu
  case all => exact vote_result (f := fun ps => ps.all id) hs rfl (by simp [List.all_eq])
  case any => exact vote_result (f := fun ps => ps.any id) hs rfl (by simp [List.any_eq])
  case uni =>
    refine vote_result (f := fun ps => ps.all id || !(ps.any id)) hs rfl ?_
    rw [Bool.eq_iff_iff]; simp
  case bal => exact ballot_result hs hu1
  case lred => exact combine_result hs (exec_lred.trans (execLred.eq_1 ..)) (inAllotment_of_subset hu (by simp)) fun _ => rfl
  case scan => exact combine_result hs (exec_scan.trans (execScan.eq_1 ..)) (inAllotment_of_subset hu (by simp)) fun _ => rfl

end Sys2Proof.Machine
end
